-- ==== Sys2Proof/Word.lean ====
section
/-! DEFINITION. Words, bytes and masks of the C2 (spec/00_scope.md R3, spec/01_sequential_machine.md R9). -/

namespace Sys2Proof

/-- A byte of memory. -/
abbrev Byte := BitVec 8

/-- A 64-bit general or system register (R9). -/
abbrev Word := BitVec 64

/-- A 32-bit vector register value or instruction word (R27, R93). -/
abbrev Half := BitVec 32

/-- One bit for each of the up to 1,024 lanes of a pack, lane 0 lowest (R94). -/
abbrev Lanes := BitVec 1024

end Sys2Proof
end

