-- ==== Sys2Proof/Config.lean ====
section
/-! DEFINITION. What a GS-C2M fixes (spec/00_scope.md R2) and the free values: constants without a body, for what
the spec leaves open. -/

namespace Sys2Proof.Config

/-- Cores of the device: 4 dies of 6 clusters of 24 cores (R2). -/
abbrev numCores : Nat := 576
/-- Clusters of the device (R2). -/
abbrev numClusters : Nat := 24
/-- Dies of the device (R2). -/
abbrev numDies : Nat := 4
/-- Pack slots of one core (R93). -/
abbrev numSlots : Nat := 48
/-- Vector registers of one core (R2, R170). -/
abbrev coreRegs : Nat := 131072
/-- Flow table entries of the device (R97). -/
abbrev flowEntries : Nat := 1048576
/-- Entries of a core's Heel (R106). -/
abbrev heelEntries : Nat := 2048
/-- Scent slots of one die (R253). -/
abbrev scentSlots : Nat := 16384
/-- Local HBM that contexts can map, 752 GiB (R174, R175). -/
abbrev hbmMappable : Nat := 0xBC00000000
/-- All local HBM, 768 GiB (R2, R175). -/
abbrev hbmSize : Nat := 0xC000000000

/-- For how many issue slots in a row a ready pack is passed over at most (R122, LOG 2): 48 runs of 16. -/
abbrev fairSlots : Nat := 768

/-- FREE VALUE (DESIGN CHOICE, LOG 6): core cycles that pass beyond the issue cycles of R95 and R168, fresh for each issue. -/
opaque stall : Nat → Nat
/-- FREE VALUE (DESIGN CHOICE, LOG 5): a word the spec does not give, fresh for each use of the counter in State. -/
opaque freeWord : Nat → Word
/-- FREE VALUE (DESIGN CHOICE, LOG 8): the domain number that firmware gives the device at bring-up, taken modulo 64 (R333). -/
opaque deviceDomain : Nat
/-- FREE VALUE (DESIGN CHOICE, LOG 8): the index within its domain that firmware gives the device, taken modulo 144 (R333). -/
opaque deviceIndex : Nat
/-- FREE VALUE (DESIGN CHOICE, LOG 14): the digest of the boot ROM, measurement 1 of R344. -/
opaque bootRomDigest : BitVec 256
/-- FREE VALUE (DESIGN CHOICE, LOG 14): the digest of the fuse configuration, measurement 3 of R344. -/
opaque fuseDigest : BitVec 256
/-- FREE VALUE (DESIGN CHOICE, LOG 14): the digest of the certificate chain (R344). -/
opaque certDigest : BitVec 256
/-- FREE VALUE (DESIGN CHOICE, LOG 14): the certificate chain's bytes (R344). -/
opaque certChain : List Byte
/-- FREE VALUE (DESIGN CHOICE, LOG 14): the RSASSA-3072 signature that answers a challenge (R344). -/
opaque challengeSignature : BitVec 256 → BitVec 3072
/-- FREE VALUE (DESIGN CHOICE, LOG 16): the token capacity of each die's Scent index, set by firmware at bring-up (R255). -/
opaque scentCapacity : Nat → Nat
/-- FREE VALUE (DESIGN CHOICE, LOG 23): at a device cycle, does the HBM traffic of a tenant over the last 65,536 core cycles lie within a share
(R288)? The spec gives no measure of traffic that a program's accesses determine. -/
opaque trafficWithin : (tenant cycle share : Nat) → Bool
/-- FREE VALUE (DESIGN CHOICE, LOG 23): at a device cycle, does the device's power estimate for a tenant lie within a limit (R288)? -/
opaque powerWithin : (tenant cycle watts : Nat) → Bool
/-- FREE VALUE (DESIGN CHOICE, LOG 46): the die of a host port (R331, R338), taken modulo 4. -/
opaque hostPortDie : Nat → Nat
/-- FREE VALUE (DESIGN CHOICE, LOG 46): the die of the Zarrak port that carries a 4 KiB frame's traffic (R334, R338), taken modulo 4. -/
opaque zarrakDie : Nat → Nat
/-- FREE VALUE (DESIGN CHOICE, LOG 47): does firmware train a host port as CXL (R340)? -/
opaque portIsCxl : Nat → Bool
/-- FREE VALUE (DESIGN CHOICE, LOG 47): where the identity and status page of the management BAR holds its fields (R340): the byte at an
offset, of a page whose fields are the list's numbers. -/
opaque statusByte : (fields : List Nat) → (offset : Nat) → Byte
/-- FREE VALUE (DESIGN CHOICE, LOG 47): what a read of a window of the management BAR that takes writes gives (R340). -/
opaque windowByte : (offset : Nat) → Byte
/-- FREE VALUE (DESIGN CHOICE, LOG 47): the identity of the device (R340). -/
opaque deviceIdentity : Nat

end Sys2Proof.Config
end

