-- ==== Sys2Proof/Syntax.lean ====
section
/-! DEFINITION. The syntax: one constructor for each row of spec/opcode_table.json, instruction words first, then the
events and commands that have no encoding. -/

namespace Sys2Proof

/-- The fields of the extension word (spec/02_encoding.md R31); bits 47:45 are reserved and are not kept. -/
structure Ext where
  imm16 : BitVec 16 := 0
  pe : Bool := false
  pn : Bool := false
  pg : BitVec 3 := 0
  hld : Bool := false
  sat : Bool := false
  inv : Bool := false
  ord : BitVec 2 := 0
  sc : BitVec 3 := 0
  ty2 : BitVec 4 := 0
  rm : BitVec 3 := 0
  ec : Bool := false
  eb : Bool := false
  ea : Bool := false
  wc : BitVec 2 := 0
  wb : BitVec 2 := 0
  wa : BitVec 2 := 0
  wd : BitVec 2 := 0
  ch : BitVec 2 := 0
  c : BitVec 6 := 0
  bh : BitVec 2 := 0
  ah : BitVec 2 := 0
  dh : BitVec 2 := 0
deriving DecidableEq, Repr

/-- What an instruction word holds beside its opcode: the fields of the first word (R30), and the extension and the
literal where its length has them (R27). The length field L is read off which of the two are present. -/
structure Opnd where
  f : BitVec 4 := 0
  b : BitVec 6 := 0
  a : BitVec 6 := 0
  d : BitVec 6 := 0
  ext : Option Ext := none
  lit : Option Word := none
deriving DecidableEq, Repr

/-- The fields of a management command (spec/14_dies_and_devices.md R341); `reserved` says that a reserved bit is set, `firmware` that firmware
gives it and not the host. -/
structure Command where
  ctx : BitVec 6 := 0
  op1 : Word := 0
  op2 : Word := 0
  op3 : Word := 0
  done : Nat := 0
  reserved : Bool := false
  firmware : Bool := false
deriving DecidableEq, Repr

/-- A unit of memory that can carry poison or an uncorrectable error (spec/13_faults_and_preemption.md R319). -/
inductive MemUnit where
  /-- The 32-byte HBM word with this index (physical address divided by 32). -/
  | hbm (word : Nat)
  /-- The 16-byte granule with this index among all scratchpads of the device. -/
  | granule (n : Nat)
deriving DecidableEq, Repr

/-- Where a peer's access goes: the index of the peer that makes it, and the address in this device's HBM (R333). -/
structure PeerLoc where
  peer : Nat
  addr : Nat
deriving DecidableEq, Repr

/-- What a peer device asks of this device's HBM (R333): a read or a write of one value, the read-modify-writes of R89 and R212 (by
the type code of R37 where the operation has a type), a write of any run of bytes with or without poison (R319), and the guard
operations of R199, for a party that `who` names. -/
inductive PeerOp where
  | read | write | swap | add | cas | and | or | xor
  | min (signed : Bool)
  | max (signed : Bool)
  | addF | minF | maxF
  | writeBytes (bytes : List Byte) (poisoned : Bool)
  | acquire (who : Nat) (exclusive : Bool)
  | release (who : Nat)
deriving DecidableEq, Repr

/-- What another member brings to a collective (spec/10_engines.md R249, R250, R252): its rank, its source bytes, its group's TAG and
the number of its operation among its own with that TAG, by which it matches, and what must agree: kind, operation, type, count, ROOT
and the device list. -/
structure PeerRank where
  rank : Nat
  src : List Byte
  tag : Nat
  nth : Nat
  kind : Nat
  op : Nat
  ty : BitVec 4
  count : Word
  root : Nat
  devices : List Nat
deriving DecidableEq, Repr

/-- The instructions, events and commands of the C2. -/
inductive Instr where
  /-- ADD (R76). Writes the 64-bit wrapping sum of gA and operand B to gD. -/
  | add (o : Opnd)
  /-- SUB (R76). Writes the 64-bit wrapping difference of gA and operand B to gD. -/
  | sub (o : Opnd)
  /-- MUL (R76). Writes the low 64 bits of the product of gA and operand B to gD. -/
  | mul (o : Opnd)
  /-- MULH (R76). Writes the high 64 bits of the signed or unsigned 128-bit product. -/
  | mulh (o : Opnd)
  /-- DIV (R76). Writes the truncated quotient, with the limit results of R49 and no trap. -/
  | div (o : Opnd)
  /-- REM (R76). Writes the remainder, with the limit results of R49 and no trap. -/
  | rem (o : Opnd)
  /-- MIN (R76). Writes the smaller of gA and operand B, compared signed or unsigned. -/
  | min (o : Opnd)
  /-- MAX (R76). Writes the larger of gA and operand B, compared signed or unsigned. -/
  | max (o : Opnd)
  /-- AND (R77). Writes the bitwise AND of gA and operand B. -/
  | and (o : Opnd)
  /-- OR (R77). Writes the bitwise OR of gA and operand B. -/
  | or (o : Opnd)
  /-- XOR (R77). Writes the bitwise exclusive OR of gA and operand B. -/
  | xor (o : Opnd)
  /-- ANDN (R77). Writes gA AND NOT operand B. -/
  | andn (o : Opnd)
  /-- SHL (R77). Shifts gA left by b[5:0] with zeros in. -/
  | shl (o : Opnd)
  /-- SHR (R77). Shifts gA right by b[5:0] with zeros in. -/
  | shr (o : Opnd)
  /-- SAR (R77). Shifts gA right by b[5:0] with copies of bit 63 in. -/
  | sar (o : Opnd)
  /-- ROL (R77). Rotates gA left by b[5:0]. -/
  | rol (o : Opnd)
  /-- CLZ (R78). Writes the number of leading zero bits of gA. -/
  | clz (o : Opnd)
  /-- CTZ (R78). Writes the number of trailing zero bits of gA. -/
  | ctz (o : Opnd)
  /-- POPC (R78). Writes the number of one bits of gA. -/
  | popc (o : Opnd)
  /-- BREV (R78). Writes gA with its bit order reversed. -/
  | brev (o : Opnd)
  /-- SEXT (R78). Sign-extends gA from 8, 16 or 32 bits. -/
  | sext (o : Opnd)
  /-- ZEXT (R78). Zero-extends gA from 8, 16 or 32 bits. -/
  | zext (o : Opnd)
  /-- BFX (R79). Extracts a bit field of gA described by the control value. -/
  | bfx (o : Opnd)
  /-- BFI (R79). Inserts the low bits of gC into a bit field of gA. -/
  | bfi (o : Opnd)
  /-- SETC (R80). Writes 1 when the integer condition holds between gA and operand B, else 0. -/
  | setc (o : Opnd)
  /-- SEL (R80). Writes gA if gC is nonzero, else operand B. -/
  | sel (o : Opnd)
  /-- LEA (R80). Writes gA plus operand B shifted left by s, with no memory check. -/
  | lea (o : Opnd)
  /-- MOV (R80). Writes operand B to gD. -/
  | mov (o : Opnd)
  /-- BR (R81). Branches unconditionally to the target. -/
  | br (o : Opnd)
  /-- BZ (R81). Branches when gA is zero. -/
  | bz (o : Opnd)
  /-- BNZ (R81). Branches when gA is nonzero. -/
  | bnz (o : Opnd)
  /-- BCC (R81). Branches when the integer condition holds between gA and operand B. -/
  | bcc (o : Opnd)
  /-- CALL (R82). Writes the link to g62 and branches to the target. -/
  | call (o : Opnd)
  /-- CALLR (R82). Reads the target from gA, writes the link to g62 and jumps. -/
  | callr (o : Opnd)
  /-- JMP (R82). Jumps to the address in gA. -/
  | jmp (o : Opnd)
  /-- RET (R82). Jumps to the address in g62. -/
  | ret (o : Opnd)
  /-- LOOP (R81). Decrements gA and branches when the result is nonzero. -/
  | loop (o : Opnd)
  /-- FADD (R84). Writes the rounded floating sum. -/
  | fadd (o : Opnd)
  /-- FSUB (R84). Writes the rounded floating difference. -/
  | fsub (o : Opnd)
  /-- FMUL (R84). Writes the rounded floating product. -/
  | fmul (o : Opnd)
  /-- FFMA (R84). Writes a × b + c rounded once. -/
  | ffma (o : Opnd)
  /-- FDIV (R84). Writes the rounded floating quotient. -/
  | fdiv (o : Opnd)
  /-- FSQRT (R84). Writes the rounded square root of gA. -/
  | fsqrt (o : Opnd)
  /-- FMIN (R84). Writes the minimumNumber of the two operands. -/
  | fmin (o : Opnd)
  /-- FMAX (R84). Writes the maximumNumber of the two operands. -/
  | fmax (o : Opnd)
  /-- FSETC (R85). Writes 1 when the floating condition holds, else 0. -/
  | fsetc (o : Opnd)
  /-- FCVT (R86). Converts one scalar value between integer and floating types. -/
  | fcvt (o : Opnd)
  /-- FCLASS (R87). Writes a one-hot class word for a floating operand. -/
  | fclass (o : Opnd)
  /-- LD (R88). Loads one value through a handle into a general register. -/
  | ld (o : Opnd)
  /-- ST (R88). Stores one value from a general register through a handle. -/
  | st (o : Opnd)
  /-- AMO (R89). Performs one indivisible scalar read-modify-write at the location's arbiter. -/
  | amo (o : Opnd)
  /-- VADD (R127). Adds lane elements, wrapping or saturating. -/
  | vadd (o : Opnd)
  /-- VSUB (R127). Subtracts lane elements, wrapping or saturating. -/
  | vsub (o : Opnd)
  /-- VMUL (R127). Multiplies lane elements, wrapping or saturating. -/
  | vmul (o : Opnd)
  /-- VMULH (R127). Writes the high half of each element product. -/
  | vmulh (o : Opnd)
  /-- VMAD (R127). Writes a × b + c per element, wrapped or saturated once. -/
  | vmad (o : Opnd)
  /-- VMIN (R127). Writes the smaller element by signedness. -/
  | vmin (o : Opnd)
  /-- VMAX (R127). Writes the larger element by signedness. -/
  | vmax (o : Opnd)
  /-- VABS (R127). Writes the wrapping absolute value of each element. -/
  | vabs (o : Opnd)
  /-- VNEG (R127). Writes the wrapping negation of each element. -/
  | vneg (o : Opnd)
  /-- VAND (R127). Writes the bitwise AND of lane elements. -/
  | vand (o : Opnd)
  /-- VOR (R127). Writes the bitwise OR of lane elements. -/
  | vor (o : Opnd)
  /-- VXOR (R127). Writes the bitwise exclusive OR of lane elements. -/
  | vxor (o : Opnd)
  /-- VNOT (R127). Writes the bitwise complement of each element. -/
  | vnot (o : Opnd)
  /-- VSHL (R127). Shifts each element left, saturating with SAT. -/
  | vshl (o : Opnd)
  /-- VSHR (R127). Shifts each element right with zeros in. -/
  | vshr (o : Opnd)
  /-- VSAR (R127). Shifts each element right with sign copies in. -/
  | vsar (o : Opnd)
  /-- VCLZ (R127). Writes the leading zero count of each element. -/
  | vclz (o : Opnd)
  /-- VPOPC (R127). Writes the one-bit count of each element. -/
  | vpopc (o : Opnd)
  /-- VBFX (R128). Extracts a bit field from each lane element. -/
  | vbfx (o : Opnd)
  /-- VBFI (R128). Inserts a bit field into each lane element. -/
  | vbfi (o : Opnd)
  /-- VSETC (R129). Sets a predicate when the integer condition holds for every element. -/
  | vsetc (o : Opnd)
  /-- VSEL (R129). Selects vA or vB per lane by a predicate. -/
  | vsel (o : Opnd)
  /-- VSAT (R129). Divides by a power of two, rounds and saturates into a narrower type. -/
  | vsat (o : Opnd)
  /-- VMOV (R129). Copies operand B into vD in each participating lane. -/
  | vmov (o : Opnd)
  /-- VMOVX (R130). Reads a vector register whose number each lane computes from its data. -/
  | vmovx (o : Opnd)
  /-- VMOVXW (R130). Writes a vector register whose number each lane computes from its data. -/
  | vmovxw (o : Opnd)
  /-- VBYTP (R131). Permutes bytes within each lane by selector bytes. -/
  | vbytp (o : Opnd)
  /-- VFADD (R132). Adds floating elements with one rounding. -/
  | vfadd (o : Opnd)
  /-- VFSUB (R132). Subtracts floating elements with one rounding. -/
  | vfsub (o : Opnd)
  /-- VFMUL (R132). Multiplies floating elements with one rounding. -/
  | vfmul (o : Opnd)
  /-- VFFMA (R132). Computes a × b + c per element, rounded once. -/
  | vffma (o : Opnd)
  /-- VFMIN (R132). Writes the minimumNumber of floating elements. -/
  | vfmin (o : Opnd)
  /-- VFMAX (R132). Writes the maximumNumber of floating elements. -/
  | vfmax (o : Opnd)
  /-- VFSETC (R134). Sets a predicate when the floating condition holds for every element. -/
  | vfsetc (o : Opnd)
  /-- VFDIV (R132). Divides floating elements with one rounding. -/
  | vfdiv (o : Opnd)
  /-- VFSQRT (R132). Writes the rounded square root of each element. -/
  | vfsqrt (o : Opnd)
  /-- VRCP (R133). Writes the correctly rounded reciprocal of each element. -/
  | vrcp (o : Opnd)
  /-- VRSQ (R133). Writes the correctly rounded reciprocal square root. -/
  | vrsq (o : Opnd)
  /-- VEXP2 (R133). Writes the correctly rounded 2^a. -/
  | vexp2 (o : Opnd)
  /-- VLOG2 (R133). Writes the correctly rounded log2 a. -/
  | vlog2 (o : Opnd)
  /-- VSIN (R133). Writes the correctly rounded sine. -/
  | vsin (o : Opnd)
  /-- VCOS (R133). Writes the correctly rounded cosine. -/
  | vcos (o : Opnd)
  /-- VTANH (R133). Writes the correctly rounded hyperbolic tangent. -/
  | vtanh (o : Opnd)
  /-- VCVT (R135). Converts each element between types, including bx8 with block exponents. -/
  | vcvt (o : Opnd)
  /-- VFCLASS (R134). Writes the class bits of each floating element. -/
  | vfclass (o : Opnd)
  /-- VENC (R136). Encodes each mask word's lanes into one BX block. -/
  | venc (o : Opnd)
  /-- VDEC (R137). Decodes each lane's BX element into a floating value. -/
  | vdec (o : Opnd)
  /-- VBPT (R138). Moves BX elements between lane layout and bit planes. -/
  | vbpt (o : Opnd)
  /-- VPERM (R140). Moves each lane's operand from the lane named by b. -/
  | vperm (o : Opnd)
  /-- VSHFX (R140). Shuffles operands within segments by xor, up, down or rotate. -/
  | vshfx (o : Opnd)
  /-- VBCAST (R140). Broadcasts one lane's operand to the participating lanes. -/
  | vbcast (o : Opnd)
  /-- VBALLOT (R141). Turns a predicate into mask words, a count, any or all. -/
  | vballot (o : Opnd)
  /-- VSCAN (R142). Computes an inclusive or exclusive scan in ascending lane order. -/
  | vscan (o : Opnd)
  /-- VRED (R142). Reduces the participating lanes by the fixed pairwise tree. -/
  | vred (o : Opnd)
  /-- VELECT (R141). Sets a predicate in the lowest, highest or per-word lowest lane. -/
  | velect (o : Opnd)
  /-- VRND (R143). Forms deterministic pseudorandom numbers from key and counter. -/
  | vrnd (o : Opnd)
  /-- KMOV (R145). Reads or writes activity mask words, or reads occupancy words. -/
  | kmov (o : Opnd)
  /-- KOP (R146). Sets the activity mask from a predicate. -/
  | kop (o : Opnd)
  /-- KPOP (R147). Counts participating or occupied lanes, or finds the lowest or highest. -/
  | kpop (o : Opnd)
  /-- PMOV (R147). Moves predicates to and from vector registers and other predicates. -/
  | pmov (o : Opnd)
  /-- POP (R147). Computes a logical operation on predicates. -/
  | pop (o : Opnd)
  /-- WID (R148). Writes a work-identifier field, label, arrival number or class per lane. -/
  | wid (o : Opnd)
  /-- LANEID (R148). Writes the lane index, home lane, word or pack width per lane. -/
  | laneid (o : Opnd)
  /-- VBR (R111). Splits the active lanes by a predicate and pushes the reconvergence stack. -/
  | vbr (o : Opnd)
  /-- VBRD (R116). Branches like VBR and opens or joins a repacking window. -/
  | vbrd (o : Opnd)
  /-- RECV (R112). Exchanges or merges reconvergence stack entries at a reconvergence address. -/
  | recv (o : Opnd)
  /-- VBRK (R114). Moves guarded lanes out of the current path into the topmost exit entry. -/
  | vbrk (o : Opnd)
  /-- ISSV (R157). Groups lanes by equal instruction words from a register and issues each group once. -/
  | issv (o : Opnd)
  /-- FLOW (R150). Opens and pins flows with the named class. -/
  | flow (o : Opnd)
  /-- FRELAB (R151). Completes each lane's slot and moves its item to a new flow via a resume record. -/
  | frelab (o : Opnd)
  /-- FDONE (R152). Completes the flow slots of the participating lanes. -/
  | fdone (o : Opnd)
  /-- BARI (R119). Initialises a barrier object with an expected count. -/
  | bari (o : Opnd)
  /-- BARA (R119). Makes one arrival of count n on a barrier object, possibly completing its phase. -/
  | bara (o : Opnd)
  /-- BARW (R120). Waits for a barrier phase parity, exchanging or blocking the path. -/
  | barw (o : Opnd)
  /-- BART (R119). Tests a barrier's phase into a predicate without waiting. -/
  | bart (o : Opnd)
  /-- YIELD (R154). Holds the pack until other ready packs of its core have issued. -/
  | yield (o : Opnd)
  /-- END (R155). Completes the active lanes' items, frees them and resumes stacked work or ends the pack. -/
  | endItems (o : Opnd)
  /-- VLD (R206). Loads unit-stride lane operands through a handle. -/
  | vld (o : Opnd)
  /-- VST (R206). Stores unit-stride lane operands through a handle, held in the Heel if marked. -/
  | vst (o : Opnd)
  /-- VLDX (R206). Loads lane operands at per-lane offsets through a handle. -/
  | vldx (o : Opnd)
  /-- VSTX (R206). Stores lane operands at per-lane offsets through a handle. -/
  | vstx (o : Opnd)
  /-- LDS (R210). Loads from the cluster scratchpad, optionally waiting for full and emptying. -/
  | lds (o : Opnd)
  /-- STS (R210). Stores to the cluster scratchpad, optionally setting granules full. -/
  | sts (o : Opnd)
  /-- VATOM (R212). Performs one indivisible read-modify-write per participating lane. -/
  | vatom (o : Opnd)
  /-- XCHL (R213). Exchanges each lane's register with memory indivisibly. -/
  | xchl (o : Opnd)
  /-- ACQ (R215). Queues an exclusive or shared request for a guard at its home. -/
  | acq (o : Opnd)
  /-- REL (R215). Releases a held guard and advances its epoch. -/
  | rel (o : Opnd)
  /-- BIND (R216). Binds a handle region to a guard. -/
  | bind (o : Opnd)
  /-- UNBIND (R216). Removes a matching binding. -/
  | unbind (o : Opnd)
  /-- FENCE (R217). Orders the pack's own accesses at a scope, or waits for them to be performed. -/
  | fence (o : Opnd)
  /-- GROW (R219). Requests a larger register allotment, trapping when impossible. -/
  | grow (o : Opnd)
  /-- SHRINK (R219). Reduces the pack's register allotment at once. -/
  | shrink (o : Opnd)
  /-- PREF (R221). Hints a line into chip SRAM or a translation into the TLB. -/
  | pref (o : Opnd)
  /-- HLD (R223). Tests or waits for the lane's item's turn. -/
  | hld (o : Opnd)
  /-- HRD (R223). Reads Heel entry counts or turn distances. -/
  | hrd (o : Opnd)
  /-- FEMK (R222). Sets a range of scratchpad granules full or empty and clears poison. -/
  | femk (o : Opnd)
  /-- CPY (R231). Issues a copy engine operation between two handles. -/
  | cpy (o : Opnd)
  /-- CPYM (R233). Issues a multicast copy to several cores' scratchpads. -/
  | cpym (o : Opnd)
  /-- GTH (R234). Issues a gather of one row per lane into the scratchpad. -/
  | gth (o : Opnd)
  /-- MMA (R239). Joins a matrix multiply-accumulate into the open batch. -/
  | mma (o : Opnd)
  /-- MMAS (R240). Joins a 2:4 sparse matrix multiply-accumulate into the open batch. -/
  | mmas (o : Opnd)
  /-- MZERO (R241). Joins a clear of a tile or rows into the open batch. -/
  | mzero (o : Opnd)
  /-- MLD (R242). Joins a load of rows into a tile into the open batch. -/
  | mld (o : Opnd)
  /-- MST (R242). Joins a rounded or raw store of tile rows into the open batch. -/
  | mst (o : Opnd)
  /-- MANC (R241). Joins a row anchor change with rescaling into the open batch. -/
  | manc (o : Opnd)
  /-- MCLOSE (R244). Closes the open matrix batch and counts it on mx. -/
  | mclose (o : Opnd)
  /-- WAIT (R225). Waits until at most n operations of a class remain, then checks engine errors. -/
  | wait (o : Opnd)
  /-- ASTAT (R229). Reads and clears engine error state or reads the counters. -/
  | astat (o : Opnd)
  /-- COLL (R250). Issues a collective operation across devices. -/
  | coll (o : Opnd)
  /-- SCNEW (R262). Issues the creation of a private sequence or prefix entry. -/
  | scnew (o : Opnd)
  /-- SCFREE (R263). Issues the freeing of a sequence. -/
  | scfree (o : Opnd)
  /-- SCQRY (R264). Issues a draft query on a sequence. -/
  | scqry (o : Opnd)
  /-- SCAPP (R265). Issues an append of accepted tokens to a sequence. -/
  | scapp (o : Opnd)
  /-- SCML (R267). Reads or writes the match registers or a sequence's state word. -/
  | scml (o : Opnd)
  /-- SCSAVE (R273). Issues the writing of a sequence image. -/
  | scsave (o : Opnd)
  /-- SCLOAD (R274). Issues the loading of a sequence image. -/
  | scload (o : Opnd)
  /-- SCATT (R271). Issues the attachment of a sequence to a prefix entry. -/
  | scatt (o : Opnd)
  /-- SCDET (R271). Issues the reset and detachment of a sequence. -/
  | scdet (o : Opnd)
  /-- SCCAP (R266). Issues a change of a sequence's capacity. -/
  | sccap (o : Opnd)
  /-- LAUNCH (R293). Submits a task record or gang block to bank 1 or 3. -/
  | launch (o : Opnd)
  /-- ENQ (R293). Enqueues one item per participating lane as one launch. -/
  | enq (o : Opnd)
  /-- GRUN (R295). Starts an instance of a graph and submits its root nodes. -/
  | grun (o : Opnd)
  /-- GCOMMIT (R296). Publishes a node table as the graph's current table. -/
  | gcommit (o : Opnd)
  /-- NOP (R21). Advances PC only. -/
  | nop (o : Opnd)
  /-- SRD (R20). Copies a system register into a general register. -/
  | srd (o : Opnd)
  /-- SWR (R20). Copies a general register into a system register under its write rules. -/
  | swr (o : Opnd)
  /-- TRAP (R302). Raises trap cause 0x10 with operand B as its value. -/
  | trap (o : Opnd)
  /-- ERET (R24). Returns from the handler to TPC, or vacates a pre-empted pack. -/
  | eret (o : Opnd)
  /-- REGION (R322). Opens an idempotent region recording PC, mask and stack depth. -/
  | region (o : Opnd)
  /-- CHKERR (R323). Waits for pending producers, closes the region and reads CKI. -/
  | chkerr (o : Opnd)
  /-- TLBW (R307). Installs a leaf translation into the core or cluster TLB. -/
  | tlbw (o : Opnd)
  /-- TLBINV (R308). Invalidates translations of a page or of the whole context. -/
  | tlbinv (o : Opnd)
  /-- FRESUME (R306). Replays the instruction at TPC over the lanes of the image at FLTMASKP. -/
  | fresume (o : Opnd)
  /-- SNAPT (R337). Raises the Whistle from a pack after its stores are performed. -/
  | snapt (o : Opnd)
  /-- REPACK_WINDOW_CLOSE (R117). At the window's expiry the core regroups the participants or lets them branch as VBR. -/
  | repackWindowClose (core n : Nat)
  /-- BARRIER_WAIT_RELEASE (R120). A path or pack blocked at BARW resumes when its phase arrives. -/
  | barrierWaitRelease (core slot : Nat)
  /-- FULL_GRANULE_WAIT_RELEASE (R210). A waiting LDS.fe reads, and with .clr empties, its granules once all are full. -/
  | fullGranuleWaitRelease (core slot : Nat)
  /-- ENGINE_WAIT_RELEASE (R225). A blocked WAIT returns once its class counter falls to n. -/
  | engineWaitRelease (core slot : Nat)
  /-- REGISTER_FILL (R125). A long-latency producer delivers a register value and marks it full. -/
  | registerFill (core slot n : Nat)
  /-- GUARD_GRANT (R199). The guard's home grants a queued ACQ request in arrival order. -/
  | guardGrant (loc : Nat)
  /-- GROW_GRANT (R219). A waiting GROW is granted in age order when free registers cover it. -/
  | growGrant (core slot : Nat)
  /-- GROW_DEADLOCK_PREEMPT (R220). When every resident pack waits in GROW, the Kennel saves the youngest to memory. -/
  | growDeadlockPreempt (core : Nat)
  /-- KENNEL_PACK_RESTORE (R220). A pack the Kennel saved is restored when its allotment fits and reissues its GROW. -/
  | kennelPackRestore (core slot : Nat)
  /-- LEASH_ADMIT (R298). In replay the Leash admits a waiting site atomic from the pack named by the Trail. -/
  | leashAdmit (core slot : Nat)
  /-- HOST_SUBMISSION (R283). A 64-byte host write to a bank submission window is accepted as a record. -/
  | hostSubmission (cluster off size : Nat) (data : BitVec 512)
  /-- BANK_SPILL (R285). When a bank holds 960 records the spill engine moves the newest to overflow rings. -/
  | bankSpill (cluster bank : Nat)
  /-- BANK_REFILL (R285). As a bank drains the spill engine refills it in acceptance order from the rings. -/
  | bankRefill (cluster bank : Nat)
  /-- KENNEL_TAKE_RECORD (R287). The Kennel takes the highest-priority head record from its cluster's banks. -/
  | kennelTakeRecord (cluster : Nat)
  /-- ARGUMENT_BLOCK_READ (R10). The launch's argument block is read before any pack issues, failing with code 4. -/
  | argumentBlockRead (launch : Nat)
  /-- PACK_START (R101). The Kennel starts a pack when its lanes are filled or no further item waits. -/
  | packStart (cluster core slot n : Nat)
  /-- GANG_START (R278). The Kennel starts all packs of a gang together once every role's slots are reserved. -/
  | gangStart (cluster core n : Nat)
  /-- HEEL_RELEASE (R105). When an item's turn comes its held stores are released in program order. -/
  | heelRelease (core n : Nat)
  /-- LAUNCH_COMPLETION (R280). A finished launch writes its first error and adds 1 to COUNT as a system release. -/
  | launchCompletion (launch : Nat)
  /-- TLB_WALK_COMPLETE (R189). A walk of the cluster's scheduler finishes and the next walk is chosen. -/
  | tlbWalkComplete (cluster n : Nat)
  /-- WALKER_START (R190). A TLB miss in programmable mode starts the walker routine in slot 47. -/
  | walkerStart (core : Nat)
  /-- COPY_COMPLETE (R232). A copy operation finishes its reads and writes and retires. -/
  | copyComplete (cluster n : Nat)
  /-- GATHER_COMPLETE (R234). A gather operation finishes its rows and retires. -/
  | gatherComplete (cluster n : Nat)
  /-- MATRIX_AFTER_OBSERVE (R246). A matrix operation's .after wait observes its barrier phase and its fill begins. -/
  | matrixAfterObserve (core n : Nat)
  /-- MATRIX_OP_EXECUTE (R248). The matrix engine runs one operation on a tile once its operand fill is complete. -/
  | matrixOpExecute (core n : Nat)
  /-- MATRIX_BATCH_RETIRE (R244). A closed batch retires when its operations are complete and earlier batches retired. -/
  | matrixBatchRetire (core slot : Nat)
  /-- COLL_COMPLETE (R252). A matched collective completes at a member when its destination writes are done. -/
  | collComplete (n : Nat) (peers : List PeerRank)
  /-- COLL_TIMEOUT (R252). A member missing its match past the collective timeout fails the waiters with code 9. -/
  | collTimeout (n : Nat)
  /-- SCENT_SERIAL_POINT (R268). The home Scent engine performs one operation on a sequence at its serial point. -/
  | scentSerialPoint (die n : Nat)
  /-- FAULT_RECORD_POST (R305). A fault, context-fault or pre-emption record is posted once the ring has room. -/
  | faultRecordPost (ctx : Nat)
  /-- PARKED_REPLAY (R304). A resolved parked instruction is replayed over its unfinished lanes at the next boundary. -/
  | parkedReplay (core slot : Nat)
  /-- WATCHDOG_EXPIRY (R123). A pack issuing nothing for QUIET cycles takes the progress watchdog trap. -/
  | watchdogExpiry (core slot : Nat)
  /-- PREEMPTION_ENTRY (R310). A resident pack at a boundary drains, writes its frame and enters the handler with cause 0x0F. -/
  | preemptionEntry (core slot : Nat)
  /-- PREEMPTION_COMPLETE (R309). After the context's last pack vacates, a pre-emption-complete record is posted. -/
  | preemptionComplete (ctx : Nat)
  /-- RESTORE_ENTRY (R315). A restored frame starts on its core when room exists and enters the handler with RESTORE set. -/
  | restoreEntry (core n slot : Nat)
  /-- REGION_RESTART (R325). An error inside a region discards pending work and restarts at RGNPC, or exhausts retries. -/
  | regionRestart (core slot : Nat)
  /-- STRIKE_REPORT (R328). A strike sensor report rolls every core of its zone back 48 cycles. -/
  | strikeReport (zone : List Nat)
  /-- SCRUB_ERROR (R320). A scrub that finds an uncorrectable error marks poison and only logs it. -/
  | scrubError (unit : MemUnit)
  /-- PLANE_LOSS (R334). A link failing 16 consecutive retries is taken out of service and its transfers reissued. -/
  | planeLoss (plane : Nat)
  /-- WHISTLE_PIN (R335). A falling edge on WHISTLE_N raises the Whistle with source 2. -/
  | whistlePin
  /-- SNAPSHOT_LATCH (R336). Die d latches its snapshot registers 6d cycles after die 0 and writes its records. -/
  | snapshotLatch (die : Nat)
  /-- SNAPSHOT_COPY_ON_WRITE (R339). The first write to an unswept block after the cut stages the old block, waiting for space. -/
  | snapshotCopyOnWrite (block : Nat)
  /-- SNAPSHOT_SWEEP (R339). The sweep streams staged and unswept blocks to the safe tier. -/
  | snapshotSweep
  /-- SNAPSHOT_COMPLETE (R339). When every block is delivered the snapshot completes and SNAPSET's record is updated. -/
  | snapshotComplete
  /-- CREATE (R341). Creates a context from a descriptor and takes its flow-table partition. -/
  | create (c : Command)
  /-- DESTROY (R341). Ends a context, its flows, guards, sequences and outstanding launches. -/
  | destroy (c : Command)
  /-- PLACE (R341). Places, replaces or removes a scratchpad window and grants or releases tiles. -/
  | place (c : Command)
  /-- PREEMPT (R309). Requests pre-emption of a context with a sequence number. -/
  | preempt (c : Command)
  /-- RESTORE (R341). Names a frame and core to restore, ending the context's pre-empted state. -/
  | restore (c : Command)
  /-- FAULTANS (R341). Answers a fault record as resolved or unresolvable. -/
  | faultans (c : Command)
  /-- CANCEL (R275). Sets a Scent sequence's CANCEL bit at its home engine as one serial step. -/
  | cancel (c : Command)
  /-- WHISTLE (R341). Raises the Whistle from management with a tag and optional memory snapshot. -/
  | whistle (c : Command)
  /-- SNAPSET (R341). Names the safe tier addresses and the snapshot log ring. -/
  | snapset (c : Command)
  /-- CTIMEOUT (R341). Sets the collective timeout. -/
  | ctimeout (c : Command)
  /-- BUDGET (R288). Sets a tenant's core, HBM bandwidth and power budgets. -/
  | budget (c : Command)
  /-- MEMRESTORE (R341). Copies the last complete snapshot back into HBM when no context exists. -/
  | memrestore (c : Command)
  /-- INVALID_COMMAND (R341). An invalid command changes nothing and reports CODE 1 with a detail. -/
  | invalidCommand (code : Byte) (c : Command)
  /-- MGMT_WRITE_DISCARDED (R340). A write to an unassigned part of the management BAR is discarded and counted. -/
  | mgmtWriteDiscarded (off : Nat)
  /-- POWER_ON_RESET (R343). Reset enters Boot, where the boot ROM checks the firmware image. -/
  | powerOnReset
  /-- FIRMWARE_IMAGE_LOAD (R343). A firmware image is loaded and accepted only if its RSA-3072 signature verifies. -/
  | firmwareImageLoad (verified : Bool) (digest : BitVec 256)
  /-- ENTER_FULL_SERVICE (R343). When every stack trains and every die passes self-test the device enters full service, or fails. -/
  | enterFullService (passed : Bool)
  /-- GET_VERSION (R344). Answers the SPDM GET_VERSION request over the DOE mailbox. -/
  | getVersion
  /-- GET_CAPABILITIES (R344). Answers the SPDM GET_CAPABILITIES request. -/
  | getCapabilities
  /-- NEGOTIATE_ALGORITHMS (R344). Answers the SPDM NEGOTIATE_ALGORITHMS request offering RSASSA-3072 and SHA-256. -/
  | negotiateAlgorithms
  /-- GET_DIGESTS (R344). Answers the SPDM GET_DIGESTS request. -/
  | getDigests
  /-- GET_CERTIFICATE (R344). Answers the SPDM GET_CERTIFICATE request. -/
  | getCertificate
  /-- CHALLENGE (R344). Answers the SPDM CHALLENGE request. -/
  | challenge (nonce : BitVec 256)
  /-- GET_MEASUREMENTS (R344). Returns the boot ROM, firmware and fuse measurements. -/
  | getMeasurements
  /-- THROTTLE (R345). Power or temperature past its limit lowers or raises the arithmetic clock in 47 MHz steps. -/
  | throttle (lower : Bool)
  /-- THERMAL_TRIP (R345). A junction above the trip temperature stops every die and logs a fatal record. -/
  | thermalTrip
  /-- PEER_ACCESS (R333). A peer device's access to this device's HBM arrives over Zarrak and is performed, read-modify-writes at the home arbiter. -/
  | peerAccess (loc : PeerLoc) (op : PeerOp) (data cmp : Word) (size : Nat)
  /-- PAGER_INVALIDATION (R308). The pager's invalidation through the management path removes a context's covered TLB entries as TLBINV does. -/
  | pagerInvalidation (ctx : Nat) (page : Option Word)
  /-- FAULT_QUEUE_DRAIN (R305). The host frees room in a context's full fault queue ring so that waiting records and their units proceed. -/
  | faultQueueDrain (ctx n : Nat)
  /-- SNAPSHOT_LOG_DRAIN (R336). The host frees room in the full snapshot log ring so that later triggers' records are written again. -/
  | snapshotLogDrain (n : Nat)
  /-- HOST_PORT_FAILURE (R339). A host port fails or loses training, so host addresses through it are invalid and a snapshot using it reports CODE. -/
  | hostPortFailure (port : Nat)
  /-- FLIT_CRC_ERROR (R334). A flit fails its CRC on a Zarrak port and is retried at link level. -/
  | flitCrcError (port : Nat)
deriving DecidableEq, Repr

end Sys2Proof
end

