-- ==== Sys2Proof/Machine/Opcode.lean ====
section
/-! DEFINITION. The opcode map (spec/02_encoding.md R43): which major opcode stands for which constructor. -/

namespace Sys2Proof.Machine

/-- The major opcode and the operand fields of an instruction word; `none` for the rows that have no encoding (R43). -/
def wordOf : Instr → Option (Nat × Opnd)
  | .add o => some (0x01, o)
  | .sub o => some (0x02, o)
  | .mul o => some (0x03, o)
  | .mulh o => some (0x04, o)
  | .div o => some (0x05, o)
  | .rem o => some (0x06, o)
  | .min o => some (0x07, o)
  | .max o => some (0x08, o)
  | .and o => some (0x09, o)
  | .or o => some (0x0A, o)
  | .xor o => some (0x0B, o)
  | .andn o => some (0x0C, o)
  | .shl o => some (0x0D, o)
  | .shr o => some (0x0E, o)
  | .sar o => some (0x0F, o)
  | .rol o => some (0x10, o)
  | .clz o => some (0x11, o)
  | .ctz o => some (0x12, o)
  | .popc o => some (0x13, o)
  | .brev o => some (0x14, o)
  | .sext o => some (0x15, o)
  | .zext o => some (0x16, o)
  | .bfx o => some (0x17, o)
  | .bfi o => some (0x18, o)
  | .setc o => some (0x19, o)
  | .sel o => some (0x1A, o)
  | .lea o => some (0x1B, o)
  | .mov o => some (0x1C, o)
  | .br o => some (0x20, o)
  | .bz o => some (0x21, o)
  | .bnz o => some (0x22, o)
  | .bcc o => some (0x23, o)
  | .call o => some (0x24, o)
  | .callr o => some (0x25, o)
  | .jmp o => some (0x26, o)
  | .ret o => some (0x27, o)
  | .loop o => some (0x28, o)
  | .fadd o => some (0x30, o)
  | .fsub o => some (0x31, o)
  | .fmul o => some (0x32, o)
  | .ffma o => some (0x33, o)
  | .fdiv o => some (0x34, o)
  | .fsqrt o => some (0x35, o)
  | .fmin o => some (0x36, o)
  | .fmax o => some (0x37, o)
  | .fsetc o => some (0x38, o)
  | .fcvt o => some (0x39, o)
  | .fclass o => some (0x3A, o)
  | .ld o => some (0x3C, o)
  | .st o => some (0x3D, o)
  | .amo o => some (0x3E, o)
  | .vadd o => some (0x40, o)
  | .vsub o => some (0x41, o)
  | .vmul o => some (0x42, o)
  | .vmulh o => some (0x43, o)
  | .vmad o => some (0x44, o)
  | .vmin o => some (0x45, o)
  | .vmax o => some (0x46, o)
  | .vabs o => some (0x47, o)
  | .vneg o => some (0x48, o)
  | .vand o => some (0x49, o)
  | .vor o => some (0x4A, o)
  | .vxor o => some (0x4B, o)
  | .vnot o => some (0x4C, o)
  | .vshl o => some (0x4D, o)
  | .vshr o => some (0x4E, o)
  | .vsar o => some (0x4F, o)
  | .vclz o => some (0x50, o)
  | .vpopc o => some (0x51, o)
  | .vbfx o => some (0x52, o)
  | .vbfi o => some (0x53, o)
  | .vsetc o => some (0x54, o)
  | .vsel o => some (0x55, o)
  | .vsat o => some (0x56, o)
  | .vmov o => some (0x57, o)
  | .vmovx o => some (0x58, o)
  | .vmovxw o => some (0x59, o)
  | .vbytp o => some (0x5A, o)
  | .vfadd o => some (0x60, o)
  | .vfsub o => some (0x61, o)
  | .vfmul o => some (0x62, o)
  | .vffma o => some (0x63, o)
  | .vfmin o => some (0x64, o)
  | .vfmax o => some (0x65, o)
  | .vfsetc o => some (0x66, o)
  | .vfdiv o => some (0x67, o)
  | .vfsqrt o => some (0x68, o)
  | .vrcp o => some (0x69, o)
  | .vrsq o => some (0x6A, o)
  | .vexp2 o => some (0x6B, o)
  | .vlog2 o => some (0x6C, o)
  | .vsin o => some (0x6D, o)
  | .vcos o => some (0x6E, o)
  | .vtanh o => some (0x6F, o)
  | .vcvt o => some (0x70, o)
  | .vfclass o => some (0x71, o)
  | .venc o => some (0x72, o)
  | .vdec o => some (0x73, o)
  | .vbpt o => some (0x74, o)
  | .vperm o => some (0x78, o)
  | .vshfx o => some (0x79, o)
  | .vbcast o => some (0x7A, o)
  | .vballot o => some (0x7B, o)
  | .vscan o => some (0x7C, o)
  | .vred o => some (0x7D, o)
  | .velect o => some (0x7E, o)
  | .vrnd o => some (0x7F, o)
  | .kmov o => some (0x80, o)
  | .kop o => some (0x81, o)
  | .kpop o => some (0x82, o)
  | .pmov o => some (0x83, o)
  | .pop o => some (0x84, o)
  | .wid o => some (0x86, o)
  | .laneid o => some (0x87, o)
  | .vbr o => some (0x90, o)
  | .vbrd o => some (0x91, o)
  | .recv o => some (0x92, o)
  | .vbrk o => some (0x93, o)
  | .issv o => some (0x94, o)
  | .flow o => some (0x95, o)
  | .frelab o => some (0x96, o)
  | .fdone o => some (0x97, o)
  | .bari o => some (0x98, o)
  | .bara o => some (0x99, o)
  | .barw o => some (0x9A, o)
  | .bart o => some (0x9B, o)
  | .yield o => some (0x9C, o)
  | .endItems o => some (0x9D, o)
  | .vld o => some (0xA0, o)
  | .vst o => some (0xA1, o)
  | .vldx o => some (0xA2, o)
  | .vstx o => some (0xA3, o)
  | .lds o => some (0xA4, o)
  | .sts o => some (0xA5, o)
  | .vatom o => some (0xA6, o)
  | .xchl o => some (0xA7, o)
  | .acq o => some (0xA8, o)
  | .rel o => some (0xA9, o)
  | .bind o => some (0xAA, o)
  | .unbind o => some (0xAB, o)
  | .fence o => some (0xAC, o)
  | .grow o => some (0xAD, o)
  | .shrink o => some (0xAE, o)
  | .pref o => some (0xAF, o)
  | .hld o => some (0xB0, o)
  | .hrd o => some (0xB1, o)
  | .femk o => some (0xB2, o)
  | .cpy o => some (0xC0, o)
  | .cpym o => some (0xC1, o)
  | .gth o => some (0xC2, o)
  | .mma o => some (0xC3, o)
  | .mmas o => some (0xC4, o)
  | .mzero o => some (0xC5, o)
  | .mld o => some (0xC6, o)
  | .mst o => some (0xC7, o)
  | .manc o => some (0xC8, o)
  | .mclose o => some (0xC9, o)
  | .wait o => some (0xCA, o)
  | .astat o => some (0xCB, o)
  | .coll o => some (0xCC, o)
  | .scnew o => some (0xD0, o)
  | .scfree o => some (0xD1, o)
  | .scqry o => some (0xD2, o)
  | .scapp o => some (0xD3, o)
  | .scml o => some (0xD4, o)
  | .scsave o => some (0xD5, o)
  | .scload o => some (0xD6, o)
  | .scatt o => some (0xD7, o)
  | .scdet o => some (0xD8, o)
  | .sccap o => some (0xD9, o)
  | .launch o => some (0xE0, o)
  | .enq o => some (0xE1, o)
  | .grun o => some (0xE2, o)
  | .gcommit o => some (0xE3, o)
  | .nop o => some (0xF0, o)
  | .srd o => some (0xF1, o)
  | .swr o => some (0xF2, o)
  | .trap o => some (0xF3, o)
  | .eret o => some (0xF4, o)
  | .region o => some (0xF5, o)
  | .chkerr o => some (0xF6, o)
  | .tlbw o => some (0xF7, o)
  | .tlbinv o => some (0xF8, o)
  | .fresume o => some (0xF9, o)
  | .snapt o => some (0xFA, o)
  | .repackWindowClose _ _ => none
  | .barrierWaitRelease _ _ => none
  | .fullGranuleWaitRelease _ _ => none
  | .engineWaitRelease _ _ => none
  | .registerFill _ _ _ => none
  | .guardGrant _ => none
  | .growGrant _ _ => none
  | .growDeadlockPreempt _ => none
  | .kennelPackRestore _ _ => none
  | .leashAdmit _ _ => none
  | .hostSubmission _ _ _ _ => none
  | .bankSpill _ _ => none
  | .bankRefill _ _ => none
  | .kennelTakeRecord _ => none
  | .argumentBlockRead _ => none
  | .packStart _ _ _ _ => none
  | .gangStart _ _ _ => none
  | .heelRelease _ _ => none
  | .launchCompletion _ => none
  | .tlbWalkComplete _ _ => none
  | .walkerStart _ => none
  | .copyComplete _ _ => none
  | .gatherComplete _ _ => none
  | .matrixAfterObserve _ _ => none
  | .matrixOpExecute _ _ => none
  | .matrixBatchRetire _ _ => none
  | .collComplete _ _ => none
  | .collTimeout _ => none
  | .scentSerialPoint _ _ => none
  | .faultRecordPost _ => none
  | .parkedReplay _ _ => none
  | .watchdogExpiry _ _ => none
  | .preemptionEntry _ _ => none
  | .preemptionComplete _ => none
  | .restoreEntry _ _ _ => none
  | .regionRestart _ _ => none
  | .strikeReport _ => none
  | .scrubError _ => none
  | .planeLoss _ => none
  | .whistlePin => none
  | .snapshotLatch _ => none
  | .snapshotCopyOnWrite _ => none
  | .snapshotSweep => none
  | .snapshotComplete => none
  | .create _ => none
  | .destroy _ => none
  | .place _ => none
  | .preempt _ => none
  | .restore _ => none
  | .faultans _ => none
  | .cancel _ => none
  | .whistle _ => none
  | .snapset _ => none
  | .ctimeout _ => none
  | .budget _ => none
  | .memrestore _ => none
  | .invalidCommand _ _ => none
  | .mgmtWriteDiscarded _ => none
  | .powerOnReset => none
  | .firmwareImageLoad _ _ => none
  | .enterFullService _ => none
  | .getVersion => none
  | .getCapabilities => none
  | .negotiateAlgorithms => none
  | .getDigests => none
  | .getCertificate => none
  | .challenge _ => none
  | .getMeasurements => none
  | .throttle _ => none
  | .thermalTrip => none
  | .peerAccess _ _ _ _ _ => none
  | .pagerInvalidation _ _ => none
  | .faultQueueDrain _ _ => none
  | .snapshotLogDrain _ => none
  | .hostPortFailure _ => none
  | .flitCrcError _ => none

/-- The constructor of a major opcode (R43); `none` where the map's cell is reserved or illegal. -/
def ofOpcode (op : Nat) (o : Opnd) : Option Instr :=
  match op with
  | 0x01 => some (.add o)
  | 0x02 => some (.sub o)
  | 0x03 => some (.mul o)
  | 0x04 => some (.mulh o)
  | 0x05 => some (.div o)
  | 0x06 => some (.rem o)
  | 0x07 => some (.min o)
  | 0x08 => some (.max o)
  | 0x09 => some (.and o)
  | 0x0A => some (.or o)
  | 0x0B => some (.xor o)
  | 0x0C => some (.andn o)
  | 0x0D => some (.shl o)
  | 0x0E => some (.shr o)
  | 0x0F => some (.sar o)
  | 0x10 => some (.rol o)
  | 0x11 => some (.clz o)
  | 0x12 => some (.ctz o)
  | 0x13 => some (.popc o)
  | 0x14 => some (.brev o)
  | 0x15 => some (.sext o)
  | 0x16 => some (.zext o)
  | 0x17 => some (.bfx o)
  | 0x18 => some (.bfi o)
  | 0x19 => some (.setc o)
  | 0x1A => some (.sel o)
  | 0x1B => some (.lea o)
  | 0x1C => some (.mov o)
  | 0x20 => some (.br o)
  | 0x21 => some (.bz o)
  | 0x22 => some (.bnz o)
  | 0x23 => some (.bcc o)
  | 0x24 => some (.call o)
  | 0x25 => some (.callr o)
  | 0x26 => some (.jmp o)
  | 0x27 => some (.ret o)
  | 0x28 => some (.loop o)
  | 0x30 => some (.fadd o)
  | 0x31 => some (.fsub o)
  | 0x32 => some (.fmul o)
  | 0x33 => some (.ffma o)
  | 0x34 => some (.fdiv o)
  | 0x35 => some (.fsqrt o)
  | 0x36 => some (.fmin o)
  | 0x37 => some (.fmax o)
  | 0x38 => some (.fsetc o)
  | 0x39 => some (.fcvt o)
  | 0x3A => some (.fclass o)
  | 0x3C => some (.ld o)
  | 0x3D => some (.st o)
  | 0x3E => some (.amo o)
  | 0x40 => some (.vadd o)
  | 0x41 => some (.vsub o)
  | 0x42 => some (.vmul o)
  | 0x43 => some (.vmulh o)
  | 0x44 => some (.vmad o)
  | 0x45 => some (.vmin o)
  | 0x46 => some (.vmax o)
  | 0x47 => some (.vabs o)
  | 0x48 => some (.vneg o)
  | 0x49 => some (.vand o)
  | 0x4A => some (.vor o)
  | 0x4B => some (.vxor o)
  | 0x4C => some (.vnot o)
  | 0x4D => some (.vshl o)
  | 0x4E => some (.vshr o)
  | 0x4F => some (.vsar o)
  | 0x50 => some (.vclz o)
  | 0x51 => some (.vpopc o)
  | 0x52 => some (.vbfx o)
  | 0x53 => some (.vbfi o)
  | 0x54 => some (.vsetc o)
  | 0x55 => some (.vsel o)
  | 0x56 => some (.vsat o)
  | 0x57 => some (.vmov o)
  | 0x58 => some (.vmovx o)
  | 0x59 => some (.vmovxw o)
  | 0x5A => some (.vbytp o)
  | 0x60 => some (.vfadd o)
  | 0x61 => some (.vfsub o)
  | 0x62 => some (.vfmul o)
  | 0x63 => some (.vffma o)
  | 0x64 => some (.vfmin o)
  | 0x65 => some (.vfmax o)
  | 0x66 => some (.vfsetc o)
  | 0x67 => some (.vfdiv o)
  | 0x68 => some (.vfsqrt o)
  | 0x69 => some (.vrcp o)
  | 0x6A => some (.vrsq o)
  | 0x6B => some (.vexp2 o)
  | 0x6C => some (.vlog2 o)
  | 0x6D => some (.vsin o)
  | 0x6E => some (.vcos o)
  | 0x6F => some (.vtanh o)
  | 0x70 => some (.vcvt o)
  | 0x71 => some (.vfclass o)
  | 0x72 => some (.venc o)
  | 0x73 => some (.vdec o)
  | 0x74 => some (.vbpt o)
  | 0x78 => some (.vperm o)
  | 0x79 => some (.vshfx o)
  | 0x7A => some (.vbcast o)
  | 0x7B => some (.vballot o)
  | 0x7C => some (.vscan o)
  | 0x7D => some (.vred o)
  | 0x7E => some (.velect o)
  | 0x7F => some (.vrnd o)
  | 0x80 => some (.kmov o)
  | 0x81 => some (.kop o)
  | 0x82 => some (.kpop o)
  | 0x83 => some (.pmov o)
  | 0x84 => some (.pop o)
  | 0x86 => some (.wid o)
  | 0x87 => some (.laneid o)
  | 0x90 => some (.vbr o)
  | 0x91 => some (.vbrd o)
  | 0x92 => some (.recv o)
  | 0x93 => some (.vbrk o)
  | 0x94 => some (.issv o)
  | 0x95 => some (.flow o)
  | 0x96 => some (.frelab o)
  | 0x97 => some (.fdone o)
  | 0x98 => some (.bari o)
  | 0x99 => some (.bara o)
  | 0x9A => some (.barw o)
  | 0x9B => some (.bart o)
  | 0x9C => some (.yield o)
  | 0x9D => some (.endItems o)
  | 0xA0 => some (.vld o)
  | 0xA1 => some (.vst o)
  | 0xA2 => some (.vldx o)
  | 0xA3 => some (.vstx o)
  | 0xA4 => some (.lds o)
  | 0xA5 => some (.sts o)
  | 0xA6 => some (.vatom o)
  | 0xA7 => some (.xchl o)
  | 0xA8 => some (.acq o)
  | 0xA9 => some (.rel o)
  | 0xAA => some (.bind o)
  | 0xAB => some (.unbind o)
  | 0xAC => some (.fence o)
  | 0xAD => some (.grow o)
  | 0xAE => some (.shrink o)
  | 0xAF => some (.pref o)
  | 0xB0 => some (.hld o)
  | 0xB1 => some (.hrd o)
  | 0xB2 => some (.femk o)
  | 0xC0 => some (.cpy o)
  | 0xC1 => some (.cpym o)
  | 0xC2 => some (.gth o)
  | 0xC3 => some (.mma o)
  | 0xC4 => some (.mmas o)
  | 0xC5 => some (.mzero o)
  | 0xC6 => some (.mld o)
  | 0xC7 => some (.mst o)
  | 0xC8 => some (.manc o)
  | 0xC9 => some (.mclose o)
  | 0xCA => some (.wait o)
  | 0xCB => some (.astat o)
  | 0xCC => some (.coll o)
  | 0xD0 => some (.scnew o)
  | 0xD1 => some (.scfree o)
  | 0xD2 => some (.scqry o)
  | 0xD3 => some (.scapp o)
  | 0xD4 => some (.scml o)
  | 0xD5 => some (.scsave o)
  | 0xD6 => some (.scload o)
  | 0xD7 => some (.scatt o)
  | 0xD8 => some (.scdet o)
  | 0xD9 => some (.sccap o)
  | 0xE0 => some (.launch o)
  | 0xE1 => some (.enq o)
  | 0xE2 => some (.grun o)
  | 0xE3 => some (.gcommit o)
  | 0xF0 => some (.nop o)
  | 0xF1 => some (.srd o)
  | 0xF2 => some (.swr o)
  | 0xF3 => some (.trap o)
  | 0xF4 => some (.eret o)
  | 0xF5 => some (.region o)
  | 0xF6 => some (.chkerr o)
  | 0xF7 => some (.tlbw o)
  | 0xF8 => some (.tlbinv o)
  | 0xF9 => some (.fresume o)
  | 0xFA => some (.snapt o)
  | _ => none

/-- The operand fields of an instruction word, all zero for an event. -/
def opndOf (i : Instr) : Opnd :=
  match wordOf i with
  | some (_, o) => o
  | none => {}

/-- The major opcode, 0 (illegal) for an event. -/
def opcodeOf (i : Instr) : Nat :=
  match wordOf i with
  | some (op, _) => op
  | none => 0

end Sys2Proof.Machine
end

