-- ==== Sys2Proof/Machine/Legal.lean ====
section
/-! DEFINITION. Which words are instructions: the operand forms of every opcode and the checks of
spec/02_encoding.md R45. The one check that depends on the pack, R35's allotment, is in Operands.lean. -/

namespace Sys2Proof.Machine

/-! ### Types (R37) -/

/-- Element bits of a type code (R37); 0 for the illegal code 15. -/
def typeBits (t : BitVec 4) : Nat :=
  match t.toNat with
  | 0 | 1 | 8 => 32
  | 2 | 3 | 9 => 64
  | 4 | 5 | 10 | 11 => 16
  | 6 | 7 | 12 | 13 | 14 => 8
  | _ => 0

/-- The pair types i64, z64 and f64 (R34). -/
def isPairType (t : BitVec 4) : Bool := typeBits t == 64

/-- The floating types of the arithmetic instructions, codes 8 to 11. -/
def isFloatType (t : BitVec 4) : Bool := 8 ≤ t.toNat && t.toNat ≤ 11

/-- The integer types, codes 0 to 7. -/
def isIntType (t : BitVec 4) : Bool := t.toNat < 8

/-- The signed integer types i32, i64, i16 and i8 (R37). -/
def isSignedType (t : BitVec 4) : Bool := t.toNat < 8 && t.toNat % 2 == 0

/-! ### Fields -/

end Sys2Proof.Machine

namespace Sys2Proof

/-- The extension as written, or the defaults of a base word (R32). -/
def Opnd.x (o : Opnd) : Ext := o.ext.getD {}

/-- The length field L (R27). -/
def Opnd.l (o : Opnd) : BitVec 2 :=
  match o.ext, o.lit with
  | none, none => 0
  | some _, none => 1
  | none, some _ => 2
  | some _, some _ => 3

/-- The length in bytes: 4, 12 or 20 (R27). -/
def Opnd.len (o : Opnd) : Nat := 4 + (if o.ext.isSome then 8 else 0) + (if o.lit.isSome then 8 else 0)

/-- The second type TY2, with the default of the conditions in a base word (R38). -/
def Opnd.ty2D (o : Opnd) (dflt : BitVec 4) : BitVec 4 :=
  match o.ext with
  | none => dflt
  | some e => e.ty2

end Sys2Proof

namespace Sys2Proof.Machine

/-- The kind of register, or other use, that an entry gives to an operand field (R33). -/
inductive Kind where
  /-- The field is not used and must be zero. -/
  | unused
  /-- A general register. -/
  | g
  /-- A general register other than g0 (LOOP, R81). -/
  | gNot0
  /-- A predicate. -/
  | p
  /-- A handle. -/
  | h
  /-- An accumulator tile. -/
  | tile
  /-- A mask word, or ksum as 32. -/
  | k
  /-- Any six bits: half of an offset or of a system register number. -/
  | bits
  /-- The first of `n` general registers, none above g63. -/
  | block (n : Nat)
  /-- A code with values 0 to `n` (R210). -/
  | code (n : Nat)
  /-- A vector register operand whose width field may take the values of `ws` (bit w set for width w). -/
  | v (ws : BitVec 4)
  /-- A vector register operand of a 64-bit type: always a pair (R34). -/
  | vpair
deriving DecidableEq, Repr

/-- What one opcode, with its F and second type, accepts (R44 and its entry). -/
structure Form where
  /-- Accepted lengths, bit L. -/
  lens : BitVec 4
  /-- F holds a listed value. -/
  fOk : Bool
  d : Kind := .unused
  a : Kind := .unused
  b : Kind := .unused
  c : Kind := .unused
  /-- The operand that a literal replaces is a branch target, with B and D zero beside it (R42). -/
  target : Bool := false
  /-- D names data that the instruction reads (a store's data, XCHL, VATOM.cas). -/
  dRead : Bool := false
  /-- D is written. -/
  dWrite : Bool := true
  rm : Bool := false
  sat : Bool := false
  inv : Bool := false
  hld : Bool := false
  guarded : Bool := false
  imm : Bool := false
  /-- TY2 values allowed in an extension, bit t. -/
  ty2 : BitVec 16 := 1
  /-- SC values allowed in an extension. -/
  sc : BitVec 8 := 1
  /-- ORD values allowed. -/
  ord : BitVec 4 := 1
  /-- Operands that the entry requires to be of one width, or of one element count, are (R124). -/
  shapes : Bool := true
deriving DecidableEq, Repr

/-- Lengths: 00 only. -/
def lens0 : BitVec 4 := 0b0001
/-- Lengths: 00 and 01. -/
def lens01 : BitVec 4 := 0b0011
/-- Lengths: 01 only. -/
def lens1 : BitVec 4 := 0b0010
/-- Lengths: 01 and 11. -/
def lens13 : BitVec 4 := 0b1010
/-- All four lengths. -/
def lensAll : BitVec 4 := 0b1111

/-- Scopes 0 to 5 (R39). -/
def scAll : BitVec 8 := 0b00111111
/-- The cluster scope only. -/
def scCluster : BitVec 8 := 0b00000100
/-- The device scope only. -/
def scDevice : BitVec 8 := 0b00010000

/-- Single width. -/
def vSingle : Kind := .v 0b0001
/-- Any width. -/
def vAny : Kind := .v 0b1111
/-- Single or pair, for vector offsets and ENQ's identifiers. -/
def vOff : Kind := .v 0b0011

/-- A vector operand of type t at any width of its type (R34). -/
def vType (t : BitVec 4) : Kind := if isPairType t then .vpair else vAny

/-- A vector operand holding exactly one element of type t. -/
def vOne (t : BitVec 4) : Kind := if isPairType t then .vpair else vSingle

/-- Registers covered by an operand (R34); 0 for an operand that is no vector register. -/
def Kind.count (kd : Kind) (w : BitVec 2) : Nat :=
  match kd with
  | .v _ => 2 ^ w.toNat
  | .vpair => 2
  | _ => 0

/-- D and A have one width. -/
def sameDA (kd : Kind) (o : Opnd) : Bool := kd.count o.x.wd == kd.count o.x.wa

/-- D, A and B have one width; a literal stands only for a single or a pair (R28). -/
def sameDAB (kd : Kind) (o : Opnd) : Bool :=
  sameDA kd o && (if o.lit.isSome then kd.count o.x.wd ≤ 2 else kd.count o.x.wb == kd.count o.x.wd)

/-- D, A, B and C have one width. -/
def sameDABC (kd : Kind) (o : Opnd) : Bool := sameDAB kd o && kd.count o.x.wc == kd.count o.x.wd

/-- TY2 values 0 to 7. -/
def ty2Int : BitVec 16 := 0x00FF
/-- TY2 values 8 to 11. -/
def ty2Float : BitVec 16 := 0x0F00
/-- TY2 values 0 to 3. -/
def ty2Wide : BitVec 16 := 0x000F

/-- The form of an integer lane instruction with two sources (R127). -/
def formInt2 (sat : Bool) (o : Opnd) : Form :=
  { lens := lensAll, fOk := isIntType o.f, d := vType o.f, a := vType o.f, b := vType o.f, sat, guarded := true,
    shapes := sameDAB (vType o.f) o }

/-- The form of an integer lane instruction with one source (R127). -/
def formInt1 (o : Opnd) : Form :=
  { lens := lens01, fOk := isIntType o.f, d := vType o.f, a := vType o.f, guarded := true, shapes := sameDA (vType o.f) o }

/-- The form of a floating lane instruction with two sources (R132). -/
def formFloat2 (rm : Bool) (o : Opnd) : Form :=
  { lens := lensAll, fOk := isFloatType o.f, d := vType o.f, a := vType o.f, b := vType o.f, rm, guarded := true,
    shapes := sameDAB (vType o.f) o }

/-- The form of a floating lane instruction with one source (R132, R133). -/
def formFloat1 (rm : Bool) (o : Opnd) : Form :=
  { lens := lens01, fOk := isFloatType o.f, d := vType o.f, a := vType o.f, rm, guarded := true,
    shapes := sameDA (vType o.f) o }

/-- A scalar instruction with D, A and B (R75). -/
def formScalar (fOk : Bool) : Form := { lens := lensAll, fOk, d := .g, a := .g, b := .g }

/-- A scalar instruction with D and A (R78). -/
def formScalar1 (fOk : Bool) : Form := { lens := lens01, fOk, d := .g, a := .g }

/-- A scalar branch with a target (R42, R81). -/
def formBranch (a : Kind) (o : Opnd) : Form :=
  if o.ext.isNone && o.lit.isNone then { lens := lensAll, fOk := o.f == 0, d := .bits, a, b := .bits, target := true }
  else { lens := lensAll, fOk := o.f == 0, a, target := true, imm := o.lit.isNone }

/-- A lane load through a handle (R205, R206). -/
def formVload (b : Kind) (o : Opnd) : Form :=
  { lens := lensAll, fOk := o.f.toNat ≤ 14, d := vType o.f, a := .h, b, guarded := true, imm := true, sc := scAll,
    ord := 0b0011, inv := o.x.ord == 0 }

/-- A lane store through a handle (R205, R206). -/
def formVstore (b : Kind) (o : Opnd) : Form :=
  { lens := lensAll, fOk := o.f.toNat ≤ 14, d := vType o.f, a := .h, b, dRead := true, dWrite := false, guarded := true,
    imm := true, sc := scAll, ord := 0b0101, hld := true }

/-- The elements that an operand of type t and width w holds (R124). -/
def elemCount (t : BitVec 4) (w : BitVec 2) : Nat := 32 * (vType t).count w / typeBits t

/-- The system registers of R16, by number, with their access at user level and at handler level. -/
inductive Access where
  | ro | rw | trap
deriving DecidableEq, Repr

/-- Access to a system register at user and at handler level; `none` for an unassigned number (R16). -/
def sysAccess (n : Nat) : Option (Access × Access) :=
  match n with
  | 0x000 | 0x001 | 0x002 => some (.ro, .ro)
  | 0x010 => some (.ro, .rw)
  | 0x011 | 0x012 | 0x013 | 0x014 | 0x015 => some (.trap, .rw)
  | 0x020 => some (.rw, .rw)
  | 0x021 | 0x022 => some (.ro, .rw)
  | 0x030 | 0x031 | 0x032 | 0x033 => some (.trap, .rw)
  | 0x040 => some (.ro, .rw)
  | 0x050 | 0x051 => some (.trap, .rw)
  | 0x052 | 0x053 => some (.ro, .rw)
  | 0x060 | 0x061 => some (.trap, .rw)
  | 0x070 => some (.ro, .rw)
  | 0x080 => some (.trap, .rw)
  | _ => none

/-- The 12-bit number of SRD (R20). -/
def srdNumber (o : Opnd) : Nat := o.b.toNat * 64 + o.a.toNat
/-- The 12-bit number of SWR (R20). -/
def swrNumber (o : Opnd) : Nat := o.b.toNat * 64 + o.d.toNat

/-- The operand form of an instruction, by its entry; `none` for an event. -/
def formOf (i : Instr) : Option Form :=
  match i with
  -- scalar integer (R76-R80)
  | .add o | .sub o | .mul o | .and o | .or o | .xor o | .andn o | .shl o | .shr o | .sar o | .rol o | .bfx o =>
    some (formScalar (o.f == 0))
  | .mulh o | .div o | .rem o | .min o | .max o => some (formScalar (o.f.toNat ≤ 1))
  | .clz o | .ctz o | .popc o | .brev o => some (formScalar1 (o.f == 0))
  | .sext o | .zext o => some (formScalar1 (o.f.toNat ≤ 2))
  | .bfi o | .sel o => some { formScalar (o.f == 0) with lens := lens13, c := .g }
  | .setc o => some (formScalar (o.f.toNat ≤ 9))
  | .lea _ => some (formScalar true)
  | .mov o => some { formScalar (o.f == 0) with a := .unused }
  -- control (R81, R82)
  | .br o | .call o => some (formBranch .unused o)
  | .bz o | .bnz o => some (formBranch .g o)
  | .loop o => some (formBranch .gNot0 o)
  | .bcc o => some { lens := lens13, fOk := o.f.toNat ≤ 9, a := .g, b := .g, imm := true }
  | .callr o | .jmp o => some { lens := lens01, fOk := o.f == 0, a := .g }
  | .ret o => some { lens := lens0, fOk := o.f == 0 }
  -- scalar floating (R84-R87)
  | .fadd o | .fsub o | .fmul o | .fdiv o => some { formScalar (isFloatType o.f) with rm := true }
  | .ffma o => some { formScalar (isFloatType o.f) with lens := lens13, c := .g, rm := true }
  | .fsqrt o => some { formScalar1 (isFloatType o.f) with rm := true }
  | .fmin o | .fmax o => some (formScalar (isFloatType o.f))
  | .fsetc o => some { formScalar (o.f.toNat ≤ 7) with ty2 := ty2Float }
  | .fcvt o => some { formScalar1 (o.f.toNat ≤ 3 || isFloatType o.f) with lens := lens1, rm := true, ty2 := 0x0F0F }
  | .fclass o => some (formScalar1 (isFloatType o.f))
  -- scalar memory (R88, R89)
  | .ld o => some { lens := lensAll, fOk := o.f.toNat ≤ 11, d := .g, a := .h, b := .g, imm := true, sc := scAll, ord := 0b0011, inv := o.x.ord == 0 }
  | .st o => some { lens := lensAll, fOk := o.f.toNat ≤ 11, d := .g, a := .h, b := .g, imm := true, sc := scAll, ord := 0b0101 }
  | .amo o => some { lens := lens13, fOk := o.f.toNat ≤ 7, d := .g, a := .h, b := .g, c := .g, imm := true, sc := scAll, ord := 0b1111, ty2 := ty2Wide }
  -- integer lane instructions (R127-R131)
  | .vadd o | .vsub o | .vmul o | .vshl o => some (formInt2 true o)
  | .vmulh o | .vmin o | .vmax o | .vand o | .vor o | .vxor o | .vshr o | .vsar o => some (formInt2 false o)
  | .vmad o => some { formInt2 true o with lens := lens13, c := vType o.f, shapes := sameDABC (vType o.f) o }
  | .vabs o | .vneg o | .vnot o | .vclz o | .vpopc o => some (formInt1 o)
  | .vbfx o => some { formInt2 false o with fOk := o.f.toNat ≤ 3 }
  | .vbfi o => some { formInt2 false o with fOk := o.f.toNat ≤ 3, lens := lens13, c := vType o.f, shapes := sameDABC (vType o.f) o }
  | .vsetc o => some { lens := lensAll, fOk := o.f.toNat ≤ 9, d := .p, a := vOne (o.ty2D 0), b := vOne (o.ty2D 0), guarded := true, ty2 := ty2Int }
  | .vsel o => some { lens := lens13, fOk := o.f == 0, d := vAny, a := vAny, b := vAny, c := .p, guarded := true, shapes := sameDAB vAny o }
  | .vsat o => some { lens := lens1, fOk := isIntType o.f, d := vType o.f, a := vType o.x.ty2, rm := true, sat := true, guarded := true, imm := true, ty2 := ty2Int, shapes := elemCount o.f o.x.wd == elemCount o.x.ty2 o.x.wa }
  | .vmov o => some { lens := lensAll, fOk := o.f == 0, d := vAny, b := vAny, guarded := true, shapes := if o.lit.isSome then o.x.wd.toNat ≤ 1 else o.x.wb == o.x.wd }
  | .vmovx o => some { lens := lens01, fOk := o.f.toNat ≤ 1, d := vAny, a := vSingle, guarded := true, imm := true }
  | .vmovxw o => some { lens := lens01, fOk := o.f.toNat ≤ 1, a := vSingle, b := vAny, guarded := true, imm := true }
  | .vbytp o => some { lens := lensAll, fOk := o.f == 0, d := vSingle, a := vSingle, b := vSingle, guarded := true }
  -- floating lane instructions (R132-R134)
  | .vfadd o | .vfsub o | .vfmul o | .vfdiv o => some (formFloat2 true o)
  | .vfmin o | .vfmax o => some (formFloat2 false o)
  | .vffma o => some { formFloat2 true o with lens := lens13, c := vType o.f, shapes := sameDABC (vType o.f) o }
  | .vfsetc o => some { lens := lensAll, fOk := o.f.toNat ≤ 7, d := .p, a := vOne (o.ty2D 8), b := vOne (o.ty2D 8), guarded := true, ty2 := ty2Float }
  | .vfsqrt o | .vrcp o | .vrsq o | .vexp2 o | .vlog2 o | .vsin o | .vcos o | .vtanh o => some (formFloat1 true o)
  | .vfclass o => some (formFloat1 false o)
  -- conversions and block formats (R135-R138)
  | .vcvt o => some { lens := lens1, fOk := o.f.toNat ≤ 14, d := vType o.f, a := vType o.x.ty2, b := if o.f == 14 || o.x.ty2 == 14 then vSingle else .unused, rm := true, sat := isIntType o.f, guarded := true, ty2 := 0x7FFF, shapes := elemCount o.f o.x.wd == elemCount o.x.ty2 o.x.wa && !(o.f == 14 && o.x.ty2 == 14) }
  | .venc o => some { lens := lens01, fOk := o.f.toNat % 4 ≤ 2 && o.f.toNat / 4 ≤ 2, d := vSingle, a := vSingle, rm := true, guarded := true }
  | .vdec o => some { lens := lens01, fOk := o.f.toNat % 4 ≤ 2 && o.f.toNat / 4 ≤ 2, d := vSingle, a := vSingle, guarded := true }
  | .vbpt o => some { lens := lens01, fOk := o.f.toNat % 4 ≤ 2 && o.f.toNat < 8, d := vSingle, a := vSingle, guarded := true }
  -- across lanes (R139-R143)
  | .vperm o => some { lens := lensAll, fOk := o.f.toNat ≤ 1, d := vAny, a := vAny, b := vSingle, guarded := true, shapes := sameDA vAny o }
  | .vshfx o => some { lens := lensAll, fOk := true, d := vAny, a := vAny, b := vSingle, guarded := true, shapes := sameDA vAny o }
  | .vbcast o => some { lens := lensAll, fOk := o.f.toNat ≤ 2, d := vAny, a := vAny, b := if o.f == 0 then vSingle else .unused, guarded := true, shapes := sameDA vAny o }
  | .vballot o => some { lens := lens01, fOk := o.f.toNat ≤ 3, d := if o.f == 0 then vSingle else .g, a := .p, guarded := true }
  | .velect o => some { lens := lens01, fOk := o.f.toNat ≤ 2, d := .p, guarded := true }
  | .vscan o => some { lens := lens1, fOk := o.f.toNat % 8 ≠ 7 && (!isFloatType o.x.ty2 || [0, 2, 3].contains (o.f.toNat % 8)), d := vOne o.x.ty2, a := vOne o.x.ty2, rm := isFloatType o.x.ty2, sat := false, guarded := true, ty2 := 0x030F }
  | .vred o => some { lens := lens1, fOk := o.f.toNat % 8 ≠ 7 && (!isFloatType o.x.ty2 || [0, 2, 3].contains (o.f.toNat % 8)), d := if o.f.toNat < 8 then .g else vOne o.x.ty2, a := vOne o.x.ty2, rm := isFloatType o.x.ty2, guarded := true, ty2 := 0x030F }
  | .vrnd o => some { lens := lens01, fOk := o.f.toNat ≤ 2, d := if o.f == 2 then .v 0b0010 else vSingle, a := vSingle, b := vSingle, guarded := true }
  -- masks, predicates and identity (R145-R148)
  | .kmov o => some (match o.f.toNat with
      | 1 => { lens := lensAll, fOk := true, d := .k, b := .g, guarded := true }
      | _ => { lens := lensAll, fOk := o.f.toNat ≤ 2, d := .g, a := .k, guarded := true })
  | .kop o => some { lens := lens01, fOk := o.f.toNat ≤ 3, a := if o.f == 3 then .unused else .p, guarded := true }
  | .kpop o => some { lens := lens01, fOk := o.f.toNat ≤ 3, d := .g, guarded := true }
  | .pmov o => some (match o.f.toNat with
      | 1 => { lens := lensAll, fOk := true, d := .p, b := vSingle, guarded := true }
      | 2 => { lens := lensAll, fOk := true, d := vSingle, a := .p, guarded := true }
      | 3 => { lens := lensAll, fOk := true, d := vSingle, guarded := true }
      | 4 => { lens := lensAll, fOk := o.lit.isNone, b := vSingle, guarded := true }
      | _ => { lens := lensAll, fOk := o.f == 0 || o.f == 5, d := .p, a := .p, guarded := true })
  | .pop o => some { lens := lens01, fOk := o.f.toNat ≤ 6, d := .p, a := if o.f.toNat ≤ 4 then .p else .unused, b := if o.f.toNat ≤ 3 then .p else .unused, guarded := true }
  | .wid o => some { lens := lens01, fOk := o.f.toNat ≤ 9, d := if o.f.toNat ≤ 5 then vOff else if o.f == 6 then .v 0b0010 else vSingle, guarded := true }
  | .laneid o => some { lens := lens01, fOk := o.f.toNat ≤ 3, d := vSingle, guarded := true }
  -- branches of the pack, ISSV, flows (R149-R152, R156)
  | .vbr o | .vbrd o => some { lens := lens13, fOk := o.f == 0, d := if o.lit.isSome then .unused else .bits, a := .p, b := if o.lit.isSome then .unused else .bits, target := true, guarded := true, imm := true }
  | .recv o | .yield o | .endItems o | .mclose o | .eret o | .region o | .fresume o => some { lens := lens0, fOk := o.f == 0 }
  | .vbrk o | .fdone o => some { lens := lens01, fOk := o.f == 0, guarded := true }
  | .issv o => some { lens := lens01, fOk := o.f == 0, a := vSingle, guarded := true }
  | .flow o | .frelab o => some { lens := lensAll, fOk := o.f.toNat ≤ 2, b := vSingle, guarded := true }
  -- barriers (R153)
  | .bari o | .bara o => some { lens := lensAll, fOk := o.f == 0, a := .g, b := .g, guarded := true, imm := true, sc := scCluster }
  | .barw o => some { lens := lens01, fOk := o.f == 0, a := .g, b := .g, guarded := true, imm := true, sc := scCluster }
  | .bart o => some { lens := lens01, fOk := o.f == 0, d := .p, a := .g, b := .g, guarded := true, imm := true, sc := scCluster }
  -- lane memory (R204-R213)
  | .vld o => some (formVload .g o)
  | .vst o => some (formVstore .g o)
  | .vldx o => some (formVload vOff o)
  | .vstx o => some (formVstore vOff o)
  | .lds o => some { formVload vOff o with a := .g, c := .code 2, inv := false }
  | .sts o => some { formVstore vOff o with a := .g, c := .code 1 }
  | .vatom o => some { lens := lens13, fOk := o.f.toNat ≤ 7 && !(o.x.ty2 == 8 && [2, 3, 4].contains o.f.toNat), d := vOne o.x.ty2, a := .h, b := vOff, c := vOne o.x.ty2, dRead := o.f == 7, guarded := true, imm := true, sc := scAll, ord := 0b1111, ty2 := 0x010F }
  | .xchl o => some { lens := lensAll, fOk := o.f.toNat ≤ 3, d := vOne o.f, a := .h, b := vOff, dRead := true, guarded := true, imm := true, sc := scAll, ord := 0b1111 }
  -- guards, fences, allotment, hints (R214-R223)
  | .acq o => some { lens := lens01, fOk := o.f.toNat ≤ 1, a := .h, b := .g, imm := true, sc := scDevice }
  | .rel o => some { lens := lens01, fOk := o.f == 0, a := .h, b := .g, imm := true, sc := scDevice }
  | .bind o => some { lens := lensAll, fOk := o.f.toNat ≤ 1, d := .g, a := .h, b := if o.f == 0 then .g else .unused, sc := scDevice }
  | .unbind o => some { lens := lens01, fOk := o.f == 0, d := .g, a := .h, b := .g, sc := scDevice }
  | .fence o => some { lens := lens01, fOk := o.f == 0, sc := scAll, ord := 0b1111 }
  | .grow o | .shrink o => some { lens := lensAll, fOk := o.f.toNat ≤ 1, b := .g }
  | .pref o => some { lens := lensAll, fOk := o.f.toNat ≤ 1, a := .h, b := .g, imm := true }
  | .femk o => some { lens := lensAll, fOk := o.f.toNat ≤ 1, a := .g, b := .g, imm := true, sc := scCluster }
  | .hld o => some { lens := lens01, fOk := o.f.toNat ≤ 1, d := if o.f == 0 then .p else .unused, guarded := true }
  | .hrd o => some { lens := lens01, fOk := o.f.toNat ≤ 1, d := if o.f == 0 then .g else vSingle, guarded := true }
  -- engines (R225-R249)
  | .cpy o => some { lens := lens13, fOk := o.f.toNat ≤ 7, d := .h, a := .h, b := .g, c := .block 4 }
  | .cpym o => some { lens := lens13, fOk := o.f.toNat ≤ 7, d := .h, a := .h, b := .g, c := .block 5 }
  | .gth o => some { lens := lens13, fOk := o.f.toNat ≤ 8, d := .h, a := .h, b := .g, c := vSingle, guarded := true }
  | .mma o | .mmas o => some { lens := lens1, fOk := o.f.toNat ≤ 7, d := .tile, a := vSingle, b := .h, c := .h, guarded := true, imm := true }
  | .mzero o => some { lens := lens01, fOk := o.f.toNat ≤ 1, d := .tile, guarded := true, imm := true }
  | .mld o => some { lens := lens1, fOk := o.f.toNat ≤ 7, d := .tile, a := vSingle, b := .h, guarded := true, imm := true }
  | .mst o => some { lens := lens1, fOk := o.f.toNat ≤ 7, d := .tile, a := vSingle, b := .h, rm := true, guarded := true, imm := true }
  | .manc o => some { lens := lensAll, fOk := o.f == 0, d := .tile, b := vSingle, guarded := true, imm := true }
  | .wait o => some { lens := lensAll, fOk := o.f.toNat ≤ 4, b := .g }
  | .astat o => some { lens := lens01, fOk := o.f.toNat ≤ 6, d := .g }
  | .coll o => some { lens := lens13, fOk := o.f.toNat / 4 ≤ 2 && (o.f.toNat % 4 ≤ 1 || o.f.toNat / 4 == 0), d := .h, a := .h, b := .g, c := .h, rm := o.f.toNat ≤ 1 && isFloatType o.x.ty2, ty2 := 0x0F0F }
  -- Scent (R261)
  | .scnew o => some { lens := lens01, fOk := o.f.toNat ≤ 1, d := vSingle, a := .h, b := .g }
  | .scfree o | .scdet o => some { lens := lens01, fOk := o.f == 0, a := .g }
  | .scqry o | .scatt o => some { lens := lensAll, fOk := o.f == 0, d := vSingle, a := .g, b := .g }
  | .scapp o => some { lens := lensAll, fOk := o.f == 0, d := vSingle, a := .g, b := vSingle }
  | .scml o => some { lens := lens01, fOk := o.f.toNat ≤ 5, d := if o.f == 4 then .unused else .g, a := if o.f.toNat ≤ 3 then .unused else .g }
  | .scsave o | .scload o => some { lens := lensAll, fOk := o.f == 0, d := .h, a := .g, b := .g }
  | .sccap o => some { lens := lensAll, fOk := o.f == 0, a := .g, b := .g }
  -- submission (R292)
  | .launch o => some { lens := lens01, fOk := o.f.toNat ≤ 1, d := .g, a := .g }
  | .enq o => some { lens := lens01, fOk := o.f.toNat ≤ 1, d := .g, a := .g, b := vOff, c := if o.f == 1 then vSingle else .unused, guarded := true }
  | .grun o | .gcommit o => some { lens := lens01, fOk := o.f == 0, d := .g, a := .g, b := .g }
  -- system (R20, R21, R302, R306-R308, R322, R323, R337)
  | .nop o => some { lens := lens01, fOk := o.f == 0 }
  | .srd o => some { lens := lens0, fOk := o.f == 0 && (sysAccess (srdNumber o)).isSome, d := .g, a := .bits, b := .bits }
  | .swr o => some { lens := lens0, fOk := o.f == 0 && (sysAccess (swrNumber o)).isSome, d := .bits, a := .g, b := .bits }
  | .trap o => some { lens := lensAll, fOk := o.f == 0, b := .g }
  | .chkerr o => some { lens := lens01, fOk := o.f == 0, d := .g }
  | .tlbw o => some { lens := lens1, fOk := o.f.toNat ≤ 2, a := .g, b := .g, c := .g }
  | .tlbinv o => some { lens := lens01, fOk := o.f.toNat ≤ 1, a := if o.f == 0 then .g else .unused }
  | .snapt o => some { lens := lens01, fOk := o.f == 0, d := .g, a := .g }
  | _ => none

/-! ### The checks of R45 -/

/-- The case of R45 that makes a word illegal; case 7, the allotment, is checked at issue. -/
inductive Illegal where
  | opcode | length | literal | function | register | width | extension | code | guard
deriving DecidableEq, Repr

/-- Does a register field reach a register of its kind, with its high bits right (R33)? -/
def regOk (kd : Kind) (n : BitVec 6) (hi : BitVec 2) : Bool :=
  match kd with
  | .unused => n == 0 && hi == 0
  | .g | .h | .bits => hi == 0
  | .gNot0 => hi == 0 && n != 0
  | .p => hi == 0 && n.toNat < 8
  | .tile => hi == 0 && n.toNat < 4
  | .k => hi == 0 && n.toNat ≤ 32
  | .block c => hi == 0 && n.toNat + c ≤ 64
  | .code c => hi == 0 && n.toNat ≤ c
  | .v _ | .vpair => true

/-- Is a width field accepted, and the register's number a multiple of it (R34)? -/
def widthOk (kd : Kind) (n : BitVec 6) (w : BitVec 2) : Bool :=
  match kd with
  | .v ws => ws.getLsbD w.toNat && n.toNat % 2 ^ w.toNat == 0
  | .vpair => w.toNat ≤ 1 && n.toNat % 2 == 0
  | _ => w == 0

/-- Is the operand a vector register, which alone may carry an empty action (R31)? -/
def Kind.isV (kd : Kind) : Bool :=
  match kd with
  | .v _ | .vpair => true
  | _ => false

/-- May a literal stand in operand B (R28)? The widths of a vector operand B are judged by `shapes`. -/
def literalOk (fm : Form) (o : Opnd) : Bool :=
  o.lit.isNone ||
    ((fm.target || (match fm.b with | .g | .v _ | .vpair => true | _ => false)) &&
      o.b == 0 && o.x.bh == 0 && !o.x.eb && o.x.wb == 0)

/-- The kind of operand B once a literal has replaced it. -/
def Form.bKind (fm : Form) (o : Opnd) : Kind := if o.lit.isSome then .unused else fm.b

/-- The first case of R45 that a word meets, R35 apart; `none` when it is legal. -/
def illegalCase (i : Instr) : Option Illegal :=
  match formOf i with
  | none => some .opcode
  | some fm =>
    let o := opndOf i
    let e := o.x
    let b := fm.bKind o
    if !fm.lens.getLsbD o.l.toNat then some .length
    else if !literalOk fm o then some .literal
    else if !fm.fOk then some .function
    else if !(regOk fm.d o.d e.dh && regOk fm.a o.a e.ah && regOk b o.b e.bh && regOk fm.c e.c e.ch) then some .register
    else if !(widthOk fm.d o.d e.wd && widthOk fm.a o.a e.wa && widthOk b o.b e.wb && widthOk fm.c e.c e.wc && fm.shapes) then
      some .width
    else if !((e.rm == 0 || fm.rm) && (!e.sat || fm.sat) && (!e.inv || fm.inv) && (!e.hld || fm.hld) &&
        (!e.pe || fm.guarded) && (e.imm16 == 0 || fm.imm) && (!e.ea || fm.a.isV) && (!e.eb || b.isV) && (!e.ec || fm.c.isV)) then
      some .extension
    else if !(e.rm.toNat ≤ 4 && (o.ext.isNone || (fm.sc.getLsbD e.sc.toNat && fm.ord.getLsbD e.ord.toNat &&
        fm.ty2.getLsbD e.ty2.toNat))) then some .code
    else if !e.pe && (e.pg != 0 || e.pn) then some .guard
    else none

end Sys2Proof.Machine
end

