-- ==== Sys2Proof/Machine/Numbers.lean ====
section
/-! DEFINITION. Numbers (spec/03_numbers.md): integer types, floating formats, Round, exact arithmetic on rationals, the
block exponent formats, and the correctly rounded special functions of spec/06_lane_instructions.md R133. -/

namespace Sys2Proof.Machine

/-! ### Integers (R48, R49) -/

/-- The value of the low bits of `x` under an integer type (R48). -/
def intVal (t : BitVec 4) (x : Nat) : Int :=
  let n := typeBits t
  let u := x % 2 ^ n
  if isSignedType t && u.testBit (n - 1) then (u : Int) - 2 ^ n else u

/-- The bits of an integer reduced modulo 2^n (R48). -/
def wrapBits (n : Nat) (v : Int) : Nat := (v % (2 ^ n : Int)).toNat

/-- The smallest value of an integer type. -/
def intMin (t : BitVec 4) : Int := if isSignedType t then -(2 ^ (typeBits t - 1)) else 0
/-- The largest value of an integer type. -/
def intMax (t : BitVec 4) : Int := if isSignedType t then 2 ^ (typeBits t - 1) - 1 else 2 ^ typeBits t - 1

/-- Sat (R48). -/
def sat (t : BitVec 4) (v : Int) : Int := max (intMin t) (min (intMax t) v)

/-- The bits of an exact integer result under a type, wrapped or saturated (R48, R124). -/
def intBits (t : BitVec 4) (s : Bool) (v : Int) : Nat := wrapBits (typeBits t) (if s then sat t v else v)

/-- Division with the limits of R49: the quotient's value before wrapping to 64 bits. -/
def divInt (signed : Bool) (a b : Int) : Int := if b = 0 then (if signed then -1 else 2 ^ 64 - 1) else a.tdiv b
/-- Remainder with the limits of R49. -/
def remInt (a b : Int) : Int := if b = 0 then a else a.tmod b

/-! ### Formats (R50, R52) -/

/-- A floating format: exponent bits, fraction bits, and whether it has infinities. -/
structure Fmt where
  eb : Nat
  fb : Nat
  hasInf : Bool := true
deriving DecidableEq, Repr

/-- The format of a type code (R37, R50). -/
def fmtOf (t : BitVec 4) : Fmt :=
  match t.toNat with
  | 9 => ⟨11, 52, true⟩
  | 10 => ⟨5, 10, true⟩
  | 11 => ⟨8, 7, true⟩
  | 12 => ⟨4, 3, false⟩
  | 13 => ⟨5, 2, true⟩
  | _ => ⟨8, 23, true⟩

/-- The exponent bias. -/
def Fmt.bias (f : Fmt) : Nat := 2 ^ (f.eb - 1) - 1
/-- The place of the sign bit. -/
def Fmt.top (f : Fmt) : Nat := f.eb + f.fb
/-- The sign bit of a value. -/
def Fmt.sign (f : Fmt) (x : Nat) : Bool := x.testBit f.top
/-- The exponent field. -/
def Fmt.exp (f : Fmt) (x : Nat) : Nat := x / 2 ^ f.fb % 2 ^ f.eb
/-- The fraction field. -/
def Fmt.frac (f : Fmt) (x : Nat) : Nat := x % 2 ^ f.fb
/-- Give a magnitude a sign. -/
def Fmt.signed (f : Fmt) (neg : Bool) (m : Nat) : Nat := if neg then 2 ^ f.top + m else m
/-- The magnitude of infinity; in e4m3, of its NaN. -/
def Fmt.infMag (f : Fmt) : Nat := if f.hasInf then (2 ^ f.eb - 1) * 2 ^ f.fb else 0x7F
/-- The magnitude of the largest finite value. -/
def Fmt.maxMag (f : Fmt) : Nat := f.infMag - 1
/-- Is it a NaN (R52)? -/
def Fmt.isNan (f : Fmt) (x : Nat) : Bool := if f.hasInf then x % 2 ^ f.top > f.infMag else x % 2 ^ f.top == 0x7F
/-- Is it an infinity? -/
def Fmt.isInf (f : Fmt) (x : Nat) : Bool := f.hasInf && x % 2 ^ f.top == f.infMag
/-- The quiet bit. -/
def Fmt.quietBit (f : Fmt) : Nat := 2 ^ (f.fb - 1)
/-- Quieting (R52). -/
def Fmt.quiet (f : Fmt) (x : Nat) : Nat := if f.hasInf then x % 2 ^ (f.top + 1) ||| f.quietBit else x % 2 ^ (f.top + 1)
/-- The canonical quiet NaN (R52). -/
def Fmt.canon (f : Fmt) : Nat := if f.hasInf then f.infMag + f.quietBit else 0x7F

/-! ### Exact values -/

/-- An exact value: a rational with its sign (zeros are signed), an infinity, or no value. -/
inductive Num where
  | nan
  | inf (neg : Bool)
  | fin (neg : Bool) (n d : Nat)
deriving DecidableEq, Repr

/-- m × 2^k as a signed rational. -/
def dyadic (neg : Bool) (m : Nat) (k : Int) : Num := .fin neg (m * 2 ^ k.toNat) (2 ^ (-k).toNat)

/-- The value of a floating pattern (R50). -/
def Fmt.unpack (f : Fmt) (x : Nat) : Num :=
  if f.isNan x then .nan
  else if f.isInf x then .inf (f.sign x)
  else if f.exp x = 0 then dyadic (f.sign x) (f.frac x) (1 - (f.bias : Int) - f.fb)
  else dyadic (f.sign x) (2 ^ f.fb + f.frac x) ((f.exp x : Int) - f.bias - f.fb)

/-- An integer as an exact value; zero is +0. -/
def Num.ofInt (v : Int) : Num := .fin (decide (v < 0)) v.natAbs 1

/-- The exponent e with 2^e ≤ n/d < 2^(e+1), for n and d nonzero. -/
def floorLog2 (n d : Nat) : Int :=
  let e := (Nat.log2 n : Int) - Nat.log2 d
  if d * 2 ^ e.toNat ≤ n * 2 ^ (-e).toNat then e else e - 1

/-- Does a mode of R53 go away from zero, for an inexact value whose remainder compares `c` with one half? -/
def roundsUp (rm : Nat) (neg odd : Bool) (c : Ordering) : Bool :=
  match rm with
  | 0 => c = .gt || (c = .eq && odd)
  | 1 => false
  | 2 => !neg
  | 3 => neg
  | _ => c != .lt

/-- The magnitude n/d rounded to an integer, for a value of the given sign (R53). -/
def roundDiv (rm : Nat) (neg : Bool) (n d : Nat) : Nat :=
  let q := n / d
  let r := n % d
  if r = 0 then q else if roundsUp rm neg (q % 2 == 1) (compare (2 * r) d) then q + 1 else q

/-- The magnitude on overflow (R54). -/
def Fmt.overflow (f : Fmt) (rm : Nat) (neg : Bool) : Nat :=
  let toInf := match rm with
    | 1 => false
    | 2 => !neg
    | 3 => neg
    | _ => true
  if toInf && f.hasInf then f.infMag else f.maxMag

/-- Round of a rational into a floating format (R53, R54). -/
def Fmt.roundRat (f : Fmt) (rm : Nat) (neg : Bool) (n d : Nat) : Nat :=
  if n = 0 then f.signed neg 0
  else
    let q := max (floorLog2 n d) (1 - (f.bias : Int)) - f.fb
    let m := roundDiv rm neg (n * 2 ^ (-q).toNat) (d * 2 ^ q.toNat)
    let mag := if m < 2 ^ f.fb then m else (q + f.fb + f.bias).toNat * 2 ^ f.fb + (m - 2 ^ f.fb)
    f.signed neg (if mag > f.maxMag then f.overflow rm neg else mag)

/-- Round of an exact value (R53, R57); no value gives the canonical quiet NaN. -/
def Fmt.round (f : Fmt) (rm : Nat) (x : Num) : Nat :=
  match x with
  | .nan => f.canon
  | .inf neg => f.signed neg f.infMag
  | .fin neg n d => f.roundRat rm neg n d

/-- A rational rounded to an integer (R53). -/
def roundToInt (rm : Nat) (neg : Bool) (n d : Nat) : Int :=
  if neg then -(roundDiv rm neg n d : Int) else roundDiv rm neg n d

/-- Round of an exact value into an integer type, with its saturation (R53, R58). -/
def roundInt (t : BitVec 4) (rm : Nat) (x : Num) : Int :=
  match x with
  | .nan => 0
  | .inf neg => if neg then intMin t else intMax t
  | .fin neg n d => sat t (roundToInt rm neg n d)

/-! ### Arithmetic (R55, R56) -/

/-- The signed numerator of n/d over a common denominator. -/
def sgnMul (neg : Bool) (n k : Nat) : Int := if neg then -((n * k : Nat) : Int) else (n * k : Nat)

/-- The exact sum; the sign of a zero sum by R56. -/
def Num.add (rm : Nat) (x y : Num) : Num :=
  match x, y with
  | .nan, _ | _, .nan => .nan
  | .inf a, .inf b => if a = b then .inf a else .nan
  | .inf a, _ => .inf a
  | _, .inf b => .inf b
  | .fin a n d, .fin b m e =>
    let v := sgnMul a n e + sgnMul b m d
    if v = 0 then .fin (if n = 0 && a == b then a else rm == 3) 0 1 else .fin (decide (v < 0)) v.natAbs (d * e)

/-- Change of sign. -/
def Num.neg : Num → Num
  | .nan => .nan
  | .inf a => .inf (!a)
  | .fin a n d => .fin (!a) n d

/-- The exact product (R55, R56). -/
def Num.mul (x y : Num) : Num :=
  match x, y with
  | .nan, _ | _, .nan => .nan
  | .inf a, .inf b => .inf (a != b)
  | .inf a, .fin b n _ => if n = 0 then .nan else .inf (a != b)
  | .fin a n _, .inf b => if n = 0 then .nan else .inf (a != b)
  | .fin a n d, .fin b m e => .fin (a != b) (n * m) (d * e)

/-- The exact quotient (R55, R56, R84). -/
def Num.div (x y : Num) : Num :=
  match x, y with
  | .nan, _ | _, .nan => .nan
  | .inf _, .inf _ => .nan
  | .inf a, .fin b _ _ => .inf (a != b)
  | .fin a _ _, .inf b => .fin (a != b) 0 1
  | .fin a n d, .fin b m e =>
    if m = 0 then (if n = 0 then .nan else .inf (a != b)) else .fin (a != b) (n * e) (d * m)

/-- One Newton step towards the integer square root, from above, `fuel` times at most. -/
def isqrtLoop (n : Nat) : Nat → Nat → Nat
  | 0, x => x
  | k + 1, x => let y := (x + n / x) / 2; if y < x then isqrtLoop n k y else x

/-- The integer square root. -/
def isqrt (n : Nat) : Nat := if n = 0 then 0 else isqrtLoop n (Nat.log2 n + 2) (2 ^ (Nat.log2 n / 2 + 1))

/-- A stand-in for √(n/d) that Round cannot tell from it: the root itself when 2^-k divides it, otherwise the middle of the
2^-k cell in which it lies, where k leaves at least 128 bits. -/
def sqrtNum (n d : Nat) : Num :=
  let k := 128 + (Nat.log2 d - Nat.log2 n) + Nat.log2 d
  let z := n * 4 ^ k / d
  let r := isqrt z
  if r * r * d = n * 4 ^ k then .fin false r (2 ^ k) else .fin false (2 * r + 1) (2 ^ (k + 1))

/-- The exact square root, as a stand-in for Round (R55, R56). -/
def Num.sqrt (x : Num) : Num :=
  match x with
  | .nan => .nan
  | .inf neg => if neg then .nan else .inf false
  | .fin neg n d => if n = 0 then .fin neg 0 1 else if neg then .nan else sqrtNum n d

/-- The first NaN of the operands, quieted (R55). -/
def Fmt.firstNan (f : Fmt) (xs : List Nat) : Option Nat := (xs.find? f.isNan).map f.quiet

/-- Round of an operation, NaN operands first (R55). -/
def Fmt.op (f : Fmt) (rm : Nat) (xs : List Nat) (r : Num) : Nat := (f.firstNan xs).getD (f.round rm r)

/-- a + b rounded. -/
def Fmt.add (f : Fmt) (rm a b : Nat) : Nat := f.op rm [a, b] (Num.add rm (f.unpack a) (f.unpack b))
/-- a − b rounded. -/
def Fmt.sub (f : Fmt) (rm a b : Nat) : Nat := f.op rm [a, b] (Num.add rm (f.unpack a) (f.unpack b).neg)
/-- a × b rounded. -/
def Fmt.mul (f : Fmt) (rm a b : Nat) : Nat := f.op rm [a, b] (Num.mul (f.unpack a) (f.unpack b))
/-- a / b rounded. -/
def Fmt.div (f : Fmt) (rm a b : Nat) : Nat := f.op rm [a, b] (Num.div (f.unpack a) (f.unpack b))
/-- a × b + c rounded once. -/
def Fmt.fma (f : Fmt) (rm a b c : Nat) : Nat :=
  f.op rm [a, b, c] (Num.add rm (Num.mul (f.unpack a) (f.unpack b)) (f.unpack c))
/-- √a rounded. -/
def Fmt.sqrt (f : Fmt) (rm a : Nat) : Nat := f.op rm [a] (f.unpack a).sqrt

/-- The order of two exact values; `none` when there is none. -/
def Num.cmp (x y : Num) : Option Ordering :=
  match x, y with
  | .nan, _ | _, .nan => none
  | .inf a, .inf b => some (if a = b then .eq else if a then .lt else .gt)
  | .inf a, _ => some (if a then .lt else .gt)
  | _, .inf b => some (if b then .gt else .lt)
  | .fin a n d, .fin b m e => some (compare (sgnMul a n e) (sgnMul b m d))

/-- minimumNumber or maximumNumber (R56). -/
def Fmt.pick (f : Fmt) (wantMax : Bool) (a b : Nat) : Nat :=
  if f.isNan a then (if f.isNan b then f.quiet a else b)
  else if f.isNan b then a
  else match (f.unpack a).cmp (f.unpack b) with
    | some .lt => if wantMax then b else a
    | some .gt => if wantMax then a else b
    | _ => if f.sign a == wantMax then b else a

/-! ### Conversion (R57, R58) -/

/-- A NaN in another format (R57). -/
def cvtNan (f g : Fmt) (x : Nat) : Nat :=
  if !f.hasInf || !g.hasInf then g.signed (f.sign x) g.canon
  else g.quiet (g.signed (f.sign x) (g.infMag +
    (if g.fb ≥ f.fb then f.frac x * 2 ^ (g.fb - f.fb) else f.frac x / 2 ^ (f.fb - g.fb))))

/-- A floating value in another format (R57). -/
def cvtFloat (f g : Fmt) (rm x : Nat) : Nat := if f.isNan x then cvtNan f g x else g.round rm (f.unpack x)

/-- One value from a source type to a destination type, neither bx8 (R57, R58); `s` is SAT, for integers alone. -/
def convert (td ts : BitVec 4) (rm : Nat) (s : Bool) (x : Nat) : Nat :=
  if isIntType ts then
    (if isIntType td then intBits td s (intVal ts x) else (fmtOf td).round rm (Num.ofInt (intVal ts x)))
  else if isIntType td then wrapBits (typeBits td) (roundInt td rm ((fmtOf ts).unpack x))
  else cvtFloat (fmtOf ts) (fmtOf td) rm x

/-- The class bits of a floating value (R87). -/
def Fmt.classOf (f : Fmt) (x : Nat) : Nat :=
  let neg := f.sign x
  let n :=
    if f.isNan x then (if x &&& f.quietBit != 0 then 9 else 8)
    else if f.isInf x then (if neg then 0 else 7)
    else if f.exp x ≠ 0 then (if neg then 1 else 6)
    else if f.frac x ≠ 0 then (if neg then 2 else 5)
    else (if neg then 3 else 4)
  2 ^ n

/-! ### Block exponent formats (R59-R64) -/

/-- The largest magnitude of a w-bit element. -/
def bxMax (w : Nat) : Nat := 2 ^ (w - 2) - 1

/-- An element of a block with exponents E0 and E1 (R59); a block NaN or an element NaN has no value. -/
def decodeBX (w e0 e1 x : Nat) : Num :=
  let s := x.testBit (w - 1)
  let sel := x.testBit (w - 2)
  let m := x % 2 ^ (w - 2)
  if e0 = 0xFF || e1 = 0xFF then .nan
  else if m = 0 then (if s && sel then .nan else .fin false 0 1)
  else dyadic s m (((if sel then e1 else e0 : Nat) : Int) - 127)

/-- |RoundI(x / 2^(e − 127))| for a finite value (R60). -/
def bxQuot (rm : Nat) (neg : Bool) (n d : Nat) (e : Int) : Nat :=
  let k := e - 127
  roundDiv rm neg (n * 2 ^ (-k).toNat) (d * 2 ^ k.toNat)

/-- The smallest exponent at which one nonzero element fits (R60): below floorLog2 + 130 − w it does not, one above that it
always does. -/
def bxFit (w rm : Nat) (neg : Bool) (n d : Nat) : Int :=
  let e := floorLog2 n d + 130 - w
  if bxQuot rm neg n d e ≤ bxMax w then e else e + 1

/-- The shared exponent E1 of a block (R60). -/
def bxE1 (w rm : Nat) (xs : List Num) : Nat :=
  let es := xs.filterMap fun x => match x with
    | .fin neg n d => if n = 0 then none else some (bxFit w rm neg n d)
    | _ => none
  match es with
  | [] => 127
  | e :: r => (max (min (r.foldl max e) 254) ((w : Int) - 2)).toNat

/-- The element loop of R60 for one element. -/
def encodeElem (w rm e0 e1 : Nat) (x : Num) : Nat :=
  match x with
  | .fin neg n d =>
    let pack (sel : Bool) (q : Nat) : Nat :=
      if q = 0 then 0 else (if neg then 2 ^ (w - 1) else 0) + (if sel then 2 ^ (w - 2) else 0) + q
    let q := bxQuot rm neg n d e0
    if q ≤ bxMax w then pack false q else pack true (min (bxQuot rm neg n d e1) (bxMax w))
  | _ => 2 ^ (w - 1) + 2 ^ (w - 2)

/-- EncodeBX (R60): E0, E1 and the elements. -/
def encodeBX (w rm : Nat) (xs : List Num) : Nat × Nat × List Nat :=
  let e1 := bxE1 w rm xs
  let e0 := e1 - (w - 2)
  (e0, e1, xs.map (encodeElem w rm e0 e1))

/-! ### Special functions (R133)

Each value that is not exact is enclosed between two fixed-point numbers with `p` fraction bits; Round of both must agree,
else the precision doubles (DEDUCED, LOG 16). Arguments for which the value hugs a representable one use a stand-in on its right
side. -/

/-- Σ x^(2k+1)/(2k+1) from term k on, in units of 2^-p; `t` = x^(2k+1), `x2` = x². -/
def atanhSum (p x2 : Nat) : Nat → Nat → Nat → Nat
  | 0, _, _ => 0
  | fuel + 1, k, t => t / (2 * k + 1) + atanhSum p x2 fuel (k + 1) (t * x2 / 2 ^ p)

/-- Σ (−1)^k x^(2k+1)/(2k+1) for x = 1/q. -/
def atanSum (q : Nat) : Nat → Nat → Nat → Int
  | 0, _, _ => 0
  | fuel + 1, k, t =>
    (if k % 2 = 0 then ((t / (2 * k + 1) : Nat) : Int) else -((t / (2 * k + 1) : Nat) : Int)) + atanSum q fuel (k + 1) (t / (q * q))

/-- ln 2 in units of 2^-p. -/
def ln2Fix (p : Nat) : Nat := 2 * atanhSum p (2 ^ p / 9) p 0 (2 ^ p / 3)

/-- π/2 in units of 2^-p (Machin). -/
def halfPiFix (p : Nat) : Nat := (8 * atanSum 5 p 0 (2 ^ p / 5) - 2 * atanSum 239 p 0 (2 ^ p / 239)).toNat

/-- e^x = Σ x^k/k! in units of 2^-p. -/
def expSum (p x : Nat) : Nat → Nat → Nat → Nat
  | 0, _, _ => 0
  | fuel + 1, k, t => t + expSum p x fuel (k + 1) (t * x / 2 ^ p / (k + 1))

/-- Σ (−1)^j of terms x^(2j+i)/(2j+i)!: sine from i = 1, cosine from i = 0. -/
def trigSum (p x2 : Nat) : Nat → Nat → Bool → Nat → Int
  | 0, _, _, _ => 0
  | fuel + 1, i, neg, t =>
    (if neg then -(t : Int) else t) + trigSum p x2 fuel (i + 2) (!neg) (t * x2 / 2 ^ p / ((i + 1) * (i + 2)))

/-- The special functions. -/
inductive Special where
  | exp2 | log2 | sin | cos | tanh
deriving DecidableEq, Repr

/-- An approximation of f(±n/d) in units of 2^-p, within 2^(p/2) units. -/
def specialFix (fn : Special) (p : Nat) (neg : Bool) (n d : Nat) : Int :=
  match fn with
  | .exp2 =>
    let k := n / d
    let f := n % d * 2 ^ p / d
    if neg then
      -- 2^-(k + f) = 2^(1 − f) / 2^(k + 1)
      let x := (2 ^ p - f) * ln2Fix p / 2 ^ p
      ((expSum p x p 0 (2 ^ p) / 2 ^ (k + 1) : Nat) : Int)
    else ((expSum p (f * ln2Fix p / 2 ^ p) p 0 (2 ^ p) * 2 ^ k : Nat) : Int)
  | .log2 =>
    let e := floorLog2 n d
    let m := n * 2 ^ (-e).toNat * 2 ^ p / (d * 2 ^ e.toNat)
    let z := (m - 2 ^ p) * 2 ^ p / (m + 2 ^ p)
    e * 2 ^ p + ((2 * atanhSum p (z * z / 2 ^ p) p 0 z * 2 ^ p / ln2Fix p : Nat) : Int)
  | .sin | .cos =>
    let a := n * 2 ^ p / d
    let h := halfPiFix p
    let q := a / h
    let r := a % h
    let r2 := r * r / 2 ^ p
    let sn := trigSum p r2 p 1 false r
    let cs := trigSum p r2 p 0 false (2 ^ p)
    if fn = .cos then (match q % 4 with | 0 => cs | 1 => -sn | 2 => -cs | _ => sn)
    else
      let v := match q % 4 with | 0 => sn | 1 => cs | 2 => -sn | _ => -cs
      if neg then -v else v
  | .tanh =>
    let a := 2 * n * 2 ^ p / d
    let l := ln2Fix p
    let e := expSum p (a % l) p 0 (2 ^ p) * 2 ^ (a / l)
    let v : Int := (((e - 2 ^ p) * 2 ^ p / (e + 2 ^ p) : Nat) : Int)
    if neg then -v else v

/-- Round of a fixed-point number. -/
def Fmt.roundFix (f : Fmt) (rm p : Nat) (v : Int) : Nat := f.roundRat rm (decide (v < 0)) v.natAbs (2 ^ p)

/-- Round of f(±n/d), with more bits until both ends of the enclosure agree. -/
def specialRound (f : Fmt) (rm : Nat) (fn : Special) (neg : Bool) (n d : Nat) : Nat → Nat → Nat
  | 0, p => f.roundFix rm p (specialFix fn p neg n d)
  | fuel + 1, p =>
    let v := specialFix fn p neg n d
    let lo := f.roundFix rm p (v - 2 ^ (p / 2))
    let hi := f.roundFix rm p (v + 2 ^ (p / 2))
    if lo = hi then lo else specialRound f rm fn neg n d fuel (2 * p)

/-- A value just below (`up` false) or above a rational in magnitude, nearer to it than any Round can tell. -/
def nudge (neg : Bool) (n d : Nat) (up : Bool) : Num :=
  .fin neg (if up then n * 2 ^ 160 + n else n * 2 ^ 160 - n) (d * 2 ^ 160)

/-- Round of a special function of a finite nonzero value (R133). -/
def specialFinite (f : Fmt) (rm : Nat) (fn : Special) (neg : Bool) (n d : Nat) : Nat :=
  let go (p : Nat) : Nat := specialRound f rm fn neg n d 5 p
  let e := floorLog2 n d
  match fn with
  | .exp2 =>
    if e ≥ 12 then f.round rm (if neg then .fin false 1 (2 ^ 4096) else .fin false (2 ^ 4096) 1)
    else if n % d = 0 then f.round rm (if neg then .fin false 1 (2 ^ (n / d)) else .fin false (2 ^ (n / d)) 1)
    else if e < -200 then f.round rm (nudge false 1 1 (!neg))
    else go (512 + 2 * n / d)
  | .log2 =>
    if neg then f.canon
    else if n * 2 ^ (-e).toNat = d * 2 ^ e.toNat then f.round rm (Num.ofInt e)
    else go 512
  | .sin => if e < -200 then f.round rm (nudge neg n d false) else go (1024 + 2 * e.toNat)
  | .cos => if e < -200 then f.round rm (nudge false 1 1 false) else go (1024 + 2 * e.toNat)
  | .tanh =>
    if e < -200 then f.round rm (nudge neg n d false)
    else if e ≥ 7 then f.round rm (nudge neg 1 1 false)
    else go 1536

/-- A special function of a floating pattern (R133). -/
def Fmt.special (f : Fmt) (rm : Nat) (fn : Special) (a : Nat) : Nat :=
  match f.unpack a with
  | .nan => f.quiet a
  | .inf neg =>
    match fn with
    | .exp2 => f.round rm (if neg then .fin false 0 1 else .inf false)
    | .log2 => f.round rm (if neg then .nan else .inf false)
    | .sin | .cos => f.canon
    | .tanh => f.round rm (.fin neg 1 1)
  | .fin neg n d =>
    if n = 0 then
      match fn with
      | .exp2 | .cos => f.round rm (.fin false 1 1)
      | .log2 => f.round rm (.inf true)
      | .sin | .tanh => f.signed neg 0
    else specialFinite f rm fn neg n d

/-- 1/a rounded (R133). -/
def Fmt.rcp (f : Fmt) (rm a : Nat) : Nat := f.op rm [a] (Num.div (.fin false 1 1) (f.unpack a))

/-- 1/√a rounded (R133). -/
def Fmt.rsq (f : Fmt) (rm a : Nat) : Nat :=
  f.op rm [a] (match f.unpack a with
    | .nan => .nan
    | .inf neg => if neg then .nan else .fin false 0 1
    | .fin neg n d => if n = 0 then .inf neg else if neg then .nan else sqrtNum d n)

end Sys2Proof.Machine
end

