-- ==== Sys2Proof/WellFormed.lean ====
section
/-! DEFINITION. A well-formed instruction: one whose word passes every check of spec/02_encoding.md R45 but R35's, which
depends on the pack that runs it. -/

namespace Sys2Proof

/-- The instruction has an encoding and no case of R45 (R35 apart) makes its word illegal. -/
abbrev Instr.WellFormed (i : Instr) : Prop := Machine.illegalCase i = none

end Sys2Proof
end

