-- ==== Sys2Proof/Decode.lean ====
section
/-! DEFINITION. Decoding and encoding of instruction words (spec/02_encoding.md R27-R31, R43-R46): total on any bytes,
rejecting by name; the encoder is written from the same layout. -/

namespace Sys2Proof

/-- Why bytes are no instruction. -/
inductive Reject where
  /-- Fewer bytes than the length field names. -/
  | short
  /-- Extension bits 47:45 are nonzero (R45, case 8). -/
  | reserved
  /-- OP is 0x00 or a reserved cell of R43 (R45, case 1). -/
  | opcode
  /-- Another case of R45. -/
  | illegal (c : Machine.Illegal)
deriving DecidableEq, Repr

/-- The little-endian 32-bit value of four bytes (R3). -/
def leHalf (b0 b1 b2 b3 : Byte) : Half := b3 ++ b2 ++ b1 ++ b0

/-- The bytes of a 32-bit word, lowest address first (R3). -/
def halfBytes (w : Half) : List Byte := [w.extractLsb' 0 8, w.extractLsb' 8 8, w.extractLsb' 16 8, w.extractLsb' 24 8]

/-- The major opcode of a first word (R30). -/
def opOf (w : Half) : Nat := (w.extractLsb' 2 8).toNat

/-- The length field of a first word (R27). -/
def lOf (w : Half) : BitVec 2 := w.extractLsb' 0 2

/-- The bytes that a length field names (R27). -/
def lenOf (l : BitVec 2) : Nat := 4 + 8 * (l.toNat % 2) + 8 * (l.toNat / 2)

/-- The extension's fields (R31); `none` when a reserved bit is set. -/
def decodeExt (x : Word) : Option Ext :=
  if x.extractLsb' 45 3 == 0 then
    some { imm16 := x.extractLsb' 48 16, pe := x.getLsbD 44, pn := x.getLsbD 43, pg := x.extractLsb' 40 3,
           hld := x.getLsbD 39, sat := x.getLsbD 38, inv := x.getLsbD 37, ord := x.extractLsb' 35 2, sc := x.extractLsb' 32 3,
           ty2 := x.extractLsb' 28 4, rm := x.extractLsb' 25 3, ec := x.getLsbD 24, eb := x.getLsbD 23, ea := x.getLsbD 22,
           wc := x.extractLsb' 20 2, wb := x.extractLsb' 18 2, wa := x.extractLsb' 16 2, wd := x.extractLsb' 14 2,
           ch := x.extractLsb' 12 2, c := x.extractLsb' 6 6, bh := x.extractLsb' 4 2, ah := x.extractLsb' 2 2,
           dh := x.extractLsb' 0 2 }
  else none

/-- The extension word (R31). -/
def encodeExt (e : Ext) : Word :=
  e.imm16 ++ 0#3 ++ BitVec.ofBool e.pe ++ BitVec.ofBool e.pn ++ e.pg ++ BitVec.ofBool e.hld ++ BitVec.ofBool e.sat ++
    BitVec.ofBool e.inv ++ e.ord ++ e.sc ++ e.ty2 ++ e.rm ++ BitVec.ofBool e.ec ++ BitVec.ofBool e.eb ++ BitVec.ofBool e.ea ++
    e.wc ++ e.wb ++ e.wa ++ e.wd ++ e.ch ++ e.c ++ e.bh ++ e.ah ++ e.dh

/-- The first word (R30). -/
def encodeFirst (op : Nat) (o : Opnd) : Half := o.f ++ o.b ++ o.a ++ o.d ++ BitVec.ofNat 8 op ++ o.l

/-- The instruction of a first word with the extension and literal its length names (R27, R43). -/
def decodeWords (w0 : Half) (x lit : Word) : Except Reject Instr :=
  let l := lOf w0
  match (if l.getLsbD 0 then (decodeExt x).map some else some none) with
  | none => .error .reserved
  | some ext =>
    let o : Opnd := { f := w0.extractLsb' 28 4, b := w0.extractLsb' 22 6, a := w0.extractLsb' 16 6, d := w0.extractLsb' 10 6,
                      ext, lit := if l.getLsbD 1 then some lit else none }
    match Machine.ofOpcode (opOf w0) o with
    | none => .error .opcode
    | some i =>
      match Machine.illegalCase i with
      | some c => .error (.illegal c)
      | none => .ok i

/-- The 32-bit words of a list of bytes; a tail of fewer than four bytes is dropped. -/
def halvesOf : List Byte → List Half
  | b0 :: b1 :: b2 :: b3 :: rest => leHalf b0 b1 b2 b3 :: halvesOf rest
  | _ => []

/-- The instruction of a list of words: the first word, then the extension and the literal, each low half first. -/
def decodeHalves : List Half → Except Reject Instr
  | [] => .error .short
  | w0 :: rest =>
    match lOf w0, rest with
    | 0#2, _ => decodeWords w0 0 0
    | 1#2, x0 :: x1 :: _ => decodeWords w0 (x1 ++ x0) 0
    | 2#2, y0 :: y1 :: _ => decodeWords w0 0 (y1 ++ y0)
    | 3#2, x0 :: x1 :: y0 :: y1 :: _ => decodeWords w0 (x1 ++ x0) (y1 ++ y0)
    | _, _ => .error .short

/-- The instruction that starts a list of bytes. -/
def decode (bs : List Byte) : Except Reject Instr := decodeHalves (halvesOf bs)

/-- A 64-bit part as two words, low half first (R3, R27). -/
def wordHalves (x : Word) : List Half := [x.extractLsb' 0 32, x.extractLsb' 32 32]

/-- The words of an instruction; none for an event. -/
def encode (i : Instr) : List Half :=
  match Machine.wordOf i with
  | none => []
  | some (op, o) =>
    encodeFirst op o :: ((match o.ext with | none => [] | some e => wordHalves (encodeExt e)) ++
      (match o.lit with | none => [] | some y => wordHalves y))

/-- The bytes of an instruction as memory holds them. -/
def encodeBytes (i : Instr) : List Byte := (encode i).flatMap halfBytes

/-- The first word of an instruction, for TVAL (R46); 0 for an event. -/
def firstWord (i : Instr) : Half :=
  match encode i with
  | [] => 0
  | w :: _ => w

/-- The first `n` bytes of a number, lowest first. -/
def bytesOfNat (w : Nat) : Nat → List Byte
  | 0 => []
  | n + 1 => BitVec.ofNat 8 w :: bytesOfNat (w / 256) n

/-- The bytes of a table word, with every bit above `nbits` zero, up to the longest instruction, 20 bytes. -/
def tableBytes (nbits w : Nat) : List Byte := bytesOfNat (w % 2 ^ nbits) 20

/-- The instruction that the decoder reads from a table word. -/
def decodeTableWord (nbits w : Nat) : Option Instr :=
  match decode (tableBytes nbits w) with
  | .ok i => some i
  | .error _ => none

end Sys2Proof
end

