-- ==== Sys2Proof/Machine/State.lean ====
section
/-! DEFINITION. The state of a GS-C2M as plain data, all of it, the state after power-on, and the reasons to stop.
Numbers that the spec never shows as bits (slots, counts, identities of packs and operations) are naturals. -/

namespace Sys2Proof.Machine

/-- A finite map as a list; the first entry of a key counts. -/
abbrev Table (α β : Type) : Type := List (α × β)

/-! ### Items, lanes and packs -/

/-- The class of a flow and of its items (spec/05_packs_and_flows.md R91, R97). -/
inductive FlowClass where
  | u | o | a
deriving DecidableEq, Repr

/-- The class of an engine operation (spec/10_engines.md R224). -/
inductive Eng where
  | cp | gt | mx | cl | sc
deriving DecidableEq, Repr

/-- A lane's item (R91), with an identity of its own once it has been placed. Arrival numbers are kept unbounded; the 32 bits that
software sees are their low bits (R99). `done` says that the item's slot has completed (R103). -/
structure Item where
  id : Nat := 0
  wid : Word := 0
  label : BitVec 32 := 0
  cls : FlowClass := .u
  arr : Nat := 0
  done : Bool := false
  launch : Nat := 0
deriving DecidableEq, Repr

/-- What a load that consumed leaves with its destination (spec/13_faults_and_preemption.md R321): an uncorrectable error
or poison, and the load's address. -/
structure Consumed where
  ue : Bool
  addr : Word
deriving DecidableEq, Repr

/-- A vector register of one lane: its bits, its full/empty bit (R125), whether a producer's value is still due, and, of one that is due, whether a
Scent engine brings it (R264), its poisoned bit (R321), and whether its primary or mirror copy fails its check (R319, R330). -/
structure VReg where
  val : Half := 0
  full : Bool := true
  due : Bool := false
  sc : Bool := false
  bad : Option Consumed := none
  ue : Bool := false
  mue : Bool := false
deriving DecidableEq, Repr

/-- A lane: its vector registers (a register not listed holds 0 and is full), its predicates p0-p7 and its item (R93). -/
structure Lane where
  v : List VReg := []
  p : Byte := 0
  item : Item := {}
deriving DecidableEq, Repr

/-- The kinds of a reconvergence stack entry (R110). -/
inductive EntryKind where
  | pending | join | exit
deriving DecidableEq, Repr

/-- A reconvergence stack entry (R110); a pending entry that the exchange of R120 left at a BARW keeps the object and the
parity it waits for. -/
structure Entry where
  kind : EntryKind
  pc : Word
  mask : Lanes
  ra : Word
  bar : Option (Nat × Bool) := none
deriving DecidableEq, Repr

/-- A guard that a pack holds: its virtual address, the location recorded at the grant, and the mode (R199, R201). -/
structure HeldGuard where
  addr : Word
  loc : Nat
  excl : Bool
deriving DecidableEq, Repr

/-- A value on its way into registers of one lane (R125), from the low register up: the load or engine operation that brings
it (whose values arrive together, LOG 20), what it consumed (R321), and whether its load issued inside a region. -/
structure Fill where
  op : Nat
  lane : Nat
  reg : Nat
  vals : List Half
  bad : Option Consumed := none
  region : Bool := false
deriving DecidableEq, Repr

/-- A translation: one page of any size of one context (spec/08_memory_model.md R185-R188). -/
structure TlbEntry where
  ctx : Nat
  page : Nat
  size : Nat
  frame : Nat
  rd : Bool
  wr : Bool
  exe : Bool
  ha : Bool
deriving DecidableEq, Repr

/-- What a pack waits for (R122). -/
inductive Wait where
  /-- Registers (lane, number) that must be full (R36). -/
  | full (regs : List (Nat × Nat))
  /-- Registers to which no value may be due (R125). -/
  | settled (regs : List (Nat × Nat))
  /-- Every value due from a long-latency producer (R323). -/
  | producers
  /-- A counter at most `n` (R224, R225, R244). -/
  | count (c : Eng) (n : Nat)
  /-- The pack's Scent queries retired (R267). -/
  | queries
  /-- The pack's operations on one sequence performed (R267). -/
  | sequence (id : Nat)
  /-- A barrier object's PHASE (R119, R120). -/
  | barrier (addr : Nat) (parity : Bool)
  /-- Granules full (R210). -/
  | granules (gs : List Nat)
  /-- A guard's grant (R199). -/
  | guard (loc : Nat)
  /-- Registers for GROW to the count (R219). -/
  | grow (count : Nat)
  /-- Room in the Heel and its area (R106). -/
  | heel
  /-- The turn, for HLD.wait (R223). -/
  | turn
  /-- Its held stores performed, for TLBINV (R308). -/
  | stores
  /-- The Leash at a site (R298). -/
  | leash (site : Nat)
  /-- Translations being walked (R189, R190). -/
  | walk (pages : List Nat)
  /-- Room for `n` records in a bank, or for one gang block, and in a context's overflow segment of it (R278, R284). -/
  | bank (cluster bank ctx n : Nat) (gang : Bool)
  /-- Room for `n` more items in a flow, and its TURN to leave where it stood, if it was the flow that had no room (R99). -/
  | flowRoom (label : BitVec 32) (n : Nat) (turn : Option Nat)
  /-- A graph's running instances (R295). -/
  | graph (loc : Nat)
  /-- Room in a die's staging area (R339). -/
  | staging (die : Nat)
  /-- The latch of a trigger on a die (R337). -/
  | latch (seq die : Nat)
  /-- Packs (slot, identity) that were ready when a YIELD issued (R154). -/
  | yielded (others : List (Nat × Nat))
  /-- Packs (slot, identity) that were ready when some lanes of an atomic, or some groups of an ISSV, had been performed, whose accesses come
  before those of the others (R160, R212; LOG 2). -/
  | between (others : List (Nat × Nat))
  /-- A repacking window (R116). -/
  | repack
deriving DecidableEq, Repr

/-- A pack that waits: for what, at which instruction. -/
structure Blocked where
  why : Wait
  instr : Instr
deriving DecidableEq, Repr

/-- How far the instruction at PC has come: what it waits for, the translations walked for it by page (`none`: no
translation), the lanes not yet finished of an ISSV or of a VATOM or XCHL held by the Leash (R164, R298), the outer group
whose nested ISSV is in progress (R161), the lanes to replay (R306), how many lanes a VATOM or XCHL, or groups an ISSV, performs before other parties'
accesses (R160, R212; set by a turn of the agenda, LOG 2), and whether the pack has just exchanged at a BARW, which is no issue (R120); the
instruction itself where some of it has been done, which is not fetched again; the lanes whose nested words have been read (R168); and whether,
of two BARWs at which the pack is blocked, the phase of the one at PC came first (R120). -/
structure Progress where
  wait : Option Blocked := none
  walked : List (Nat × Option TlbEntry) := []
  left : Option Lanes := none
  inner : Option Lanes := none
  replay : Option Lanes := none
  first : Option Nat := none
  exchanged : Bool := false
  begun : Option Instr := none
  read : Lanes := 0
  ownFirst : Bool := false
deriving DecidableEq, Repr

/-- Where a pack stands. -/
inductive Status where
  /-- Ready or blocked. -/
  | running
  /-- Parked on the fault record `seq` (R304); its answer, when the pager has given one; `fetch` when a fetch faulted. -/
  | parked (seq : Nat) (answer : Option Bool) (fetch : Bool) (va : Word)
  /-- Stopped under R23 with its cause and value, and what FLTADDR and the lane image take if its trap is delivered anew (R301, R315). -/
  | stopped (cause : Nat) (val : Word) (flt : Option Word) (img : Option Lanes)
  /-- Its last lane has ended; it holds its slot until its counters fall (R155). -/
  | ended
deriving DecidableEq, Repr

/-- A pack between a pre-emption or restore entry and its return (R310, R315). -/
structure Preempted where
  frame : Word
  restore : Bool
  seq : Nat
deriving DecidableEq, Repr

/-- The system registers held per pack (spec/01_sequential_machine.md R16). -/
structure PackSys where
  tpc : Word := 0
  tcause : Word := 0
  tval : Word := 0
  tstat : Word := 0
  tsave : Word := 0
  cki : Word := 0
  rgnpc : Word := 0
  rgnretry : Word := 0
  mcstat : Word := 0
  mcpc : Word := 0
  mcword : Word := 0
  mclane : Word := 0
  asyncerr : Word := 0
  trlpos : Word := 0
  shash : Word := 0
  fltaddr : Word := 0
  fltmaskp : Word := 0
deriving DecidableEq, Repr

/-- One number for each engine class (R224). -/
structure Counts where
  cp : Nat := 0
  gt : Nat := 0
  mx : Nat := 0
  cl : Nat := 0
  sc : Nat := 0
deriving DecidableEq, Repr

/-- The identity of a pack: context, kernel (entry, argument pointer; width and allotment at start), launch, logical pack
id (R279), age (R219), the launch's modes (R277), the role pack of a gang, and for the walker the page it serves (R190). -/
structure PackId where
  ctx : Nat := 0
  entry : Word := 0
  argp : Word := 0
  regs0 : Nat := 8
  launch : Nat := 0
  lpid : BitVec 16 := 0
  uid : Nat := 0
  age : Nat := 0
  mirr : Bool := false
  records : Bool := false
  det : Bool := false
  c1 : Bool := false
  gang : Bool := false
  walker : Option Nat := none
deriving DecidableEq, Repr

/-- A pack (R9, R93). `lag` holds the parts of retired stores that the store hash has not yet folded while it lags (R299, R372; LOG 2);
`owed` counts the issue cycles that an instruction which has taken effect has still to take (R95, R289; LOG 2). -/
structure Pack where
  id : PackId := {}
  width : Nat := 32
  allot : Nat := 8
  pc : Word := 0
  priv : BitVec 2 := 0
  g : List Word := []
  sys : PackSys := {}
  lanes : List Lane := []
  occ : Lanes := 0
  mask : Lanes := 0
  stack : List Entry := []
  sml : BitVec 7 := 0
  smp : BitVec 48 := 0
  sdn : BitVec 5 := 0
  cnt : Counts := {}
  issued : Counts := {}
  queries : Nat := 0
  openOps : Nat := 0
  held : List HeldGuard := []
  fills : List Fill := []
  rgnMask : Lanes := 0
  rgnDepth : Nat := 0
  status : Status := .running
  pre : Option Preempted := none
  preReq : Option Nat := none
  restart : Option Nat := none
  pendingTrap : Option (Nat × Word) := none
  prog : Progress := {}
  lastIssue : Nat := 0
  passed : Nat := 0
  lag : Option (List (Word × Word)) := none
  owed : Nat := 0
deriving DecidableEq, Repr

/-! ### Engine operations -/

/-- What every engine operation carries: the issuing pack, its issue number within its class (R226), the fault record it is
held on (R228), the pages the walker has served for it, its code once it has completed (0 for none, R227), the source bytes that it has
already read (R203), whether an error of its engine, its latch or its staging buffer ends it with code 6 (R227, R317), the destination
offsets that it has already written, with whether each byte was written as poison (R191, R203; LOG 19), and the keys of HBM bytes that it has
already written with good data (R319). -/
structure OpHead where
  core : Nat
  slot : Nat
  uid : Nat
  ctx : Nat
  seq : Nat
  heldOn : Option Nat := none
  served : List Nat := []
  asked : List Nat := []
  result : Option Nat := none
  early : List (Nat × Byte) := []
  hurt : Bool := false
  wrote : List (Nat × Bool) := []
  cover : List Nat := []
deriving DecidableEq, Repr

/-- A copy (R230-R233): form, offsets and parameters, the two handle records, and CPYM's core mask. -/
structure CopyOp where
  head : OpHead
  form : Nat
  s : Word
  d : Word
  p1 : Word
  p2 : Word
  p3 : Word
  src : BitVec 512
  dst : BitVec 512
  cores : Option (BitVec 24)
deriving DecidableEq, Repr

/-- A gather (R234): row size code, source offset, lane and index of each participating lane, the records. -/
structure GatherOp where
  head : OpHead
  k : Nat
  s : Word
  idx : List (Nat × Nat)
  src : BitVec 512
  dst : BitVec 512
deriving DecidableEq, Repr

/-- The matrix operations (R238). -/
inductive MxKind where
  | mma (t : Bool)
  | mmas (t : Bool)
  | mld (raw : Bool)
  | mst (raw : Bool) (rm : BitVec 3)
  | mzero (whole : Bool)
  | manc
deriving DecidableEq, Repr

/-- A matrix operation as issued (R238-R247): tile, participating rows with their indices, the sparse index words, anchors,
k0, sync word, the records of its handles and of their scale arrays, and its stream. `ready` once .after has been observed;
`fault` holds code 7 found at the wait. -/
structure MxOp where
  head : OpHead
  kind : MxKind
  tile : Nat
  rows : List (Nat × Nat)
  ix : List (Nat × BitVec 128)
  anchors : List (Nat × BitVec 16)
  k0 : Word
  sync : Word
  after : Bool
  arrive : Bool
  ha : BitVec 512
  hb : BitVec 512
  sa : BitVec 512
  sb : BitVec 512
  stream : Nat
  c1 : Bool
  ready : Bool
  misuse : Bool := false
deriving DecidableEq, Repr

/-- A collective (R249-R252): as issued, with its group's TAG, once the engine has read it, and its number among the device's
collectives with that TAG, 0 while it has none (R252); `gone` once it has retired, or its context has been destroyed, and it stands only to be
numbered in its turn. -/
structure CollOp where
  head : OpHead
  kind : Nat
  op : Nat
  ty : BitVec 4
  rm : BitVec 3
  count : Word
  src : BitVec 512
  dst : BitVec 512
  grp : BitVec 512
  tag : Option Nat := none
  nth : Nat := 0
  gone : Bool := false
deriving DecidableEq, Repr

/-- The Scent operations (R259-R274). -/
inductive ScKind where
  | new (pfx : Bool) | free | qry | app | save | load | att | det | cap
deriving DecidableEq, Repr

/-- A Scent operation as issued: its kind, g[A], operand B, the handle record, the vector destination, D or the tokens, the
pack's width (R265); once it has been performed, what it leaves in SML, SMP and SDN when it retires (R264); `dead` once a SHRINK has
taken its vector destination (R219), or a region restart has discarded what was due there (R325). -/
structure ScOp where
  head : OpHead
  kind : ScKind
  a : Word
  b : Word
  hrec : BitVec 512
  vd : Nat
  d : Nat
  toks : List Half
  width : Nat
  found : Nat × Nat × Nat := (0, 0, 0)
  dead : Bool := false
deriving DecidableEq, Repr

/-! ### Cores -/

/-- The class tag of an accumulator element (spec/03_numbers.md R65). -/
inductive Tag where
  | finite | posInf | negInf | nan
deriving DecidableEq, Repr

/-- A row of a tile: elements (80-bit two's complement) and tags not listed are 0 and finite; the anchor (R65). -/
structure TileRow where
  q : List (BitVec 80) := []
  tags : List Tag := []
  anchor : BitVec 16 := 0
deriving DecidableEq, Repr

/-- An accumulator tile, the context it is granted to (R235, R236), and its elements (row, column) that fail their check; column 128
is a row's anchor (R319). -/
structure Tile where
  owner : Option Nat := none
  rows : List TileRow := []
  ovf : Bool := false
  ue : List (Nat × Nat) := []
deriving DecidableEq, Repr

/-- A window of a core's scratchpad (R171): base and size in bytes. -/
structure Window where
  base : Nat
  size : Nat
deriving DecidableEq, Repr

/-- A held store in the Heel (R104-R107): the pack and the item that made it, its place in the order of all held stores, where it
goes, its bytes; `full` for STS.full; whether it has been spilled; the region in which it was made. -/
structure HeelEntry where
  ctx : Nat
  uid : Nat
  item : Nat
  stamp : Nat
  label : BitVec 32
  arr : Nat
  launch : Nat
  scratch : Bool
  addr : Word
  bytes : List Byte
  full : Bool
  spilled : Bool
  region : Word
deriving DecidableEq, Repr

/-- A miss that waits for the walker routine (R190): of a pack, or of an engine operation of it, with that identity; of a Heel with the identity
0; or of the read of a launch's argument block (R10). -/
structure Miss where
  ctx : Nat
  page : Nat
  kind : BitVec 3
  slot : Nat
  uid : Nat
  packid : Word
  launch : Option Nat := none
deriving DecidableEq, Repr

/-- A repacking window (R116): address, first pack, the participants' slots with the branch each waits at. -/
structure Repack where
  pc : Word
  first : Nat
  members : List (Nat × Instr)
deriving DecidableEq, Repr

/-- A frame that waits for a free slot (R315). -/
structure Waiting where
  ctx : Nat
  frame : Word
deriving DecidableEq, Repr

/-- Copies of the 8 bytes from a key on that a core's caches keep for the .inv loads of a launch that read an element there, and which of them the
loads are given; `none`: what memory holds (R202, LOG 2). -/
structure InvLine where
  launch : Nat
  key : Nat
  copies : List (List Byte)
  use : Option Nat := none
deriving DecidableEq, Repr

/-- Copies of the code word at a key that a core keeps for the packs of a launch, and which of them they fetch; `none`: what memory
holds (R29, LOG 2). -/
structure CodeLine where
  launch : Nat
  key : Nat
  copies : List Half
  use : Option Nat := none
deriving DecidableEq, Repr

/-- Which pack of a deterministic launch holds a core: a pack, or the next one after a logical pack id (R291). -/
inductive DetTurn where
  | holds (uid : Nat)
  | passed (lpid : Nat)
deriving DecidableEq, Repr

/-- A core. `lastPack` is the pack that has issued last (R289); `left` is the CYCLE by which the last effects that others may have seen have left
the core (R327, LOG 13). Heel releases of a context are stopped while it stands in `heelStop` with its
fault record, or with `none` for good (R305); `heelServed` holds the pages, by context, that the walker has served for a release (R190). -/
structure Core where
  cycle : Nat := 0
  issueCycles : Nat := 0
  lastPack : Option Nat := none
  left : Nat := 0
  run : Nat := 0
  engaged : Nat := 0
  mxLast : Nat := 0
  vecLast : Nat := 0
  cpLast : Nat := 0
  gtLast : Nat := 0
  clLast : Nat := 0
  scLast : List Nat := []
  detCur : Table Nat DetTurn := []
  tlb : List TlbEntry := []
  wins : Table Nat Window := []
  tiles : List Tile := []
  mxq : List MxOp := []
  heel : List HeelEntry := []
  heelStop : Table Nat (Option Nat) := []
  misses : List Miss := []
  repacks : List Repack := []
  waiting : List Waiting := []
  saved : List Pack := []
  growing : List (Nat × Nat) := []
  heelServed : List (Nat × Nat) := []
  inv : List InvLine := []
  code : List CodeLine := []
deriving DecidableEq, Repr

/-! ### Launches and queues -/

/-- A task record (spec/12_scheduling.md R277). -/
structure TaskRec where
  base : Word := 0
  count : Nat := 0
  entry : Word := 0
  argp : Word := 0
  label : BitVec 32 := 0
  cls : FlowClass := .u
  prio : Nat := 0
  ctx : Nat := 0
  widths : List Nat := []
  width : Nat := 32
  regs : Nat := 8
  det : Bool := false
  records : Bool := false
  mirr : Bool := false
  c1 : Bool := false
  clmask : BitVec 24 := 0
  done : Word := 0
deriving DecidableEq, Repr

/-- A role of a gang (R278). -/
structure Role where
  packs : Nat
  regs : Nat
  width : Nat
  entry : Word
deriving DecidableEq, Repr

/-- The graph node that a launch runs for (R294, R295). -/
structure NodeRef where
  die : Nat
  inst : Nat
  node : Nat
deriving DecidableEq, Repr

/-- A launch until it completes (R280): its record and roles, the arrival number of its first item (`none` while its enqueue
is held back, R99), items not yet complete, items not yet placed, its first error, its argument block once read
(R10), the next logical pack id; `started` once its first pack has started; the pages that the walker has served for the read of its argument
block (R190); the flows that had no room for its items, with their TURN then, where its enqueue is held back (R99). -/
structure Launch where
  task : TaskRec := {}
  roles : List Role := []
  arr : Option Nat := none
  left : Nat := 0
  unplaced : Nat := 0
  err : Option (Nat × Nat) := none
  args : Option (List Word) := none
  failed : Bool := false
  lpid : Nat := 0
  node : Option NodeRef := none
  started : Bool := false
  served : List Nat := []
  heldAt : List (BitVec 32 × Nat) := []
deriving DecidableEq, Repr

/-- The items that a queued record stands for: a run of identifiers from a place in its launch on, explicit items (ENQ), a
resumed lane (R109), or a gang's items. -/
inductive ItemSrc where
  | run (wid : Word) (off n : Nat)
  | items (l : List Item)
  | resume (id : Nat)
  | gang
deriving DecidableEq, Repr

/-- A record of a queue bank with its acceptance number (R283, R285); `before` counts the packs that the earlier sub-records of a
deterministic launch make (R286, R291). -/
structure QRec where
  acc : Nat
  launch : Nat
  ctx : Nat
  prio : Nat
  src : ItemSrc
  before : Nat := 0
deriving DecidableEq, Repr

/-- A queue bank (R283-R285): records on chip, records spilled, counters, the first half of a gang block. -/
structure Bank where
  recs : List QRec := []
  spilled : List QRec := []
  nextAcc : Nat := 0
  errors : Nat := 0
  gangFirst : Option (BitVec 512) := none
deriving DecidableEq, Repr

/-- A record that the Kennel has taken and whose items are not all placed (R282); `packs` counts the packs of a deterministic launch that have
started with its items (R279). -/
structure Taken where
  q : QRec
  bank : Nat
  placed : Nat
  packs : Nat := 0
deriving DecidableEq, Repr

/-- A relabelled lane that waits to resume (R109): its lane, the g registers, where and in what kernel it resumes. -/
structure Resume where
  lane : Lane
  g : List Word
  id : PackId
  width : Nat
  allot : Nat
  pc : Word
deriving DecidableEq, Repr

/-- A table walk (R189). -/
structure Walk where
  core : Nat
  slot : Nat
  uid : Nat
  ctx : Nat
  page : Nat
  batch : Nat
deriving DecidableEq, Repr

/-- A cluster; `memo` holds, by batch, the table entries (address, value) that the walks of a batch have read (R189). -/
structure Cluster where
  banks : List Bank := []
  lastBank : Nat := 0
  taken : List Taken := []
  tlb : List TlbEntry := []
  walks : List Walk := []
  queued : List Walk := []
  batches : Nat := 0
  memo : List (Nat × Nat × Nat) := []
  cpq : List CopyOp := []
  gtq : List GatherOp := []
deriving DecidableEq, Repr

/-! ### Dies -/

/-- A Scent sequence (spec/11_scent.md R253). `tokens` holds T[WSTART .. n-1]; `base` and `extent` are the history buffer's. -/
structure ScSeq where
  ctx : Nat
  pfx : Bool
  n : Nat := 0
  cap : Nat
  wstart : Nat := 0
  base : Word
  extent : Nat
  link : Option Nat := none
  plen : Nat := 0
  ref : Nat := 0
  sealed : Bool := false
  doomed : Bool := false
  cancel : Bool := false
  tokens : List Half := []
  stamp : Nat := 0
deriving DecidableEq, Repr

/-- A running instance of a graph (R295); `pending` holds the nodes that are due to be submitted and wait for room in bank 2. -/
structure GraphInst where
  id : Nat
  ctx : Nat
  loc : Nat
  desc : Word
  gen : Nat
  table : Word
  argp : Word
  running : List Nat
  arrived : List Nat
  err : Option (Nat × Nat)
  doneAt : Word
  pending : List Nat := []
deriving DecidableEq, Repr

/-- An entry of a die's error log (R320, R328, R330, R334, R345): a scrub's finding, a corrected register or unit, an error that
nothing consumed, and what befell the device. -/
inductive LogEntry where
  | scrub (u : MemUnit)
  | corrected (core slot lane reg : Nat)
  | correctedUnit (u : MemUnit)
  | unread (u : MemUnit)
  | unreadReg (core slot lane reg : Nat)
  | unreadTile (core n row col : Nat)
  | rollback (core : Nat)
  | planeLost (plane : Nat)
  | portLost (port : Nat)
  | selfTest
  | imageRejected
  | thermalTrip
deriving DecidableEq, Repr

/-- A die. `hbmRd` and `hbmWr` are the bytes read from and written to its stacks since its reset (R336), as they were counted when `counted`
acts had been done (LOG 15). -/
structure Die where
  dcycle : Nat := 0
  errors : List LogEntry := []
  rollbacks : Nat := 0
  hbmRd : Nat := 0
  hbmWr : Nat := 0
  counted : Nat := 0
  seqs : Table Nat ScSeq := []
  gens : Table Nat Nat := []
  scq : List ScOp := []
  stamps : Nat := 0
  graphs : List GraphInst := []
deriving DecidableEq, Repr

/-! ### Contexts -/

/-- A flow table entry (R97, R98): the incomplete arrival numbers as runs (start, length) in ascending order, from which TURN
and LIVE are read; NEXTARR; the token and its holder; the launches that pin the flow (R150). -/
structure Flow where
  cls : FlowClass
  nextArr : Nat := 0
  incomplete : List (Nat × Nat) := []
  token : Bool := false
  holder : Nat := 0
  pins : List Nat := []
deriving DecidableEq, Repr

/-- A binding: the addresses of a region (base, start, length, swizzle fields of the record, space) and its guard (R198,
R216). -/
structure Binding where
  base : Nat
  start : Nat
  len : Nat
  swb : Nat
  swl : Nat
  sws : Nat
  space : Bool
  guard : Word
deriving DecidableEq, Repr

/-- Whom a fault record concerns (R305). -/
inductive FaultSource where
  | pack (core slot uid : Nat)
  | engine (code core slot uid : Nat)
  | heel (core cause : Nat) (va : Word)
deriving DecidableEq, Repr

/-- A fault record that has been raised: its source and the pager's answer, kept (R304, R305). -/
structure FaultInfo where
  src : FaultSource
  answer : Option Bool := none
deriving DecidableEq, Repr

/-- Where a context's pre-emption stands (R309, R313). -/
inductive PreState where
  | none
  | requested (seq : Nat)
  | complete (seq : Nat)
deriving DecidableEq, Repr

/-- A designated site as a recorded launch read its descriptor (R297), with its USED and RUNLEFT since (R298, R368). -/
structure Site where
  addr : Nat
  area : Nat
  cap : Nat
  used : Nat
  left : Nat
deriving DecidableEq, Repr

/-- What a recorded launch read at its start (R297): MODE, and the sites by number, a descriptor with a reserved bit set aside (R7). -/
structure Trail where
  mode : Nat := 0
  sites : Table Nat Site := []
deriving DecidableEq, Repr

/-- A context (spec/14_dies_and_devices.md R342) with the system registers held per context (R16). `siteStop` lists the sites
whose logging has stopped (R298). -/
structure Ctx where
  tenant : BitVec 4 := 0
  snapok : Bool := false
  deliver : Bool := false
  programmable : Bool := false
  root : Nat := 0
  walk : Word := 0
  htab : Word := 0
  spill : Word := 0
  spillSz : Nat := 0
  fqBase : Nat := 0
  fqSize : Nat := 0
  ovrBase : Word := 0
  ovrSize : Nat := 0
  flowCap : Nat := 0
  tvec : Word := 0
  quiet : Word := 0
  heelsp : Word := 0
  trlctl : Word := 0
  trlbase : Word := 0
  flows : Table (BitVec 32) Flow := []
  bindings : List Binding := []
  fqSeq : Nat := 0
  fqPosted : Nat := 0
  fqFreed : Nat := 0
  fqWaiting : List (BitVec 256) := []
  faults : Table Nat FaultInfo := []
  pre : PreState := .none
  spillNext : Nat := 0
  siteStop : List Nat := []
  trail : Trail := {}
  imageWins : Table Nat Window := []
deriving DecidableEq, Repr

/-- A pack frame (R312): the pack as it stood, the frame's marks, TL among them, and what the pack had issued of each class before the entry. -/
structure Frame where
  ctx : Nat
  pack : Pack
  image : Lanes
  selfSaved : Bool
  stopped : Bool
  parked : Bool
  issv : Bool
  seq : Nat
  tl : BitVec 2 := 0
  before : Counts := {}
deriving DecidableEq, Repr

/-- An ACQ request at a guard's home, in arrival order (R199). -/
structure GuardReq where
  core : Nat
  slot : Nat
  uid : Nat
  excl : Bool
  addr : Word
deriving DecidableEq, Repr

/-! ### The device -/

/-- A Whistle trigger that is latching (R335, R336). -/
structure Trigger where
  seq : Nat
  tag : BitVec 32
  mem : BitVec 2
  source : BitVec 2
  issuer : Word
  latched : List Nat
deriving DecidableEq, Repr

/-- A memory snapshot in progress (R338, R339): its trigger, the dies cut, the staged copies by block and die, the blocks streamed
out of turn, the next block of the sweep, and whether a port failed. -/
structure Snapshot where
  seq : Nat
  cut : List Nat
  staged : Table (Nat × Nat) (List Host.Cell)
  streamed : List Nat
  next : Nat
  failed : Bool
deriving DecidableEq, Repr

/-- A tenant's budgets (R288). -/
structure Budget where
  cores : Nat
  share : Nat
  watts : Nat
deriving DecidableEq, Repr

/-- What the device answered over the DOE mailbox (R344). -/
inductive Answer where
  | version (major minor : Nat)
  | capabilities (keyExchange : Bool)
  | algorithms (sign hash : String)
  | digests (d : BitVec 256)
  | certificate (bytes : List Byte)
  | challenge (sig : BitVec 3072)
  | measurements (rom firmware fuses : BitVec 256)
deriving DecidableEq, Repr

/-- The bring-up states (R343). -/
inductive Service where
  | boot | reduced | full | failed
deriving DecidableEq, Repr

/-- What the device holds beside its cores, clusters, dies and contexts: among it the ports trained as CXL (R340), the planes that the
device and that single peers have lost and each port's retries in a row (R334), the flits sent on its Zarrak ports (R336), how many
collectives it has issued with each TAG (R252), and the safe tier's addresses of the last complete snapshot (R339, R341). -/
structure Device where
  service : Service := .boot
  domain : Nat := 0
  index : Nat := 0
  mhz : Nat := 470
  tripped : Bool := false
  ports : List Nat := []
  cxl : List Nat := []
  lostPlanes : List Nat := []
  peerPlanes : List (Nat × Nat) := []
  retries : Table Nat Nat := []
  zflits : Nat := 0
  tags : Table Nat Nat := []
  discarded : Nat := 0
  ctimeout : Nat := 2 ^ 34
  budgets : Table Nat Budget := []
  tier0 : Nat := 0
  tier1 : Nat := 0
  logBase : Nat := 0
  logSize : Nat := 0
  logPosted : Nat := 0
  logFreed : Nat := 0
  snapDone : Nat := 0
  triggers : List Trigger := []
  seq : Nat := 0
  snapshot : Option Snapshot := none
  tierWhole : Option (Nat × Nat) := none
  firmware : BitVec 256 := 0
  answers : List Answer := []
deriving DecidableEq, Repr

/-- A residue mismatch that the next instruction of a pack will meet (R317, R318). -/
structure Mismatch where
  core : Nat
  slot : Nat
  lane : Option Nat
  kind : BitVec 4
deriving DecidableEq, Repr

/-- Physical damage that the outside world does (R317, R319, R320, R330): a unit, a register's copy or a tile's element fails its
check; a mismatch; an engine's operation meets an error in its engine, its latch or its staging buffer; a single-bit error is corrected;
an error is met that nothing consumes; a peer is lost on a plane. -/
inductive Damage where
  | unit (u : MemUnit)
  | register (core slot lane reg : Nat) (mirror : Bool)
  | tile (core n row col : Nat)
  | residue (m : Mismatch)
  | engine (uid : Nat) (c : Eng) (seq : Nat)
  | corrected (u : MemUnit)
  | correctedReg (core slot lane reg : Nat)
  | unread (u : MemUnit)
  | unreadReg (core slot lane reg : Nat)
  | unreadTile (core n row col : Nat)
  | peerPlane (peer plane : Nat)
deriving DecidableEq, Repr

/-- A turn of the agenda (DESIGN CHOICE, LOG 1): a core issues, an event happens, a host processor writes host memory, something is
damaged, or time passes; and, where the spec allows several outcomes of one instruction (LOG 2): an engine operation reads a source byte
now (R203), the caches keep a copy of an element for a launch's .inv loads, or give out the copy with a number (R202), and in the same way of a
code word for a launch's fetches (R29), a pack's next VATOM, XCHL or ISSV performs only so many lanes or groups before other parties (R160,
R212), a copy or a gather of a cluster writes a part of its bytes now (R191, R203), a core issues, or an event happens, while a host
processor's write falls between the read and the write of each read-modify-write there (R177), a pack's store hash lags or catches up (R299),
a flit arrives (R334). -/
inductive Turn where
  | core (c : Nat)
  | event (i : Instr)
  | hostWrite (pa : Nat) (bytes : List Byte)
  | damage (d : Damage)
  | time (n : Nat)
  | early (uid : Nat) (c : Eng) (seq key : Nat)
  | invCopy (core launch key : Nat)
  | invUse (core launch key : Nat) (n : Option Nat)
  | codeCopy (core launch key : Nat)
  | codeUse (core launch key : Nat) (n : Option Nat)
  | part (cluster : Nat) (gather : Bool) (n : Nat) (offs : List Nat)
  | coreRaced (c pa : Nat) (bytes : List Byte)
  | eventRaced (i : Instr) (pa : Nat) (bytes : List Byte)
  | lanes (core slot n : Nat)
  | lag (core slot : Nat) (on : Bool)
  | flit (port : Nat)
deriving DecidableEq, Repr

/-- All of the machine that the dies' activity changes, for strike rollback (R327, LOG 13). -/
structure Arch where
  mem : List Host.Cell
  hbmPoison : List Nat
  hbmUe : List Nat
  granEmpty : List Nat
  granPoison : List Nat
  granUe : List Nat
  packs : Table (Nat × Nat) Pack
  cores : Table Nat Core
  clusters : Table Nat Cluster
  dies : Table Nat Die
  ctxs : Table Nat Ctx
  launches : Table Nat Launch
  resumes : Table Nat Resume
  frames : Table (Nat × Word) Frame
  guardQ : Table Nat (List GuardReq)
  colls : List CollOp
  dev : Device
deriving DecidableEq, Repr

/-- What a core's journal holds of one act of the core (R327, LOG 13): the core's CYCLE at the end of the act and of the cycles that its
instructions still owed then to `owes`, and as they stood before the act, the core, its packs, and its own scratchpad's bytes and granule bits;
whether the act had an effect outside the core; and all of the machine before the act, as long as nobody else has acted since. -/
structure Checkpoint where
  last : Nat
  owes : List Nat := []
  core : Core
  packs : Table (Nat × Nat) Pack
  scratch : List Host.Cell
  empty : List Nat
  poison : List Nat
  ue : List Nat
  out : Bool
  whole : Option Arch
deriving DecidableEq, Repr

/-- What an act has written in scratchpads without a change, or with one, as ranges (start, length): bytes by their keys, the full/empty bits and
the poison markers of granules by their numbers (R328). -/
structure Touched where
  bytes : List (Nat × Nat) := []
  fulls : List (Nat × Nat) := []
  marks : List (Nat × Nat) := []
deriving DecidableEq, Repr

/-- The machine. The first nine fields are the model's own (DESIGN CHOICE, LOG 1, LOG 2, LOG 5, LOG 15): the agenda, the pack that is issuing,
the core whose turn is next when the agenda is empty, whether an internal event goes first, the counter behind the free values, the next
fresh identity, the bytes of host memory that read-modify-writes still read as they were while a turn has a host processor's write fall
between (R177; empty between steps), how many acts have been done that may move data (R336), and what an act has written in scratchpads (R328;
empty between steps). `ticks` is the time that has passed for every core and die that no table lists yet (R18, R332). -/
structure State where
  agenda : List Turn := []
  cur : Option (Nat × Nat) := none
  focus : Nat := 0
  evTurn : Bool := false
  free : Nat := 0
  fresh : Nat := 0
  races : List Host.Cell := []
  acts : Nat := 0
  touched : Touched := {}
  ticks : Nat := 0
  mem : List Host.Cell := []
  hbmPoison : List Nat := []
  hbmUe : List Nat := []
  granEmpty : List Nat := []
  granPoison : List Nat := []
  granUe : List Nat := []
  packs : Table (Nat × Nat) Pack := []
  cores : Table Nat Core := []
  clusters : Table Nat Cluster := []
  dies : Table Nat Die := []
  ctxs : Table Nat Ctx := []
  launches : Table Nat Launch := []
  resumes : Table Nat Resume := []
  frames : Table (Nat × Word) Frame := []
  guardQ : Table Nat (List GuardReq) := []
  colls : List CollOp := []
  mismatches : List Mismatch := []
  journals : Table Nat (List Checkpoint) := []
  dev : Device := {}
deriving DecidableEq, Repr

/-- The state right after power-on (spec/14_dies_and_devices.md R343): Boot, no context and no pack, nothing in memory. Every
value here that the spec does not give is a DESIGN CHOICE, named in LOG 3, LOG 7 and LOG 8. -/
def State.reset : State := {}

/-! ### Stops -/

/-- Why the machine stops with a fault. -/
inductive Fault where
  /-- `exec` was asked to run an instruction word while no pack is issuing. Raised by every meaning of an instruction word;
  `step` never asks it. Safe: the model stops where the device has nothing to run. -/
  | noPack
deriving DecidableEq, Repr

/-- Why the machine refuses. -/
inductive Refusal where
  /-- An instruction without a meaning yet, raised by its arm of `exec`. Safe. -/
  | notModelled (mnemonic : String)
deriving DecidableEq, Repr

end Sys2Proof.Machine
end

