-- ==== Sys2Proof/Machine/Memory.lean ====
section
/-! DEFINITION. Tables, registers held in lists, sorted sets and the memory list: the plain operations over the data of
State. What an unlisted byte of memory reads as is `Memory.empty` (DESIGN CHOICE, LOG 3). -/

namespace Sys2Proof.Machine

/-! ### Tables -/

/-- The value of a key. -/
def Table.get? {α β : Type} [DecidableEq α] (t : Table α β) (k : α) : Option β :=
  match t with
  | [] => none
  | (k', v) :: r => if k' = k then some v else Table.get? r k

/-- The value of a key, or a default. -/
def Table.getD {α β : Type} [DecidableEq α] (t : Table α β) (k : α) (d : β) : β := (Table.get? t k).getD d

/-- Set the value of a key, in its place, or at the end. -/
def Table.set {α β : Type} [DecidableEq α] (t : Table α β) (k : α) (v : β) : Table α β :=
  match t with
  | [] => [(k, v)]
  | (k', v') :: r => if k' = k then (k, v) :: r else (k', v') :: Table.set r k v

/-- Remove a key. -/
def Table.del {α β : Type} [DecidableEq α] (t : Table α β) (k : α) : Table α β := t.filter (fun e => decide (e.1 ≠ k))

/-! ### Registers in a list -/

/-- Element `i` of a list whose missing elements are `d`, replaced by `x`. -/
def putAt {α : Type} (d : α) : List α → Nat → α → List α
  | [], 0, x => [x]
  | [], n + 1, x => d :: putAt d [] n x
  | _ :: r, 0, x => x :: r
  | y :: r, n + 1, x => y :: putAt d r n x

/-- Element `i` of a list whose missing elements are `d`. -/
def getAt {α : Type} (d : α) : List α → Nat → α
  | [], _ => d
  | y :: _, 0 => y
  | _ :: r, n + 1 => getAt d r n

/-! ### Sorted sets of numbers -/

/-- Add a number to an ascending list without repeats. -/
def insertNat : List Nat → Nat → List Nat
  | [], a => [a]
  | k :: r, a => if a < k then a :: k :: r else if a = k then k :: r else k :: insertNat r a

/-- Remove a number. -/
def removeNat (l : List Nat) (a : Nat) : List Nat := l.filter (fun k => k != a)

/-! ### Memory -/

/-- Bytes by address, ascending, none equal to `Memory.empty`. Addresses below 2^52 are physical (R174); scratchpads follow
(DESIGN CHOICE, LOG 4). -/
abbrev Memory : Type := List Host.Cell

/-- What a byte that nothing has written reads as (R171 for the scratchpads; DESIGN CHOICE, LOG 3 for the rest). -/
def Memory.empty : Byte := 0

/-- Read one byte. -/
def Memory.read (m : Memory) (a : Nat) : Byte :=
  match m with
  | [] => Memory.empty
  | (k, v) :: r => if k = a then v else Memory.read r a

/-- Write one byte. -/
def Memory.write (m : Memory) (a : Nat) (b : Byte) : Memory :=
  match m with
  | [] => if b = Memory.empty then [] else [(a, b)]
  | (k, v) :: r =>
    if a < k then (if b = Memory.empty then (k, v) :: r else (a, b) :: (k, v) :: r)
    else if a = k then (if b = Memory.empty then r else (a, b) :: r)
    else (k, v) :: Memory.write r a b

/-- Write bytes at their addresses, the last of the list first: a log kept newest first. -/
def Memory.apply (m : Memory) (log : List Host.Cell) : Memory := log.foldr (fun c m => Memory.write m c.1 c.2) m

/-- Is an address in one of the ranges (start, length)? -/
def inRanges (rs : List (Nat × Nat)) (a : Nat) : Bool := rs.any (fun r => r.1 ≤ a && a < r.1 + r.2)

/-- Every byte of the ranges written with `Memory.empty`. -/
def Memory.wipe (m : Memory) (rs : List (Nat × Nat)) : Memory :=
  if rs.isEmpty then m else m.filter (fun c => !inRanges rs c.1)

/-- The canonical form: addresses strictly rising, no byte equal to what an unlisted address reads as. -/
abbrev Memory.wf (m : Memory) : Prop := m.Pairwise (fun x y => x.1 < y.1) ∧ ∀ c ∈ m, c.2 ≠ Memory.empty

/-! ### Bytes and numbers -/

/-- The little-endian value of bytes (R3). -/
def leNat (bs : List Byte) : Nat := bs.foldr (fun b n => b.toNat + 256 * n) 0

/-- The `n` low bytes of a number, lowest first (R3). -/
def leBytes (n x : Nat) : List Byte := (List.range n).map (fun i => BitVec.ofNat 8 (x / 256 ^ i))

/-- Bits hi:lo of a number. -/
def bits (x hi lo : Nat) : Nat := x / 2 ^ lo % 2 ^ (hi + 1 - lo)

/-- One bit of a number. -/
def bit (x n : Nat) : Bool := x.testBit n

/-- The positions of the lanes of a mask, ascending, below `w`. -/
def lanesOf (m : Lanes) (w : Nat) : List Nat := (List.range w).filter (fun l => m.getLsbD l)

/-- The mask of the lanes for which `f` holds. -/
def maskOf (ls : List Nat) : Lanes := ls.foldl (fun m l => m ||| (1#1024 <<< l)) 0

end Sys2Proof.Machine
end

