-- ==== Sys2Proof/Machine/Ops.lean ====
section
/-! DEFINITION. Named operations over State: access to packs, cores and contexts, general and system registers, the form
in which a meaning runs (`M`, `perform`), posting records, and taking a trap and returning from one. -/

namespace Sys2Proof.Machine

/-! ### Reaching the parts of State -/

/-- The pack of a slot. -/
def State.pack? (s : State) (c slot : Nat) : Option Pack := Table.get? s.packs (c, slot)

/-- Put a pack into a slot. -/
def State.setPack (s : State) (c slot : Nat) (p : Pack) : State := { s with packs := Table.set s.packs (c, slot) p }

/-- Empty a slot. -/
def State.dropPack (s : State) (c slot : Nat) : State := { s with packs := Table.del s.packs (c, slot) }

/-- The pack that is issuing. -/
def State.curPack? (s : State) : Option Pack :=
  match s.cur with
  | none => none
  | some k => Table.get? s.packs k

/-- Replace the pack that is issuing. -/
def State.setCurPack (s : State) (p : Pack) : State :=
  match s.cur with
  | none => s
  | some k => { s with packs := Table.set s.packs k p }

/-- A core; one not listed is as after reset, its CYCLE counting since then (R18). -/
def State.core (s : State) (c : Nat) : Core := Table.getD s.cores c { cycle := s.ticks }
/-- Replace a core. -/
def State.setCore (s : State) (c : Nat) (x : Core) : State := { s with cores := Table.set s.cores c x }
/-- An engine accepts an operation: each of some cores of the device notes it by its own CYCLE (R289). -/
def State.accepted (s : State) (near : Nat → Bool) (f : Core → Core) : State :=
  { s with cores := ((List.range Config.numCores).filter near).map (fun c => (c, f (s.core c))) ++
      s.cores.filter fun e => !(near e.1 && e.1 < Config.numCores) }
/-- A cluster. -/
def State.cluster (s : State) (k : Nat) : Cluster := Table.getD s.clusters k {}
/-- Replace a cluster. -/
def State.setCluster (s : State) (k : Nat) (x : Cluster) : State := { s with clusters := Table.set s.clusters k x }
/-- A die; one not listed is as after reset, its DCYCLE counting since then (R332). -/
def State.die (s : State) (d : Nat) : Die := Table.getD s.dies d { dcycle := s.ticks }
/-- Replace a die. -/
def State.setDie (s : State) (d : Nat) (x : Die) : State := { s with dies := Table.set s.dies d x }
/-- A context; one that does not exist reads as an empty one. -/
def State.ctx (s : State) (n : Nat) : Ctx := Table.getD s.ctxs n {}
/-- Replace a context. -/
def State.setCtx (s : State) (n : Nat) (x : Ctx) : State := { s with ctxs := Table.set s.ctxs n x }
/-- A launch. -/
def State.launch (s : State) (n : Nat) : Launch := Table.getD s.launches n {}
/-- Replace a launch. -/
def State.setLaunch (s : State) (n : Nat) (x : Launch) : State := { s with launches := Table.set s.launches n x }

/-- The cluster of a core (R17). -/
def clusterOf (core : Nat) : Nat := core / 24
/-- The die of a core (R17, R331). -/
def dieOf (core : Nat) : Nat := core / 144
/-- PACKID of a slot (R17). -/
def packId (core slot width : Nat) : Word := BitVec.ofNat 64 (core * 4096 + slot * 64 + width / 32)
/-- CTXID of a context (R17). -/
def ctxId (s : State) (n : Nat) : Word := BitVec.ofNat 64 ((s.ctx n).tenant.toNat * 256 + n)

/-! ### General registers (R10) -/

/-- g[r]; g0 reads as zero. -/
def Pack.readG (p : Pack) (r : Nat) : Word := if r = 0 then 0 else getAt 0 p.g r
/-- g[r] := x; a write to g0 is discarded. -/
def Pack.writeG (p : Pack) (r : Nat) (x : Word) : Pack := if r = 0 then p else { p with g := putAt 0 p.g r x }
/-- Operand B of a scalar instruction (R75). -/
def Pack.opB (p : Pack) (o : Opnd) : Word := o.lit.getD (p.readG o.b.toNat)
/-- PC := PC + Len (R11); the instruction is over. -/
def Pack.next (p : Pack) (o : Opnd) : Pack := { p with pc := p.pc + BitVec.ofNat 64 o.len, prog := {} }
/-- PC := target; the instruction is over. -/
def Pack.goto (p : Pack) (t : Word) : Pack := { p with pc := t, prog := {} }

/-- The counter of a class (R224). -/
def Counts.of (c : Counts) : Eng → Nat
  | .cp => c.cp | .gt => c.gt | .mx => c.mx | .cl => c.cl | .sc => c.sc
/-- Set the counter of a class. -/
def Counts.put (c : Counts) (e : Eng) (n : Nat) : Counts :=
  match e with
  | .cp => { c with cp := n } | .gt => { c with gt := n } | .mx => { c with mx := n } | .cl => { c with cl := n }
  | .sc => { c with sc := n }
/-- The class of a WAIT code (R224). -/
def engOf (n : Nat) : Eng := match n with | 0 => .cp | 1 => .gt | 2 => .mx | 3 => .cl | _ => .sc
/-- The WAIT code of a class (R224). -/
def engCode : Eng → Nat
  | .cp => 0 | .gt => 1 | .mx => 2 | .cl => 3 | .sc => 4
/-- Are all five counters zero? -/
def Counts.allZero (c : Counts) : Bool := c == {}

/-! ### System registers (R16) -/

/-- The value of a system register for a pack; 0 for an unassigned number. -/
def sysRead (s : State) (c slot : Nat) (p : Pack) (n : Nat) : Word :=
  let x := s.ctx p.id.ctx
  match n with
  | 0x000 => BitVec.ofNat 64 (s.core c).cycle
  | 0x001 => packId c slot p.width
  | 0x002 => ctxId s p.id.ctx
  | 0x010 => x.tvec
  | 0x011 => p.sys.tpc
  | 0x012 => p.sys.tcause
  | 0x013 => p.sys.tval
  | 0x014 => p.sys.tstat
  | 0x015 => p.sys.tsave
  | 0x020 => p.sys.cki
  | 0x021 => p.sys.rgnpc
  | 0x022 => p.sys.rgnretry
  | 0x030 => p.sys.mcstat
  | 0x031 => p.sys.mcpc
  | 0x032 => p.sys.mcword
  | 0x033 => p.sys.mclane
  | 0x040 => p.sys.asyncerr
  | 0x050 => x.trlctl
  | 0x051 => x.trlbase
  | 0x052 => p.sys.trlpos
  | 0x053 => p.sys.shash
  | 0x060 => p.sys.fltaddr
  | 0x061 => p.sys.fltmaskp
  | 0x070 => x.quiet
  | 0x080 => x.heelsp
  | _ => 0

/-- WriteMask (R20): what a write of `x` leaves in a register that holds `old`, by its map: reserved bits stay zero (R7),
sticky bits are cleared by a 0 and kept by a 1 (R6), and illegal field values leave their field (R19, R297). -/
def writeMask (n : Nat) (old x : Word) : Word :=
  match n with
  | 0x010 => x &&& 0xFFFFFFFFFFFFFFFC
  | 0x014 => (x &&& 0xC) ||| (if (x &&& 3).toNat < 2 then x &&& 3 else old &&& 3)
  | 0x015 => x &&& 0x01FFFFFFFFFFFFC0
  | 0x020 => (x &&& 0x0000000300000000) ||| (old &&& x &&& 3) |||
      (if x &&& 0xFFFF000000000000 == 0 then 0 else old &&& 0xFFFF000000000000)
  | 0x030 => (x &&& 0xFCF6) ||| (old &&& x &&& 9)
  | 0x032 => x &&& 0x00000000FFFFFFFF
  | 0x033 => x &&& 0x7FF
  | 0x040 => (x &&& 0xFFFFFFFF0000F700) ||| (old &&& x &&& 0x1F)
  | 0x050 => (old &&& x &&& 0x100) |||
      (if (x.extractLsb' 2 5).toNat ≤ 16 then x &&& 0x7C else old &&& 0x7C) |||
      (if x &&& 3 == 3 then old &&& 3 else x &&& 3)
  | 0x051 => x &&& 0x01FFFFFFFFFFFE00
  | 0x060 => x &&& 0x01FFFFFFFFFFFFFF
  | 0x061 => x &&& 0x01FFFFFFFFFFFF80
  | 0x080 => x &&& 0x01FFFFFFFFFFFFFF
  | _ => x

/-- The per-pack system registers after a write of `x` to register `n`. -/
def PackSys.write (y : PackSys) (n : Nat) (x : Word) : PackSys :=
  match n with
  | 0x011 => { y with tpc := writeMask n y.tpc x }
  | 0x012 => { y with tcause := writeMask n y.tcause x }
  | 0x013 => { y with tval := writeMask n y.tval x }
  | 0x014 => { y with tstat := writeMask n y.tstat x }
  | 0x015 => { y with tsave := writeMask n y.tsave x }
  | 0x020 => { y with cki := writeMask n y.cki x }
  | 0x021 => { y with rgnpc := writeMask n y.rgnpc x }
  | 0x022 => { y with rgnretry := writeMask n y.rgnretry x }
  | 0x030 => { y with mcstat := writeMask n y.mcstat x }
  | 0x031 => { y with mcpc := writeMask n y.mcpc x }
  | 0x032 => { y with mcword := writeMask n y.mcword x }
  | 0x033 => { y with mclane := writeMask n y.mclane x }
  | 0x040 => { y with asyncerr := writeMask n y.asyncerr x }
  | 0x052 => { y with trlpos := writeMask n y.trlpos x }
  | 0x053 => { y with shash := writeMask n y.shash x }
  | 0x060 => { y with fltaddr := writeMask n y.fltaddr x }
  | 0x061 => { y with fltmaskp := writeMask n y.fltmaskp x }
  | _ => y

/-- The system registers held per context after a write of `x` to register `n`. -/
def Ctx.write (y : Ctx) (n : Nat) (x : Word) : Ctx :=
  match n with
  | 0x010 => { y with tvec := writeMask n y.tvec x }
  | 0x050 => { y with trlctl := writeMask n y.trlctl x }
  | 0x051 => { y with trlbase := writeMask n y.trlbase x }
  | 0x070 => { y with quiet := writeMask n y.quiet x }
  | 0x080 => { y with heelsp := writeMask n y.heelsp x }
  | _ => y

/-- Is the register held per context (R16)? -/
def sysPerCtx (n : Nat) : Bool := [0x010, 0x050, 0x051, 0x070, 0x080].contains n

/-! ### The form of a meaning -/

/-- Why an instruction does not complete here. -/
inductive Stop where
  /-- A trap (R22, R23) with its cause and value; FLTADDR and the lane image where the cause sets them (R301). -/
  | trap (cause : Nat) (val : Word) (flt : Option Word) (img : Option Lanes)
  /-- A page fault at an address (R303): the record's SOURCE and KIND, the lanes unfinished, and whether a fetch faulted. -/
  | pageFault (va : Word) (source : Nat) (kind : BitVec 3) (img : Option Lanes)
  /-- Addresses whose translations both TLBs miss (R189, R190). -/
  | miss (vas : List Nat) (kind : BitVec 3)
  /-- The pack waits. -/
  | block (why : Wait)
  /-- A consumption inside a region restarts it (R321, R325); the cause that would have been taken. -/
  | restart (cause : Nat)
  /-- An engine operation ends with a code of R227. -/
  | code (n : Nat)
deriving DecidableEq, Repr

/-- On whose behalf memory is reached: context, core, slot and identity; `direct` for engines and other units (they walk the
tables at once), `phys` for the walker (R190); pages the walker has already served; source bytes that an engine has read, destination offsets
that it has written, and those to which a part of its writes is limited (R191, R203). -/
structure Who where
  ctx : Nat
  core : Nat
  slot : Nat
  uid : Nat
  direct : Bool := false
  phys : Bool := false
  served : List Nat := []
  early : List (Nat × Byte) := []
  wrote : List (Nat × Bool) := []
  only : Option (List Nat) := none
deriving DecidableEq, Repr

/-- What a running meaning works on: the state, the bytes it has written (newest first), both as they stand if it stops, the
instruction, the units that its writes poison (R319), ranges that it clears before it writes (R314, R178), and the keys that the same store or
engine operation has written before (R319). -/
structure W where
  st : State
  log : List Host.Cell
  keepSt : State
  keepLog : List Host.Cell
  keepMarks : List MemUnit
  who : Who
  instr : Instr
  marks : List MemUnit
  wiped : List (Nat × Nat)
  keepWiped : List (Nat × Nat)
  covered : List Nat
deriving DecidableEq

/-- A meaning that may stop. -/
abbrev M : Type → Type := EStateM Stop W

/-- What stands now stands even if the instruction stops (R22's named exceptions, R184, R165). -/
def keep : M Unit := modify fun w => { w with keepSt := w.st, keepLog := w.log, keepMarks := w.marks, keepWiped := w.wiped }

/-- The state. -/
def getS : M State := do return (← get).st
/-- Replace the state. -/
def setS (s : State) : M Unit := modify fun w => { w with st := s }
/-- Change the state. -/
def modS (f : State → State) : M Unit := modify fun w => { w with st := f w.st }
/-- The pack that is issuing. -/
def getP : M Pack := do return ((← getS).curPack?).getD {}
/-- Replace the pack that is issuing. -/
def setP (p : Pack) : M Unit := modS fun s => s.setCurPack p
/-- Change the pack that is issuing. -/
def modP (f : Pack → Pack) : M Unit := do setP (f (← getP))
/-- On whose behalf. -/
def getWho : M Who := do return (← get).who
/-- The context of the party. -/
def getCtx : M Ctx := do return (← getS).ctx (← getWho).ctx
/-- Change the context of the party. -/
def modCtx (f : Ctx → Ctx) : M Unit := do
  let c := (← getWho).ctx
  modS fun s => s.setCtx c (f (s.ctx c))
/-- Stop with a trap. -/
def trapM {α : Type} (cause : Nat) (val : Word) : M α := throw (.trap cause val none none)
/-- Wait. -/
def blockM {α : Type} (why : Wait) : M α := throw (.block why)
/-- A fresh identity. -/
def freshM : M Nat := do
  let s ← getS
  setS { s with fresh := s.fresh + 1 }
  return s.fresh

/-- The units of HBM that written bytes cover whole (R319): those of a log, and those at keys that the same store or operation has written
before. DEDUCED: LOG 27. -/
def coversWord (log : List Host.Cell) (covered : List Nat) (w : Nat) : Bool :=
  log.any (fun c => c.1 / 32 == w) &&
    (List.range 32).all (fun i => log.any (fun c => c.1 == w * 32 + i) || covered.contains (w * 32 + i))

/-- The home die of an HBM address (R176). -/
def homeDie (pa : Nat) : Nat := pa / 4096 % 8 / 2

/-- Is a memory key in this device's HBM (R174)? -/
def isHbm (k : Nat) : Bool := k < Config.hbmSize

/-- The staged copies that one die's staging area holds: 2 GiB of 16 KiB parts (R339, LOG 15). -/
def stagingRoom : Nat := 131072

/-- Must the part of a block on a die be copied before its first write since the cut (R339)? -/
def mustStage (n : Snapshot) (b h : Nat) : Bool :=
  n.cut.contains h && n.next ≤ b && !n.streamed.contains b && !n.staged.any (fun e => decide (e.1 = (b, h)))

/-- The bytes that memory lists in the part of a block on a die. -/
def blockPart (m : Memory) (b h : Nat) : List Host.Cell :=
  m.filter (fun c => c.1 / 65536 == b && isHbm c.1 && homeDie c.1 == h)

/-- A snapshot with the old contents of the part staged, if they must be. -/
def stagePart (m : Memory) (n : Snapshot) (b h : Nat) : Snapshot :=
  if mustStage n b h then { n with staged := n.staged ++ [((b, h), blockPart m b h)] } else n

/-- Before bytes reach memory, the parts of blocks that they touch are copied while a snapshot is in progress (R339). -/
def stageOld (m : Memory) (log : List Host.Cell) (wiped : List (Nat × Nat)) (d : Device) : Device :=
  match d.snapshot with
  | none => d
  | some n =>
    let one (n : Snapshot) (k : Nat) : Snapshot := if isHbm k then stagePart m n (k / 65536) (homeDie k) else n
    let n := log.foldl (fun n c => one n c.1) n
    let n := wiped.foldl (fun n r => (List.range (r.2 / 4096 + 2)).foldl (fun n i => one n (min (r.1 + 4096 * i) (r.1 + r.2 - 1))) n) n
    { d with snapshot := some n }

/-- Bytes have been written too. -/
def Touched.andBytes (t : Touched) (rs : List (Nat × Nat)) : Touched := { t with bytes := t.bytes ++ rs }

/-- The full/empty bits of granules have been written too, or their poison markers, or both. -/
def Touched.granules (t : Touched) (rs : List (Nat × Nat)) (fulls marks : Bool) : Touched :=
  { t with fulls := if fulls then t.fulls ++ rs else t.fulls, marks := if marks then t.marks ++ rs else t.marks }

/-- A unit of memory has poison (R319). -/
def State.mark (s : State) (u : MemUnit) : State :=
  match u with
  | .hbm n => { s with hbmPoison := insertNat s.hbmPoison n }
  | .granule n => { s with granPoison := insertNat s.granPoison n, touched := s.touched.granules [(n, 1)] false true }

/-- The scratchpad bytes that a log writes with the value that they hold, and those of the ranges that are cleared (R328). -/
def touchedBytes (m : Memory) (log : List Host.Cell) (wiped : List (Nat × Nat)) : List (Nat × Nat) :=
  ((log.filter fun c => 2 ^ 52 ≤ c.1 && Memory.read m c.1 == c.2).map fun c => (c.1, 1)) ++ wiped.filter (2 ^ 52 ≤ ·.1)

/-- The state after a meaning: its bytes are in memory, words that its writes cover whole lose their poison (R319), and the units
that its writes poison have it. -/
def finish (s0 : State) (w : W) : State :=
  let clear := fun (l : List Nat) => if l.isEmpty then l else l.filter (fun u => !coversWord w.log w.covered u)
  let s := { w.st with mem := Memory.apply (Memory.wipe s0.mem w.wiped) w.log
                       touched := w.st.touched.andBytes (touchedBytes s0.mem w.log w.wiped)
                       dev := stageOld s0.mem w.log w.wiped w.st.dev
                       hbmPoison := clear w.st.hbmPoison, hbmUe := clear w.st.hbmUe }
  w.marks.foldl State.mark s

/-- The start of a meaning. -/
def startW (s : State) (who : Who) (i : Instr) : W :=
  { st := s, log := [], keepSt := s, keepLog := [], keepMarks := [], who, instr := i, marks := [], wiped := [], keepWiped := [], covered := [] }

/-- What stands when a meaning stops. -/
def kept (w : W) : W := { w with st := w.keepSt, log := w.keepLog, marks := w.keepMarks, wiped := w.keepWiped }

/-- The memory that a meaning sees, as a function of the key: what it wrote, or what memory holds. -/
def view (w : W) (a : Nat) : Byte :=
  match w.log.find? (fun c => c.1 == a) with
  | some c => c.2
  | none => if inRanges w.wiped a then Memory.empty else Memory.read w.st.mem a

/-- Read one byte at a memory key. -/
def loadKey (a : Nat) : M Byte := do return view (← get) a

/-- Clear a range of keys. -/
def wipeKeys (a n : Nat) : M Unit := modify fun w => { w with wiped := (a, n) :: w.wiped }

/-- Write one byte at a memory key. -/
def storeKey (a : Nat) (b : Byte) : M Unit := modify fun w => { w with log := (a, b) :: w.log }

/-- Read `n` bytes at a memory key. -/
def loadKeys (a n : Nat) : M (List Byte) := (List.range n).mapM (fun i => loadKey (a + i))

/-- A byte of a read-modify-write is read: as it was, where a turn has a host processor's write fall between the read and the write (R177;
DESIGN CHOICE, LOG 2). -/
def rmwByte (s : State) (k : Nat) (b : Byte) : Byte :=
  match s.races.find? (fun c => c.1 == k) with
  | some c => c.2
  | none => b

/-- Read `n` bytes at a memory key for a read-modify-write; `ha` for a page of AtomicOps, where a host processor's write comes before the read
or after the write (R177). What this meaning has written already it reads back. -/
def loadRmw (ha : Bool) (k n : Nat) : M (List Byte) := do
  let bs ← loadKeys k n
  if ha then return bs
  else
    let w ← get
    return bs.zipIdx.map fun e => if w.log.any (fun c => c.1 == k + e.2) then e.1 else rmwByte w.st (k + e.2) e.1

/-- Write bytes at a memory key. -/
def storeKeys (a : Nat) (bs : List Byte) : M Unit :=
  match bs with
  | [] => pure ()
  | b :: r => do storeKey a b; storeKeys (a + 1) r

/-! ### Dies latching a trigger, and the copies for a memory snapshot (spec/14_dies_and_devices.md R336-R339) -/

/-- Change the device's own part of the state. -/
def modDev (f : Device → Device) : M Unit := modS fun s => { s with dev := f s.dev }

/-- A free word (DESIGN CHOICE, LOG 5). -/
def freeM : M Word := do
  let s ← getS
  setS { s with free := s.free + 1 }
  return Config.freeWord s.free

/-- Append bytes to the snapshot log's ring, wrapping at its end. -/
def logBytes (base size at_ : Nat) (bs : List Byte) : M Unit :=
  match bs with
  | [] => pure ()
  | b :: r => do
    storeKey (base + at_ % size) b
    logBytes base size (at_ + 1) r

/-- How much a count of traffic grows at a latch: by a free amount where acts that may move data have been done since the count was last
taken, by none where none has, and never past its 64 bits (R336; DESIGN CHOICE, LOG 15). -/
def traffic (moved : Bool) (count : Nat) (x : Word) : Nat := if moved then min x.toNat (2 ^ 64 - 1 - count) else 0

/-- The traffic of a die since its last latch joins its counts, at die 0 also that of the device's Zarrak ports, which die 0's record gives
(R336). -/
def countTraffic (d : Nat) : M Unit := do
  let rd ← freeM
  let wr ← freeM
  let zf ← freeM
  let s ← getS
  let x := s.die d
  let moved := decide (x.counted < s.acts)
  setS (s.setDie d { x with
    hbmRd := x.hbmRd + traffic moved x.hbmRd rd, hbmWr := x.hbmWr + traffic moved x.hbmWr wr, counted := s.acts })
  modDev fun y => { y with zflits := y.zflits + traffic (moved && d == 0) y.zflits zf }

/-- A die snapshot record (R336); `zf` counts the flits sent on the device's Zarrak ports. -/
def dieRecord (die : Die) (d : Nat) (t : Trigger) (zf : Nat) : BitVec 512 :=
  BitVec.ofNat 512
    (die.dcycle % 2 ^ 64 * 2 ^ 448 + die.hbmRd % 2 ^ 64 * 2 ^ 384 + die.hbmWr % 2 ^ 64 * 2 ^ 320 +
      (if d = 0 then zf % 2 ^ 64 else 0) * 2 ^ 256 +
      die.errors.length % 2 ^ 32 * 2 ^ 224 + die.rollbacks % 2 ^ 32 * 2 ^ 192 + t.seq * 2 ^ 128 + t.tag.toNat * 2 ^ 96 +
      t.mem.toNat * 2 ^ 70 + t.source.toNat * 2 ^ 68 + d * 2 ^ 66 + t.issuer.toNat % 2 ^ 22)

/-- A core snapshot entry (R336). -/
def coreEntry (s : State) (c : Nat) : Nat :=
  let x := s.core c
  x.cycle % 2 ^ 64 * 2 ^ 64 + x.issueCycles % 2 ^ 48 * 2 ^ 16 + (s.packs.filter (fun e => e.1.1 == c)).length

/-- Die `d` latches the oldest trigger (R335, R336): its record and its cores' entries go to the log, or are dropped when it is
full; a memory snapshot that the trigger starts is cut there. After the last die the trigger is over. -/
def latchDie (d : Nat) : M Unit := do
  let s ← getS
  match s.dev.triggers with
  | [] => pure ()
  | t :: rest =>
    if t.latched.contains d then pure ()
    else
      countTraffic d
      let s ← getS
      if s.dev.logSize ≠ 0 && s.dev.logPosted - s.dev.logFreed + 2368 ≤ s.dev.logSize then
        logBytes s.dev.logBase s.dev.logSize s.dev.logPosted (leBytes 64 (dieRecord (s.die d) d t s.dev.zflits).toNat)
        for c in List.range 144 do
          logBytes s.dev.logBase s.dev.logSize (s.dev.logPosted + 64 + 16 * c) (leBytes 16 (coreEntry s (d * 144 + c)))
        modDev fun x => { x with logPosted := x.logPosted + 2368 }
      let t' := { t with latched := t.latched ++ [d] }
      modDev fun x => { x with
        triggers := if t'.latched.length = 4 then rest else t' :: rest
        snapshot := x.snapshot.map (fun n => if t.mem == 1 && n.seq == t.seq then { n with cut := n.cut ++ [d] } else n) }

/-- Has die `d` latched the trigger `seq`? -/
def latchedOn (s : State) (seq d : Nat) : Bool :=
  match s.dev.triggers.find? (fun t => t.seq == seq) with
  | some t => t.latched.contains d
  | none => seq ≤ s.dev.seq

/-- The die of the arbiter or port that a key's accesses reach: the home die of local HBM (R176), the die of a scratchpad's core, or the
die of the port towards the host or a peer: of a host address, port 0's unless its physical address names port 1 (R340; DESIGN CHOICE, LOG 46). -/
def keyDie (k : Nat) : Nat :=
  if isHbm k then homeDie k
  else if 2 ^ 52 ≤ k then dieOf ((k - 2 ^ 52) / 2 ^ 20)
  else if 2 ^ 51 ≤ k then Config.zarrakDie (k / 4096) % 4
  else Config.hostPortDie (bits k 49 49) % 4

/-- Two dies exchange a request and its answer: if only one of them has latched the trigger that is latching, the other latches at once,
so that what belongs to a snapshot is closed under happens-before (R338; DEDUCED, LOG 46). -/
def meet (a b : Nat) : M Unit := do
  match (← getS).dev.triggers with
  | t :: _ =>
    if t.latched.contains a && !t.latched.contains b then latchDie b
    else if t.latched.contains b && !t.latched.contains a then latchDie a
  | [] => pure ()

/-- An access of a party to a key: its die meets the key's (R338). -/
def reach (k : Nat) : M Unit := do meet (dieOf (← getWho).core) (keyDie k)

/-- After an act of a die that has latched, which parties on any die may see without memory, every die latches (R338; DEDUCED, LOG 46). -/
def spread (d : Nat) : M Unit := do
  for e in List.range Config.numDies do
    match (← getS).dev.triggers with
    | t :: _ => if t.latched.contains d && !t.latched.contains e then latchDie e
    | [] => pure ()

/-- Before a party whose die is `from_` (none for a peer, whose die is that of its Zarrak port) writes at a key: the dies meet, and where the key
lies outside the device, the host or a peer may see it and act at any port, so that every die latches once the party's has (R338); the first
write since the cut to the part of a block has it copied, or waits while the die's staging area is full (R339). -/
def beforeWrite (from_ : Option Nat) (k : Nat) : M Unit := do
  let f := from_.getD (Config.zarrakDie (k / 4096) % 4)
  meet f (keyDie k)
  if 2 ^ 50 ≤ k && k < 2 ^ 52 then spread f
  if isHbm k then
    let h := homeDie k
    let s ← getS
    match s.dev.snapshot with
    | none => pure ()
    | some n =>
      if mustStage n (k / 65536) h then
        if (n.staged.filter (fun e => e.1.2 == h)).length ≥ stagingRoom then blockM (.staging h)
        modDev fun d => { d with snapshot := some (stagePart s.mem n (k / 65536) h) }

/-- Write bytes at a memory key on behalf of a die. -/
def putKeys (from_ : Option Nat) (k : Nat) (bs : List Byte) : M Unit := do
  if bs ≠ [] then beforeWrite from_ k
  storeKeys k bs

/-! ### The fault queue (R305, R383) -/

/-- The key of a physical address: this device's own peer index is its local HBM (R174), and of a host address it is the same through either
port (R340). -/
def canonPa (d : Device) (pa : Nat) : Nat :=
  if pa / 2 ^ 50 = 2 && bits pa 47 40 = d.index then pa % 2 ^ 40
  else if pa / 2 ^ 50 = 1 then 2 ^ 50 + pa % 2 ^ 49
  else pa

/-- A physical address for the die that an access to it meets: of a host address, as it stands, with the port that it names (R174, R340). -/
def portPa (d : Device) (pa : Nat) : Nat := if pa / 2 ^ 50 = 1 then pa else canonPa d pa

/-- Post a 32-byte record to a context's fault queue, or leave it waiting while the ring is full. -/
def postRecord (ctx : Nat) (r : BitVec 256) : M Unit := do
  let s ← getS
  let x := s.ctx ctx
  if x.fqWaiting.isEmpty && x.fqPosted < x.fqFreed + x.fqSize then
    putKeys (some (dieOf (← getWho).core)) (canonPa s.dev (x.fqBase + 32 * (x.fqPosted % x.fqSize))) (leBytes 32 r.toNat)
    modS fun s => s.setCtx ctx { x with fqPosted := x.fqPosted + 1 }
  else setS (s.setCtx ctx { x with fqWaiting := x.fqWaiting ++ [r] })

/-- Take the next SEQ of a context (R305). -/
def nextSeq (ctx : Nat) : M Nat := do
  let s ← getS
  let x := s.ctx ctx
  setS (s.setCtx ctx { x with fqSeq := x.fqSeq + 1 })
  return x.fqSeq

/-- A fault record, TYPE 0 (R305). -/
def faultRecord (seq lpid core slot ctx source : Nat) (kind : BitVec 3) (line : Nat) : BitVec 256 :=
  BitVec.ofNat 256 (seq % 2 ^ 32 * 2 ^ 160 + lpid * 2 ^ 144 + core * 2 ^ 134 + slot * 2 ^ 128 + ctx * 2 ^ 122 +
    source * 2 ^ 118 + kind.toNat * 2 ^ 115 + line % 2 ^ 57)

/-- A context-fault record (TYPE 1) or a pre-emption-complete record (TYPE 2) (R383). -/
def contextRecord (ty seq : Nat) (packid : Word) (cause ctx : Nat) (pc val : Word) : BitVec 256 :=
  BitVec.ofNat 256 (ty * 2 ^ 192 + seq % 2 ^ 32 * 2 ^ 160 + packid.toNat * 2 ^ 138 + cause * 2 ^ 130 + ctx * 2 ^ 122 +
    pc.toNat % 2 ^ 57 * 2 ^ 64 + val.toNat)

/-! ### Translation (R174, R185-R190) -/

/-- Does the device reach a frame (R174, R175)? -/
def frameValid (d : Device) (pa : Nat) : Bool :=
  match bits pa 51 50 with
  | 0 => bits pa 49 0 < Config.hbmMappable
  | 1 => d.ports.contains (bits pa 49 49)
  | 2 => bits pa 49 48 == 0 && bits pa 47 40 < 144 && bits pa 39 0 < Config.hbmMappable
  | _ => false

/-- Page bytes of a size code (R186). -/
def pageBytes (sz : Nat) : Nat :=
  match sz with
  | 0 => 2 ^ 12 | 1 => 2 ^ 14 | 2 => 2 ^ 16 | 3 => 2 ^ 18 | 4 => 2 ^ 21 | 5 => 2 ^ 25 | 6 => 2 ^ 30 | _ => 2 ^ 34

/-- The level at which a size's leaf stands (R186). -/
def leafLevel (sz : Nat) : Nat := if sz ≤ 3 then 1 else if sz ≤ 5 then 2 else 3

/-- Is an entry with V = 1 malformed at its level (R186)? -/
def malformed (d : Device) (level e : Nat) : Bool :=
  let frame := bits e 51 12 * 4096
  let leaf := bit e 1
  let sz := bits e 11 9
  bits e 63 61 != 0 || bits e 59 52 != 0 || bits e 8 5 != 0 || !frameValid d frame ||
    (if leaf then leafLevel sz != level || frame % pageBytes sz != 0 || (bit e 60 && bits frame 51 50 != 1)
     else level == 1 || sz != 0 || bits e 4 2 != 0 || bit e 60)

/-- The translation that a well-formed leaf gives to an address (R185). -/
def leafEntry (ctx va e : Nat) : TlbEntry :=
  let n := pageBytes (bits e 11 9)
  { ctx, page := va / n * n, size := n, frame := bits e 51 12 * 4096, rd := bit e 2, wr := bit e 3, exe := bit e 4,
    ha := bit e 60 }

/-- Read the 8-byte table entry at a physical address. -/
def readPte (m : Nat → Byte) (d : Device) (pa : Nat) : Nat :=
  leNat ((List.range 8).map (fun i => m (canonPa d (pa + i))))

/-- The address of the entry of a table at a level that leads to an address (R185). -/
def pteAt (table va level : Nat) : Nat := table + 8 * (va / 2 ^ (12 + 9 * level) % 512)

/-- Walk the tables, whose entries `pte` gives by their addresses, from a level down (R185); `none` is a page fault (R186). -/
def walkWith (pte : Nat → Nat) (d : Device) (ctx : Nat) (table va : Nat) : Nat → Option TlbEntry
  | 0 => none
  | level + 1 =>
    let e := pte (pteAt table va level)
    if !bit e 0 || malformed d (level + 1) e then none
    else if bit e 1 then some (leafEntry ctx va e)
    else walkWith pte d ctx (bits e 51 12 * 4096) va level

/-- The table entries that a walk reads, by address. -/
def walkReads (pte : Nat → Nat) (d : Device) (table va : Nat) : Nat → List (Nat × Nat)
  | 0 => []
  | level + 1 =>
    let a := pteAt table va level
    let e := pte a
    (a, e) :: (if !bit e 0 || malformed d (level + 1) e || bit e 1 then [] else walkReads pte d (bits e 51 12 * 4096) va level)

/-- The translation that the context's tables give to an address. -/
def walkTables (s : State) (m : Nat → Byte) (ctx va : Nat) : Option TlbEntry :=
  walkWith (readPte m s.dev) s.dev ctx (s.ctx ctx).root va 5

/-- The entry of a TLB that covers an address of a context (R188). -/
def tlbFind (l : List TlbEntry) (ctx va : Nat) : Option TlbEntry :=
  l.find? (fun e => e.ctx == ctx && e.page ≤ va && va < e.page + e.size)

/-- Install an entry, replacing what it overlaps (R307); a full TLB loses its oldest entry (DESIGN CHOICE, LOG 7). -/
def tlbInsert (cap : Nat) (l : List TlbEntry) (e : TlbEntry) : List TlbEntry :=
  let l' := l.filter (fun x => !(x.ctx == e.ctx && x.page < e.page + e.size && e.page < x.page + x.size)) ++ [e]
  l'.drop (l'.length - cap)

/-- The outcome of looking an address up. -/
inductive Lookup where
  | phys (pa : Nat)
  | entry (e : TlbEntry)
  | absent
  | miss
deriving DecidableEq, Repr

/-- Look an address up: the walker's addresses are physical, and one that the device does not reach is not mapped (DESIGN CHOICE,
LOG 43); then the core's TLB, the cluster's TLB, what was walked for this
instruction, and for units other than packs the tables themselves (R188-R190). -/
def lookup (w : W) (va : Nat) : Lookup :=
  let s := w.st
  let who := w.who
  if who.phys then (if va < 2 ^ 52 && frameValid s.dev va then .phys va else .absent)
  else
    match tlbFind (s.core who.core).tlb who.ctx va with
    | some e => .entry e
    | none =>
      match tlbFind (s.cluster (clusterOf who.core)).tlb who.ctx va with
      | some e => .entry e
      | none =>
        if who.direct then
          (if (s.ctx who.ctx).programmable then (if who.served.contains (va / 4096) then .absent else .miss)
           else match walkTables s (view w) who.ctx va with
             | some e => .entry e
             | none => .absent)
        else match Table.get? ((s.pack? who.core who.slot).getD {}).prog.walked (va / 4096) with
          | some (some e) => .entry e
          | some none => .absent
          | none => .miss

/-- The kinds of access, as KIND of a fault record shows them (R305): read, write, read-modify-write, execute. -/
inductive Acc where
  | rd | wr | rmw | ex
deriving DecidableEq, Repr

/-- KIND bits (R305). -/
def Acc.kind : Acc → BitVec 3
  | .rd => 1 | .wr => 2 | .rmw => 3 | .ex => 4

/-- Does a translation permit an access (R187)? -/
def permits (e : TlbEntry) : Acc → Bool
  | .rd => e.rd | .wr => e.wr | .rmw => e.rd && e.wr | .ex => e.exe

/-- The physical address of a virtual one in an entry. -/
def TlbEntry.pa (e : TlbEntry) (va : Nat) : Nat := e.frame + (va - e.page)

/-- Has the device lost every plane to a peer: each of the 36 planes is lost for the device, or towards that peer (R334)? -/
def Device.cutOff (d : Device) (peer : Nat) : Bool :=
  peer != d.index && (List.range 36).all fun n => d.lostPlanes.contains n || d.peerPlanes.contains (peer, n)

/-- Does a physical address name a peer that no plane reaches (R334)? -/
def peerLost (d : Device) (pa : Nat) : Bool := pa / 2 ^ 50 == 2 && d.cutOff (bits pa 47 40)

/-- The access of a party to a physical address, at last: its key, after the dies have met, of host memory at the port that the address names
(R174, R338, R340); one to a peer that no plane reaches raises the protection trap with the address as its value (R334). -/
def reachPa (pa va : Nat) : M Nat := do
  let d := (← getS).dev
  if peerLost d pa then throw (.trap 0x08 (BitVec.ofNat 64 va) none none)
  reach (portPa d pa)
  return canonPa d pa

/-- Translate one address for an access that stops at the first failure: a page fault, or the protection trap (R187, R334),
with the address as its value. -/
def translate (acc : Acc) (va : Nat) : M Nat := do
  match lookup (← get) va with
  | .phys pa => reachPa pa va
  | .entry e =>
    if !permits e acc then throw (.trap 0x08 (BitVec.ofNat 64 va) none none)
    reachPa (e.pa va) va
  | .absent => throw (.pageFault (BitVec.ofNat 64 va) (if acc = .ex then 1 else 0) acc.kind none)
  | .miss => throw (.miss [va] acc.kind)

/-- The translation of an address that has one, for its HA bit (R177). -/
def entryOf (w : W) (va : Nat) : Option TlbEntry :=
  match lookup w va with
  | .entry e => some e
  | _ => none

/-- Is an address on a page of AtomicOps (R177)? -/
def pageHa (va : Nat) : M Bool := do return ((entryOf (← get) va).map (·.ha)).getD false

/-! ### The spill region (R109, R162, R312) -/

/-- Where pack frames and lane images start in a context's spill region: above the granule images (R314). -/
def spillFirst : Nat := 9 * 2 ^ 20

/-- Take `n` bytes of the context's spill region, aligned to `al`; at its end the region is used again from the start
(DESIGN CHOICE, LOG 12). -/
def allocSpill (ctx n al : Nat) : M Word := do
  let s ← getS
  let x := s.ctx ctx
  let next := (max x.spillNext spillFirst + al - 1) / al * al
  let at_ := if next + n ≤ x.spillSz then next else spillFirst
  setS (s.setCtx ctx { x with spillNext := at_ + n })
  return x.spill + BitVec.ofNat 64 at_

/-- The first entry of any TLB of the device that covers an address of a context. -/
def anyTlb (s : State) (ctx va : Nat) : Option TlbEntry :=
  (s.cores.findSome? fun c => tlbFind c.2.tlb ctx va).or (s.clusters.findSome? fun c => tlbFind c.2.tlb ctx va)

/-- The translation of an address of memory that the runtime keeps resident and mapped (R106, R109, R284): what a TLB of the
core or its cluster gives, in programmable mode any TLB, then the tables; `none` where nothing gives it (DESIGN CHOICE, LOG 12). -/
def residentEntry (w : W) (ctx core va : Nat) : Option TlbEntry :=
  let s := w.st
  ((tlbFind (s.core core).tlb ctx va).or (tlbFind (s.cluster (clusterOf core)).tlb ctx va)).or
    ((if (s.ctx ctx).programmable then anyTlb s ctx va else none).or (walkTables s (view w) ctx va))

/-- The physical key of such an address. -/
def residentKey (w : W) (ctx core va : Nat) : Option Nat :=
  (residentEntry w ctx core va).map (fun e => canonPa w.st.dev (e.pa va))

/-- Write bytes to resident memory of a context from a key on, looking each page up as it is reached; a page's write waits while its copy
for a memory snapshot has no room (R339). -/
def storeRun (ctx core : Nat) (k : Option Nat) (va : Word) (bs : List Byte) : M Unit :=
  match bs with
  | [] => pure ()
  | b :: r => do
    let k ← (if va.toNat % 4096 = 0 then do return residentKey (← get) ctx core va.toNat else return k)
    match k with
    | some k => putKeys (some (dieOf core)) k [b]
    | none => pure ()
    storeRun ctx core (k.map (· + 1)) (va + 1) r

/-- Write bytes to resident memory of a context; bytes of a page without a translation are dropped (DESIGN CHOICE, LOG 12). -/
def storeResident (ctx core : Nat) (va : Word) (bs : List Byte) : M Unit := do
  storeRun ctx core (residentKey (← get) ctx core va.toNat) va bs

/-- The bytes of a lane image (R162): 32 words, bit i of word j for lane 32j + i. -/
def imageBytes (m : Lanes) : List Byte := leBytes 128 m.toNat

/-- Write a lane image to a context's spill region; its address (R162). -/
def putImage (ctx core : Nat) (m : Lanes) : M Word := do
  let va ← allocSpill ctx 128 128
  storeResident ctx core va (imageBytes m)
  return va &&& 0x01FFFFFFFFFFFF80

/-- Write a lane image to the pack's part of the spill region and point FLTMASKP at it (R162, R304). -/
def writeImage (m : Lanes) : M Unit := do
  let who ← getWho
  let va ← putImage who.ctx who.core m
  modP fun p => { p with sys := { p.sys with fltmaskp := va } }

/-! ### Taking a trap and returning from one (R22-R24) -/

/-- The entry of R22: the trap registers are written, the privilege level becomes handler and PC becomes TVEC. `tl` is the
length field of the instruction at PC. -/
def Pack.enterHandler (p : Pack) (tvec : Word) (cause : Nat) (val : Word) (tl : BitVec 2) : Pack :=
  { p with
    sys := { p.sys with tpc := p.pc, tcause := BitVec.ofNat 64 (cause % 256), tval := val,
                        tstat := BitVec.setWidth 64 (tl ++ p.priv) }
    priv := 1
    pc := tvec &&& 0xFFFFFFFFFFFFFFFC
    prog := {} }

/-- R23: the pack stops, its trap registers as they were, and a context-fault record is posted. What FLTADDR and the lane image would
have taken is kept for a trap delivered anew (R315). -/
def stopPack (cause : Nat) (val : Word) (flt : Option Word) (img : Option Lanes) : M Unit := do
  let who ← getWho
  let p ← getP
  setP { p with status := .stopped cause val flt img, prog := {} }
  let seq ← nextSeq who.ctx
  postRecord who.ctx (contextRecord 1 seq (packId who.core who.slot p.width) (cause % 256) who.ctx p.pc val)

/-- Take a trap (R22, R23): deliver it at user level where a handler is installed, otherwise stop the pack. FLTADDR and the
lane image are written for a delivered trap whose cause has them (R301). -/
def takeTrap (cause : Nat) (val : Word) (tl : BitVec 2) (flt : Option Word) (img : Option Lanes) : M Unit := do
  let p ← getP
  let x ← getCtx
  if p.priv == 0 && x.tvec &&& 0xFFFFFFFFFFFFFFFC != 0 then
    match img with
    | some m => writeImage m
    | none => pure ()
    match flt with
    | some a => modP fun p => { p with sys := { p.sys with fltaddr := a &&& 0x01FFFFFFFFFFFFFF } }
    | none => pure ()
    modP fun p => p.enterHandler x.tvec cause val tl
  else stopPack cause val flt img

/-- Return from the handler (R24): PC := TPC and the level saved in TSTAT. -/
def Pack.leaveHandler (p : Pack) : Pack :=
  { p with pc := p.sys.tpc, priv := p.sys.tstat.extractLsb' 0 2, prog := {} }

/-- The 128-byte line of an address (R11, R304). -/
def lineOf (va : Word) : Word := va &&& 0xFFFFFFFFFFFFFF80

/-- A page fault (R303): parked with its image, FLTADDR and fault record in pager mode at user level (R304), delivered as
cause 0x07 in deliver mode, stopping the pack at handler level. The image of a fetch is empty; one of an instruction that is being replayed leaves
the lanes still to replay (R306; DEDUCED, LOG 26). -/
def takePageFault (va : Word) (source : Nat) (kind : BitVec 3) (tl : BitVec 2) (img : Option Lanes) : M Unit := do
  let who ← getWho
  let p ← getP
  let x ← getCtx
  if p.priv != 0 then stopPack 0x07 va (some (lineOf va)) img
  else if x.deliver then takeTrap 0x07 va (if source == 1 then 0 else tl) (some (lineOf va)) img
  else
    writeImage (img.getD 0)
    let seq ← nextSeq who.ctx
    modP fun p =>
      { p with sys := { p.sys with fltaddr := lineOf va &&& 0x01FFFFFFFFFFFFFF }
               status := .parked seq none (source == 1) va
               prog := { replay := if source == 1 then p.prog.replay else none } }
    modCtx fun x => { x with faults := Table.set x.faults seq { src := .pack who.core who.slot who.uid } }
    postRecord who.ctx
      (faultRecord seq p.id.lpid.toNat who.core who.slot who.ctx source kind (lineOf va).toNat)

/-- Send misses to be walked: to the cluster's walk scheduler as one batch (R189), or to the core's walker routine (R190); the
pack waits for them. -/
def queueMisses (vas : List Nat) (kind : BitVec 3) : M Unit := do
  let who ← getWho
  let s ← getS
  let p ← getP
  let pages := (vas.map (fun va => va / 4096)).dedup
  let w ← get
  setP { p with prog := { p.prog with wait := some { why := .walk pages, instr := w.instr } } }
  if (s.ctx who.ctx).programmable then
    modS fun s =>
      let c := s.core who.core
      s.setCore who.core { c with misses := c.misses ++ pages.map (fun pg =>
        { ctx := who.ctx, page := pg, kind, slot := who.slot, uid := who.uid, packid := packId who.core who.slot p.width }) }
  else
    modS fun s =>
      let k := clusterOf who.core
      let c := s.cluster k
      let ws := pages.map (fun pg =>
        { core := who.core, slot := who.slot, uid := who.uid, ctx := who.ctx, page := pg, batch := c.batches : Walk })
      let room := 64 - c.walks.length
      s.setCluster k { c with batches := c.batches + 1, walks := c.walks ++ ws.take room, queued := c.queued ++ ws.drop room }

/-- A region restart becomes due (R325, R326): it is taken at the pack's next boundary by REGION_RESTART; the third one needed
is not taken, and cause 0x12 is, at the instruction itself. -/
def restartRegion (cause : Nat) (tl : BitVec 2) : M Unit := do
  let p ← getP
  if p.sys.rgnretry.toNat ≥ 2 then takeTrap 0x12 (BitVec.ofNat 64 cause) tl none none
  else setP { p with restart := some cause }

/-- What becomes of a pack whose instruction stops. -/
def handleStop (e : Stop) : M Unit := do
  let w ← get
  let tl := (opndOf w.instr).l
  match e with
  | .trap cause val flt img => takeTrap cause val tl flt img
  | .pageFault va source kind img => takePageFault va source kind tl img
  | .miss vas kind => queueMisses vas kind
  | .block why => modP fun p => { p with prog := { p.prog with wait := some { why, instr := w.instr } } }
  | .restart cause => restartRegion cause tl
  | .code _ => pure ()

/-- What becomes of a pack whose instruction stops; one whose stop must write to a block that has no room to be copied waits first
(R339). -/
def stopM (e : Stop) : M Unit :=
  tryCatch (handleStop e) fun e => do
    modify kept
    match e with
    | .block why => handleStop (.block why)
    | _ => pure ()

/-- The end of an instruction or event: its bytes reach memory and no pack is issuing any more. -/
def finishIssue (s0 : State) (w : W) : State := { finish s0 w with cur := none }

/-- On whose behalf the pack `p` of a slot runs. -/
def issuer (k : Nat × Nat) (p : Pack) : Who :=
  { ctx := p.id.ctx, core := k.1, slot := k.2, uid := p.id.uid, phys := p.id.walker.isSome }

/-- Run a meaning for the pack that is issuing: a next state whether it completes, traps, parks or waits; a fault only when no
pack is issuing. -/
def perform (i : Instr) (m : M Unit) (s : State) : Host.Outcome State Fault Refusal :=
  match s.cur, s.curPack? with
  | some k, some p =>
    match m (startW s (issuer k p) i) with
    | .ok _ w => .next (finishIssue s w)
    | .error e w =>
      match stopM e (kept w) with
      | .ok _ w' => .next (finishIssue s w')
      | .error _ w' => .next (finishIssue s w')
  | _, _ => .fault .noPack

/-- Run a meaning that only changes the issuing pack and always completes. -/
def onPack (s : State) (f : Pack → Pack) : Host.Outcome State Fault Refusal :=
  match s.curPack? with
  | some p => .next { s.setCurPack (f p) with cur := none }
  | none => .fault .noPack

/-- On whose behalf an event runs, before it turns to a party. -/
def noWho : Who := { ctx := 0, core := 0, slot := 0, uid := 0, direct := true }

/-- Run an event: a next state always; an event that cannot happen now leaves the state as it is (DESIGN CHOICE, LOG 17), and after a thermal trip
none does anything (R345). -/
def event (s : State) (m : M Unit) : Host.Outcome State Fault Refusal :=
  if s.dev.tripped then .next s
  else match m (startW s noWho (.nop {})) with
  | .ok _ w => .next (finishIssue s w)
  | .error _ w => .next (finishIssue s (kept w))

/-- Run a part of an event on behalf of another party. -/
def asWho {α : Type} (who : Who) (m : M α) : M α := do
  let old ← getWho
  modify fun w => { w with who }
  let r ← m
  modify fun w => { w with who := old }
  return r

/-- Run a part of an event for the pack of a slot, as its instruction: the pack completes it, traps, parks or waits. -/
def asPack (core slot : Nat) (i : Instr) (m : M Unit) : M Unit := do
  let s ← getS
  match s.pack? core slot with
  | none => pure ()
  | some p =>
    let old ← get
    modify fun w => { w with
      st := { s with cur := some (core, slot) }
      instr := i
      who := issuer (core, slot) p }
    keep
    try m
    catch e => do
      modify kept
      stopM e
    modify fun w => { w with st := { w.st with cur := none }, instr := old.instr, who := old.who }
    keep

/-- Drop an event that cannot happen now. -/
def notNow {α : Type} : M α := throw (.code 0)

end Sys2Proof.Machine
end

