-- ==== Sys2Proof/Machine/Operands.lean ====
section
/-! DEFINITION. Operands of lane instructions: register numbers, elements, participating lanes, and the checks that an
instruction's registers meet at issue (spec/02_encoding.md R33-R36, R40; spec/06_lane_instructions.md R124, R125;
spec/13_faults_and_preemption.md R321, R330). -/

namespace Sys2Proof

/-- The vector register that D names (R33). -/
def Opnd.vd (o : Opnd) : Nat := (o.x.dh ++ o.d).toNat
/-- The vector register that A names. -/
def Opnd.va (o : Opnd) : Nat := (o.x.ah ++ o.a).toNat
/-- The vector register that B names. -/
def Opnd.vb (o : Opnd) : Nat := (o.x.bh ++ o.b).toNat
/-- The vector register that C names. -/
def Opnd.vc (o : Opnd) : Nat := (o.x.ch ++ o.x.c).toNat
/-- The general register, predicate, handle or tile that C names. -/
def Opnd.rc (o : Opnd) : Nat := o.x.c.toNat
/-- The rounding mode; RNE in a base word (R32, R39). -/
def Opnd.rm (o : Opnd) : Nat := o.x.rm.toNat
/-- IMM16 as a signed number (R41). -/
def Opnd.imm (o : Opnd) : Int := o.x.imm16.toInt
/-- IMM16 sign-extended to 64 bits. -/
def Opnd.immW (o : Opnd) : Word := o.x.imm16.signExtend 64

end Sys2Proof

namespace Sys2Proof.Machine

/-! ### Lanes and their registers -/

/-- A vector register of a lane. -/
def Lane.reg (ln : Lane) (n : Nat) : VReg := getAt {} ln.v n
/-- The bits of `c` registers from `n` up, the low-numbered register lowest (R34). -/
def Lane.readV (ln : Lane) (n : Nat) : Nat → Nat
  | 0 => 0
  | c + 1 => (ln.reg n).val.toNat + 2 ^ 32 * ln.readV (n + 1) c
/-- Write `c` registers from `n` up; each becomes full and loses its poisoned bit (R125). -/
def Lane.writeV (ln : Lane) (n : Nat) : Nat → Nat → Lane
  | 0, _ => ln
  | c + 1, x => ({ ln with v := putAt {} ln.v n { val := BitVec.ofNat 32 x } }).writeV (n + 1) c (x / 2 ^ 32)
/-- A predicate. -/
def Lane.pred (ln : Lane) (n : Nat) : Bool := ln.p.getLsbD n
/-- Write a predicate. -/
def Lane.setPred (ln : Lane) (n : Nat) (b : Bool) : Lane :=
  { ln with p := if b then ln.p ||| (1#8 <<< n) else ln.p &&& ~~~(1#8 <<< n) }

/-- A lane of a pack; one not listed is as at pack start. -/
def Pack.lane (p : Pack) (l : Nat) : Lane := getAt {} p.lanes l

/-- Apply `f` to the lanes of a mask among the `n` lanes from `i` up. -/
def mapLanes (ls : Lanes) (f : Nat → Lane → Lane) : Nat → Nat → List Lane → List Lane
  | 0, _, l => l
  | n + 1, i, [] => (if ls.getLsbD i then f i {} else {}) :: mapLanes ls f n (i + 1) []
  | n + 1, i, x :: r => (if ls.getLsbD i then f i x else x) :: mapLanes ls f n (i + 1) r

/-- Change the lanes of a mask. -/
def Pack.onLanes (p : Pack) (ls : Lanes) (f : Nat → Lane → Lane) : Pack :=
  { p with lanes := mapLanes ls f p.width 0 p.lanes }

/-- The mask of the lanes whose lane satisfies `f`, among the `n` lanes from `i` up. -/
def maskWhere (f : Lane → Bool) : Nat → Nat → List Lane → Lanes
  | 0, _, _ => 0
  | n + 1, i, [] => (if f {} then 1#1024 <<< i else 0) ||| maskWhere f n (i + 1) []
  | n + 1, i, x :: r => (if f x then 1#1024 <<< i else 0) ||| maskWhere f n (i + 1) r

/-- The lanes of a pack in which predicate `n` is 1. -/
def Pack.predLanes (p : Pack) (n : Nat) : Lanes := maskWhere (fun ln => ln.pred n) p.width 0 p.lanes

/-- The lanes that the guard admits (R40). -/
def Pack.guardLanes (p : Pack) (o : Opnd) : Lanes :=
  if o.x.pe then (if o.x.pn then ~~~(p.predLanes o.x.pg.toNat) else p.predLanes o.x.pg.toNat) else BitVec.allOnes 1024

/-- The participating lanes (R124): the active lanes that the guard admits; on a replay, the occupied lanes of the image, the
guard not being evaluated again (R306). -/
def Pack.part (p : Pack) (o : Opnd) : Lanes :=
  match p.prog.left with
  | some m => m &&& p.occ
  | none =>
    match p.prog.replay with
    | some m => m &&& p.occ
    | none => p.mask &&& p.guardLanes o

/-- The participating lanes in ascending order. -/
def Pack.partList (p : Pack) (o : Opnd) : List Nat := lanesOf (p.part o) p.width

/-! ### Elements (R124) -/

/-- Element `e` of `n` bits. -/
def elem (n x e : Nat) : Nat := x / 2 ^ (n * e) % 2 ^ n
/-- The `c` elements of an operand, element 0 first. -/
def elems (n c x : Nat) : List Nat := (List.range c).map (elem n x)
/-- Elements put together, element 0 lowest. -/
def joinElems (n : Nat) (es : List Nat) : Nat := es.foldr (fun e r => e % 2 ^ n + 2 ^ n * r) 0

/-- Operand B of a lane instruction: a literal reads the same in every lane (R28). -/
def bValue (o : Opnd) (c : Nat) (ln : Lane) : Nat :=
  match o.lit with
  | some y => y.toNat % 2 ^ (32 * c)
  | none => ln.readV o.vb c

/-- D := f of the elements of A, over registers of one width. -/
def mapElems1 (n c : Nat) (o : Opnd) (f : Nat → Nat) (ln : Lane) : Lane :=
  ln.writeV o.vd c (joinElems n ((elems n (32 * c / n) (ln.readV o.va c)).map f))

/-- D := f of the elements of A and B. -/
def mapElems2 (n c : Nat) (o : Opnd) (f : Nat → Nat → Nat) (ln : Lane) : Lane :=
  ln.writeV o.vd c (joinElems n (List.zipWith f (elems n (32 * c / n) (ln.readV o.va c))
    (elems n (32 * c / n) (bValue o c ln))))

/-- D := f of the elements of A, B and C. -/
def mapElems3 (n c : Nat) (o : Opnd) (f : Nat → Nat → Nat → Nat) (ln : Lane) : Lane :=
  ln.writeV o.vd c (joinElems n ((List.range (32 * c / n)).map fun e =>
    f (elem n (ln.readV o.va c) e) (elem n (bValue o c ln) e) (elem n (ln.readV o.vc c) e)))

/-- The registers that operand D covers under a type and its width field (R34). -/
def dCount (t : BitVec 4) (o : Opnd) : Nat := (vType t).count o.x.wd

/-! ### The checks at issue -/

/-- A vector operand that an instruction reads: which (0 A, 1 B, 2 C, 3 D), the registers it covers, its empty action. -/
structure Src where
  which : Nat
  base : Nat
  count : Nat
  trap : Bool
deriving DecidableEq, Repr

/-- The vector operands that an instruction reads. -/
def sources (fm : Form) (o : Opnd) : List Src :=
  (if fm.a.isV then [{ which := 0, base := o.va, count := fm.a.count o.x.wa, trap := o.x.ea : Src }] else []) ++
  (if (fm.bKind o).isV then [{ which := 1, base := o.vb, count := (fm.bKind o).count o.x.wb, trap := o.x.eb : Src }] else []) ++
  (if fm.c.isV then [{ which := 2, base := o.vc, count := fm.c.count o.x.wc, trap := o.x.ec : Src }] else []) ++
  (if fm.dRead && fm.d.isV then [{ which := 3, base := o.vd, count := fm.d.count o.x.wd, trap := false : Src }] else [])

/-- The registers that operand D covers where the instruction writes it. -/
def destRegs (fm : Form) (o : Opnd) : List Nat :=
  if fm.dWrite && fm.d.isV then (List.range (fm.d.count o.x.wd)).map (o.vd + ·) else []

/-- The registers of an operand. -/
def Src.regs (s : Src) : List Nat := (List.range s.count).map (s.base + ·)

/-- R35: does every register that an operand covers lie below the allotment? -/
def allotOk (fm : Form) (o : Opnd) (allot : Nat) : Bool :=
  (sources fm o).all (fun s => s.base + s.count ≤ allot) &&
    (!fm.d.isV || o.vd + fm.d.count o.x.wd ≤ allot)

/-- The first lane in which an operand has an empty register, with the lowest such register. -/
def firstEmpty (p : Pack) (s : Src) : List Nat → Option (Nat × Nat)
  | [] => none
  | l :: r =>
    match s.regs.find? (fun n => !((p.lane l).reg n).full) with
    | some n => some (l, n)
    | none => firstEmpty p s r

/-- The empty registers of operands, as (lane, register). -/
def emptyRegs (p : Pack) (ls : List Nat) (ss : List Src) : List (Nat × Nat) :=
  ls.flatMap fun l => ss.flatMap fun s => (s.regs.filter (fun n => !((p.lane l).reg n).full)).map (fun n => (l, n))

/-- The first poisoned register of operands with what was consumed. -/
def firstBad (p : Pack) (ls : List Nat) (ss : List Src) : Option Consumed :=
  (ss.flatMap fun s => ls.flatMap fun l => s.regs.filterMap fun n => ((p.lane l).reg n).bad).head?

/-- Is a value on its way into a register (R125)? -/
def Pack.inFlight (p : Pack) (l n : Nat) : Bool :=
  p.fills.any (fun f => f.lane == l && f.reg ≤ n && n < f.reg + f.vals.length)

/-- Must a writer of a register wait (R125)? On a replay a value in flight counts, and one due from a Scent engine: what else the parked fault left
due is what the replay itself brings. -/
def Pack.mustSettle (p : Pack) (l n : Nat) : Bool :=
  let r := (p.lane l).reg n
  r.due && (p.prog.replay.isNone || r.sc || p.inFlight l n)

/-- What the checks say. -/
inductive Ready where
  | go
  | stop (e : Stop)
  /-- A register to be read fails its check. -/
  | damaged
deriving DecidableEq, Repr

/-- Does a register that operands cover in lanes fail its check (R330)? -/
def anyUe (p : Pack) (ls : List Nat) (ss : List Src) : Bool := ls.any fun l => ss.any fun s => s.regs.any fun n => ((p.lane l).reg n).ue

/-- The checks of R36, R125 and R321 on the operands of the participating lanes. Between a pre-emption or restore entry and the vacating the
frame holds the full and the poisoned bits, and only a register's own check counts (R310, R321). A poisoned register traps whatever the empty
action, before another source's empty-source trap (DESIGN CHOICE, LOG 42); the empty-source trap comes before blocking. -/
def regCheck (p : Pack) (ls : List Nat) (ss : List Src) (dest : List Nat) : Ready :=
  if p.pre.isSome then (if anyUe p ls ss then .damaged else .go)
  else match firstBad p ls ss with
  | some b => .stop (.trap (if b.ue then 0x21 else 0x11) b.addr none none)
  | none =>
    match (ss.filter (·.trap)).findSome? (fun s => (firstEmpty p s ls).map (fun e => (s, e))) with
    | some (s, l, n) => .stop (.trap 0x04 (BitVec.ofNat 64 (n + s.which * 256 + l * 65536)) none none)
    | none =>
      let waits := emptyRegs p ls ss
      if waits ≠ [] then .stop (.block (.full waits))
      else
        let due := ls.flatMap fun l => (dest.filter (p.mustSettle l)).map (fun n => (l, n))
        if due ≠ [] then .stop (.block (.settled due))
        else if anyUe p ls ss then .damaged
        else .go

/-- The checks of an instruction on its operands (R35, R36, R125). -/
def operandCheck (i : Instr) (p : Pack) : Ready :=
  match formOf i with
  | none => .go
  | some fm =>
    let o := opndOf i
    if !allotOk fm o p.allot then .stop (.trap 0x01 (BitVec.setWidth 64 (firstWord i)) none none)
    else regCheck p (p.partList o) (sources fm o) (destRegs fm o)

/-! ### Consumption (R321, R330) -/

/-- Does the core run in mirrored mode (R329)? -/
def State.mirrored (s : State) (core : Nat) : Bool := s.packs.any (fun e => e.1.1 == core && e.2.id.mirr)

/-- Is an event of the pack inside a region: RGNPC nonzero, at user level (R324)? -/
def Pack.inRegion (p : Pack) : Bool := p.sys.rgnpc != 0 && p.priv == 0

/-- CKI after a consumption outside a region: its sticky bit is set and COUNT grows, saturating. -/
def ckiConsume (cki : Word) (ue : Bool) : Word :=
  let n := (cki >>> 48).toNat
  ((cki ||| (if ue then 2 else 1)) &&& 0x0000FFFFFFFFFFFF) ||| (BitVec.ofNat 64 (min (n + 1) 0xFFFF) <<< 48)

/-- Is the trap bit of CKI set for poison or for an uncorrectable error? -/
def ckiTraps (cki : Word) (ue : Bool) : Bool := cki.getLsbD (if ue then 33 else 32)

/-- A consumption that is taken at the instruction itself: inside a region it restarts it; outside it traps where CKI says so
and counts otherwise. -/
def consumeHere (ue : Bool) (addr : Word) : M Unit := do
  let p ← getP
  let cause := if ue then 0x21 else 0x11
  if p.inRegion then throw (.restart cause)
  else
    setP { p with sys := { p.sys with cki := ckiConsume p.sys.cki ue } }
    if ckiTraps p.sys.cki ue then
      keep
      trapM cause addr

/-- Registers of the operands that fail their check: a good mirror copy corrects them and is logged; otherwise the read consumes
an uncorrectable error (R321, R330). -/
def repairM (ls : List Nat) (ss : List Src) : M Unit := do
  let who ← getWho
  let s ← getS
  let p ← getP
  let bad := ls.flatMap fun l => ss.flatMap fun x =>
    (x.regs.filter (fun n => ((p.lane l).reg n).ue)).map (fun n => (l, n))
  let fixable (e : Nat × Nat) : Bool := s.mirrored who.core && !((p.lane e.1).reg e.2).mue
  for e in bad.filter fixable do
    modP fun p => p.onLanes (1#1024 <<< e.1) fun _ ln =>
      { ln with v := putAt {} ln.v e.2 { ln.reg e.2 with ue := false, mue := false } }
    modS fun s =>
      let d := s.die (dieOf who.core)
      s.setDie (dieOf who.core) { d with errors := d.errors ++ [.corrected who.core who.slot e.1 e.2] }
  if bad.any (fun e => !fixable e) then consumeHere true 0

/-- The checks of an instruction on its operands, as a part of a meaning. -/
def checkOperands (i : Instr) : M Unit := do
  let p ← getP
  match operandCheck i p with
  | .go => pure ()
  | .stop e => throw e
  | .damaged =>
    let o := opndOf i
    match formOf i with
    | some fm => repairM (p.partList o) (sources fm o)
    | none => pure ()

/-- A lane instruction that touches only registers, predicates and mask words (R126): its operands are checked, then it takes
effect as a whole. -/
def laneOp (i : Instr) (eff : Pack → Pack) (s : State) : Host.Outcome State Fault Refusal :=
  match s.curPack? with
  | none => .fault .noPack
  | some p =>
    match operandCheck i p with
    | .go => .next { s.setCurPack (eff p) with cur := none }
    | _ => perform i (do checkOperands i; modP eff) s

end Sys2Proof.Machine
end

