-- ==== Sys2Proof/Machine/Divergence.lean ====
section
/-! DEFINITION. The reconvergence stack (spec/05_packs_and_flows.md R110, R113) and the mask of a pack (R94). -/

namespace Sys2Proof.Machine

/-- Take up an entry of the stack: a pending path leaves a join entry behind, a join or exit entry is popped. -/
def Pack.takeEntry (p : Pack) (e : Entry) (r : List Entry) : Pack :=
  match e.kind with
  | .pending =>
    { p with stack := { kind := .join, pc := e.ra, mask := 0, ra := e.ra } :: r, mask := e.mask &&& p.occ, pc := e.pc }
  | _ => { p with stack := r, mask := e.mask &&& p.occ, pc := e.ra }

/-- The loop of Resume (R113); an entry is passed over at most twice. -/
def Pack.resumeLoop : Nat → Pack → Pack
  | 0, p => p
  | n + 1, p =>
    match p.stack with
    | [] => p
    | e :: r =>
      let q := p.takeEntry e r
      if q.mask = 0 then Pack.resumeLoop n q else q

/-- Resume() (R113). With an empty stack the pack stays as it is; whether it has ended shows in its occupancy. -/
def Pack.resume (p : Pack) : Pack := p.resumeLoop (2 * p.stack.length + 1)

/-- Resume() when the current path has no active lane. -/
def Pack.resumeIfEmpty (p : Pack) : Pack := if p.mask = 0 then p.resume else p

/-- The mask with the bits that the guard excludes kept as they are (R144): active lanes that do not participate keep theirs. -/
def Pack.newMask (p : Pack) (o : Opnd) (m : Lanes) : Lanes :=
  let kept := p.mask &&& ~~~(p.part o)
  ((m &&& ~~~kept) ||| kept) &&& p.occ

/-- Mask word j of a mask (R94). -/
def maskWord (m : Lanes) (j : Nat) : Half := m.extractLsb' (32 * j) 32

/-- ksum, or the occupancy summary: bit j set when word j is not zero (R94). -/
def summary (m : Lanes) : Nat :=
  (List.range 32).foldl (fun r j => r + (if maskWord m j = 0 then 0 else 2 ^ j)) 0

/-- A mask with word j replaced. -/
def setWord (m : Lanes) (j : Nat) (x : Half) : Lanes :=
  (m &&& ~~~(BitVec.setWidth 1024 (BitVec.allOnes 32) <<< (32 * j))) ||| (BitVec.setWidth 1024 x <<< (32 * j))

/-- The lanes that a pack of a width has. -/
def widthMask (w : Nat) : Lanes := BitVec.ofNat 1024 (2 ^ w - 1)

/-- The number of lanes of a mask. -/
def laneCount (m : Lanes) (w : Nat) : Nat := (lanesOf m w).length

end Sys2Proof.Machine
end

