-- ==== Sys2Proof/Machine/Whistle.lean ====
section
/-! DEFINITION. Raising the Whistle (spec/14_dies_and_devices.md R335). -/

namespace Sys2Proof.Machine

/-- Raise the Whistle (R335): the trigger takes the next number and waits to latch; a memory snapshot that is asked for starts,
or is refused while one is in progress. Gives the number and whether it was refused. -/
def whistle (tag : BitVec 32) (mem : Bool) (source : BitVec 2) (issuer : Word) : M (Nat × Bool) := do
  let d := (← getS).dev
  let seq := d.seq % (2 ^ 63 - 1) + 1
  let refused := mem && d.snapshot.isSome
  let code : BitVec 2 := if !mem then 0 else if refused then 2 else 1
  modDev fun d => { d with
    seq
    triggers := d.triggers ++ [{ seq, tag, mem := code, source, issuer, latched := [] }]
    snapshot := if mem && !refused then
        some { seq, cut := [], staged := [], streamed := [], next := 0, failed := false }
      else d.snapshot }
  return (seq, refused)

end Sys2Proof.Machine
end

