-- ==== Sys2Proof/Machine/Access.lean ====
section
/-! DEFINITION. Reaching memory: handle records, scratchpad addresses, the checks of a scalar and of a lane access, what an
access consumes, the store path with the store hash, and the Trail (spec/01_sequential_machine.md R13-R15,
spec/08_memory_model.md R171-R187, spec/12_scheduling.md R297-R299). -/

namespace Sys2Proof.Machine

/-! ### Handle records (R178-R182) -/

/-- The fields of a record that every access reads. -/
structure Hnd where
  valid : Bool
  kind : Nat
  space : Bool
  ro : Bool
  base : Nat
  extent : Nat
  swb : Nat
  swl : Nat
  sws : Nat
  stride : Nat
deriving DecidableEq, Repr

/-- An invalid record: extent 0. -/
def Hnd.invalid : Hnd :=
  { valid := false, kind := 0, space := false, ro := false, base := 0, extent := 0, swb := 0, swl := 0, sws := 0, stride := 0 }

/-- The bytes of a group of a tensor format, or of an element (R182); none for an invalid code. -/
def fmtGroup (fmt : Nat) : Option Nat :=
  match fmt with
  | 14 => some 72 | 16 => some 72 | 17 => some 56 | 18 => some 40 | _ => none

/-- Element bytes of a tensor format 0-13 (R37, R182). -/
def fmtBytes (fmt : Nat) : Nat := typeBits (BitVec.ofNat 4 fmt) / 8

/-- Is a format code of a tensor record valid (R182)? -/
def fmtValid (fmt : Nat) : Bool := fmt ≤ 14 || (16 ≤ fmt && fmt ≤ 18)

/-- Sizes of the dimensions of a tensor record, dimension 0 first. -/
def tensorSizes (r : Nat) : List Nat := [bits r 215 192, bits r 239 216, bits r 263 240, bits r 287 264]
/-- Byte strides of dimensions 1 to 3. -/
def tensorStrides (r : Nat) : List Nat := [bits r 327 288, bits r 367 328, bits r 407 368]
/-- Element format. -/
def tensorFmt (r : Nat) : Nat := bits r 132 128
/-- Number of dimensions minus 1. -/
def tensorNdim (r : Nat) : Nat := bits r 134 133
/-- Scale mode. -/
def tensorScMode (r : Nat) : Nat := bits r 136 135
/-- Handle of the scale array. -/
def tensorSch (r : Nat) : Nat := bits r 142 137
/-- Signed scale exponent. -/
def tensorScExp (r : Nat) : Int := (BitVec.ofNat 16 (bits r 159 144)).toInt

/-- The byte offset of an element (R182). -/
def tensorOffset (r : Nat) (i0 i1 i2 i3 : Nat) : Nat :=
  let st := tensorStrides r
  i1 * st.getD 0 0 + i2 * st.getD 1 0 + i3 * st.getD 2 0 +
    (match fmtGroup (tensorFmt r) with
     | some g => i0 / 64 * g
     | none => i0 * fmtBytes (tensorFmt r))

/-- Are the tensor's own fields valid (R182)? That SCH names a valid buffer record is checked by the engine that reads it. -/
def tensorOk (r : Nat) : Bool :=
  let sz := tensorSizes r
  let st := tensorStrides r
  let nd := tensorNdim r
  let fmt := tensorFmt r
  fmtValid fmt &&
    (List.range 4).all (fun d => if d ≤ nd then sz.getD d 0 ≠ 0 else sz.getD d 0 == 1 && st.getD (d - 1) 0 == 0) &&
    (match fmtGroup fmt with | some _ => sz.getD 0 0 % 64 == 0 | none => true) &&
    (tensorOffset r (sz.getD 0 0 - 1) (sz.getD 1 0 - 1) (sz.getD 2 0 - 1) (sz.getD 3 0 - 1) +
        (match fmtGroup fmt with | some g => g | none => fmtBytes fmt) ≤ bits r 121 64) &&
    (tensorScMode r != 0 || (tensorSch r == 0 && bits r 159 144 == 0))

/-- Is the swizzle valid (R180)? -/
def swizzleOk (swb swl sws extent : Nat) : Bool :=
  if swb = 0 then swl == 0 && sws == 0
  else swb ≤ 6 && sws ≤ 56 && swl + swb ≤ sws && sws + swb ≤ 57 && extent % 2 ^ (swl + swb) == 0

/-- The common fields of a record, its validity (R178) aside. -/
def hndFields (r : Nat) : Hnd :=
  let tensor := bits r 63 60 == 2
  { valid := true
    kind := bits r 63 60
    space := bit r 59
    ro := bit r 58
    base := bits r 56 0
    extent := bits r 121 64
    swb := if tensor then bits r 410 408 else bits r 194 192
    swl := if tensor then bits r 415 411 else bits r 199 195
    sws := if tensor then bits r 421 416 else bits r 205 200
    stride := if tensor then bits r 327 288 else bits r 175 128 }

/-- Does a record pass every check of R178-R182? -/
def recordOk (r : Nat) : Bool :=
  let h := hndFields r
  let buffer := h.kind == 1 && r / 2 ^ 206 == 0 && bits r 191 176 == 0
  let tensor := h.kind == 2 && bits r 511 422 == 0 && bits r 191 160 == 0 && bits r 143 143 == 0 && tensorOk r
  (buffer || tensor) && bits r 127 122 == 0 && bits r 57 57 == 0 && h.extent ≤ 2 ^ 57 &&
    swizzleOk h.swb h.swl h.sws h.extent && (!h.space || h.base + h.extent ≤ 0x1800000)

/-- The record as accesses read it; an invalid one has extent 0. -/
def parseHnd (r : Nat) : Hnd := if recordOk r then hndFields r else .invalid

/-- h0 (R14, R190): base 0, the whole space. -/
def flatRecord (phys : Bool) : Nat := 2 ^ 60 + (if phys then 2 ^ 52 else 2 ^ 57) * 2 ^ 64

/-- Swizzle (R180). -/
def Hnd.swizzle (h : Hnd) (a : Nat) : Nat :=
  if h.swb = 0 then a else a ^^^ (a / 2 ^ h.sws % 2 ^ h.swb * 2 ^ h.swl)

/-- The address of an offset: virtual, or in the cluster scratchpad space. -/
def Hnd.addr (h : Hnd) (a : Nat) : Nat := (h.base + h.swizzle a) % 2 ^ 57

/-- Is R13's bounds check passed? -/
def Hnd.inBounds (h : Hnd) (a n : Nat) : Bool := a + n ≤ h.extent

/-! ### The scratchpad (R171) -/

/-- The key of a byte of a core's scratchpad (DESIGN CHOICE, LOG 4). -/
def scratchKey (core off : Nat) : Nat := 2 ^ 52 + core * 2 ^ 20 + off

/-- The granule of a key. -/
def granuleOf (k : Nat) : Nat := (k - 2 ^ 52) / 16

/-- The granules that `n` bytes at a key touch. -/
def granulesOf (k n : Nat) : List Nat :=
  (List.range ((k % 16 + n + 15) / 16)).map (granuleOf k + ·)

/-- The key of `n` bytes at a cluster scratchpad address of a party; none outside the space or the context's window on the core
that the address names. DEDUCED: LOG 28. -/
def scratchAt (s : State) (who : Who) (a n : Nat) : Option Nat :=
  if a < 24 * 2 ^ 20 then
    let core := clusterOf who.core * 24 + a / 2 ^ 20
    let off := a % 2 ^ 20
    match Table.get? (s.core core).wins who.ctx with
    | some w => if w.base ≤ off && off + n ≤ w.base + w.size then some (scratchKey core off) else none
    | none => none
  else none

/-! ### What an access consumes (R319-R321) -/

/-- Is a unit that the bytes touch uncorrectable (some true), or poisoned (some false)? -/
def consumes (s : State) (k n : Nat) : Option Bool :=
  if isHbm k then
    let ws := (List.range ((k % 32 + n + 31) / 32)).map (k / 32 + ·)
    if ws.any s.hbmUe.contains then some true else if ws.any s.hbmPoison.contains then some false else none
  else if k ≥ 2 ^ 52 then
    let gs := granulesOf k n
    if gs.any s.granUe.contains then some true else if gs.any s.granPoison.contains then some false else none
  else none

/-- An access consumes what its bytes carry, at the instruction itself (R321). -/
def consumeScalar (k n va : Nat) : M Unit := do
  match consumes (← getS) k n with
  | some ue => consumeHere ue (BitVec.ofNat 64 va)
  | none => pure ()

/-! ### Reading a record (R178) -/

/-- Give a page fault of an inner read the image of the lanes that have not finished. -/
def withImage {α : Type} (img : Option Lanes) (m : M α) : M α :=
  tryCatch m fun e =>
    match e with
    | .pageFault va src kind none => throw (.pageFault va src kind img)
    | e => throw e

/-- Read the record of a handle at the issue of an instruction (R178), a load of the instruction; a page fault carries `img`. The slot
of h0 is read as any other, but its record is always that of R14; the walker's h0 reads none (R190). DEDUCED: LOG 25. -/
def readRecord (n : Nat) (img : Option Lanes) : M Nat := do
  let who ← getWho
  if who.phys && n = 0 then return flatRecord true
  else
    let va := ((← getCtx).htab.toNat + 64 * n) % 2 ^ 57
    let k ← withImage img (translate .rd va)
    let bs ← loadKeys k 64
    consumeScalar k 64 va
    return if n = 0 then flatRecord false else leNat bs

/-- Read a handle. -/
def readHandle (n : Nat) (img : Option Lanes) : M Hnd := do return parseHnd (← readRecord n img)

/-! ### Stores -/

/-- Is a virtual address in slot 0 of the context's handle table, where stores are discarded (R14, R178)? DEDUCED: LOG 25. -/
def inSlot0 (x : Ctx) (va : Nat) : Bool := x.htab.toNat ≤ va && va < x.htab.toNat + 64

/-- Store bytes at a key for a party: the snapshot's copy first (R339), then the bytes. -/
def storeAt (k : Nat) (bs : List Byte) : M Unit := do
  let who ← getWho
  beforeWrite (some (dieOf who.core)) k
  storeKeys k bs

/-- One step of the store hash for one part (R299). -/
def hashStep (h addr data : Word) : Word := h.rotateLeft 5 ^^^ addr ^^^ data

/-- The parts of a store: the address and the data of each aligned 8 bytes that it touches, ascending. -/
def storeParts (addr : Nat) (bs : List Byte) : List (Word × Word) :=
  if bs.length ≤ 8 then
    [(BitVec.ofNat 64 (addr / 8 * 8), BitVec.ofNat 64 (leNat bs * 256 ^ (addr % 8)))]
  else (List.range (bs.length / 8)).map fun i =>
    (BitVec.ofNat 64 (addr + 8 * i), BitVec.ofNat 64 (leNat (bs.drop (8 * i)) % 2 ^ 64))

/-- Does the pack belong to a recorded launch whose MODE is not 0 (R297, R299)? -/
def recording : M Bool := do return (← getP).id.records && (← getCtx).trail.mode != 0

/-- The store hash after the steps of some parts (R299). -/
def hashParts (h : Word) (l : List (Word × Word)) : Word := l.foldl (fun h e => hashStep h e.1 e.2) h

/-- A pack whose store hash has caught up with its retired stores, and lags on if it did. -/
def Pack.hashed (p : Pack) : Pack :=
  match p.lag with
  | some l => { p with sys := { p.sys with shash := hashParts p.sys.shash l }, lag := some [] }
  | none => p

/-- A store retires: SHASH takes its steps (R299), or takes them later while it lags (R217, R372). -/
def retireStore (addr : Nat) (bs : List Byte) : M Unit := do
  if ← recording then
    modP fun p =>
      match p.lag with
      | some l => { p with lag := some (l ++ storeParts addr bs) }
      | none => { p with sys := { p.sys with shash := hashParts p.sys.shash (storeParts addr bs) } }

/-- Store through a translated address; slot 0 of the handle table discards (R178). -/
def storeVirtual (virtual : Bool) (va k : Nat) (bs : List Byte) : M Unit := do
  let x ← getCtx
  if virtual && inSlot0 x va then pure () else storeAt k bs

/-! ### Scalar accesses (R15) -/

/-- A scalar access of `n` bytes at an offset: its address and its key, after the checks of R15 in their order. -/
def scalarAccess (acc : Acc) (h : Nat) (off : Word) (n : Nat) : M (Bool × Nat × Nat) := do
  let r ← readHandle h none
  let s ← getS
  let who ← getWho
  let a := off.toNat
  if !r.inBounds a n then trapM 0x05 off
  let va := r.addr a
  let at_ := BitVec.ofNat 64 va
  let write := acc == .wr || acc == .rmw
  if r.space then
    match scratchAt s who va n with
    | none => trapM 0x05 at_
    | some k =>
      if va % n ≠ 0 then trapM 0x06 at_
      if write && r.ro then trapM 0x08 at_
      return (false, va, k)
  else
    if va % n ≠ 0 then trapM 0x06 at_
    if write && r.ro then trapM 0x08 at_
    let k ← translate acc va
    return (true, va, k)

/-! ### Lane accesses (R183, R184) -/

/-- A lane's access that may be performed: lane, address, key. -/
structure LaneAcc where
  lane : Nat
  va : Nat
  key : Nat
deriving DecidableEq, Repr

/-- The accesses of a lane instruction after its checks: whether they are virtual, those that translated, and the lanes left
unfinished with the lowest unmapped address. -/
structure LaneSet where
  virtual : Bool
  accs : List LaneAcc
  unfinished : List Nat
  low : Nat
deriving DecidableEq, Repr

/-- The first element of a list that fails a test. -/
def firstFail {α : Type} (ok : α → Bool) (l : List α) : Option α := l.find? (fun x => !ok x)

/-- The lowest of a list of numbers. -/
def lowest (l : List Nat) : Nat := l.foldl Nat.min (l.headD 0)

/-- Does a page refuse a read-modify-write that is not a PCIe AtomicOp (R177)? -/
def haRefuses (e : TlbEntry) (plain : Bool) : Bool := e.ha && !plain

/-- The protection trap of R177 for one address of a read-modify-write. -/
def checkHa (virtual : Bool) (va : Nat) (plain : Bool) : M Unit := do
  if virtual then
    match entryOf (← get) va with
    | some e => if haRefuses e plain then trapM 0x08 (BitVec.ofNat 64 va)
    | none => pure ()

/-- Steps 6 to 8 of R183: every line is looked up; misses go to be walked together; a line that denies the access traps; the
lanes of unmapped lines stay unfinished. `atomicOp` says that a read-modify-write is one that HA pages take. -/
def laneTranslate (acc : Acc) (atomicOp : Bool) (vs : List (Nat × Nat)) : M LaneSet := do
  let w ← get
  let looked := vs.map fun (l, va) => (l, va, lookup w va)
  let missed := (looked.filter (fun e => e.2.2 == .miss)).map (·.2.1)
  if missed ≠ [] then throw (.miss missed acc.kind)
  let denied := looked.filter fun e =>
    match e.2.2 with
    | .entry x => !permits x acc || peerLost w.st.dev (x.pa e.2.1) || (acc == .rmw && haRefuses x atomicOp)
    | .phys pa => peerLost w.st.dev pa
    | _ => false
  if denied ≠ [] then
    let line := lowest (denied.map (fun e => e.2.1 / 128))
    let a := BitVec.ofNat 64 (lowest ((looked.filter (fun e => e.2.1 / 128 == line)).map (·.2.1)))
    throw (.trap 0x08 a (some a) none)
  let unmapped := looked.filter (fun e => e.2.2 == .absent)
  let low := lowest (unmapped.map (·.2.1))
  let mapped : List (Nat × Nat × Nat) := looked.filterMap fun e =>
    match e.2.2 with
    | .phys pa => some (e.1, e.2.1, pa)
    | .entry x => some (e.1, e.2.1, x.pa e.2.1)
    | _ => none
  for e in mapped do reach (portPa w.st.dev e.2.2)
  let accs : List LaneAcc := mapped.map fun e => { lane := e.1, va := e.2.1, key := canonPa w.st.dev e.2.2 }
  return { virtual := true, accs, unfinished := unmapped.map (·.1), low }

/-- The checks of R183 for the participating lanes with their offsets. Outside pager mode at user level a page fault is raised
here, before any lane commits (R184, R303). -/
def laneAccess (acc : Acc) (atomicOp : Bool) (h n : Nat) (img : Lanes) (offs : List (Nat × Nat)) : M LaneSet := do
  let r ← readHandle h (some img)
  match firstFail (fun e => r.inBounds e.2 n) offs with
  | some e => trapM 0x05 (BitVec.ofNat 64 e.2)
  | none => pure ()
  let s ← getS
  let who ← getWho
  let vs := offs.map fun e => (e.1, r.addr e.2)
  if r.space then
    match firstFail (fun e => (scratchAt s who e.2 n).isSome) vs with
    | some e => trapM 0x05 (BitVec.ofNat 64 e.2)
    | none => pure ()
  match firstFail (fun e => e.2 % n == 0) vs with
  | some e => trapM 0x06 (BitVec.ofNat 64 e.2)
  | none => pure ()
  if (acc == .wr || acc == .rmw) && r.ro && vs ≠ [] then trapM 0x08 (BitVec.ofNat 64 (vs.headD (0, 0)).2)
  if r.space then
    return { virtual := false, unfinished := [], low := 0
             accs := vs.filterMap fun e => (scratchAt s who e.2 n).map fun k => { lane := e.1, va := e.2, key := k } }
  else
    let t ← laneTranslate acc atomicOp vs
    let p ← getP
    let x ← getCtx
    if t.unfinished ≠ [] && (p.priv != 0 || x.deliver) then
      throw (.pageFault (BitVec.ofNat 64 t.low) 0 acc.kind (some (maskOf (offs.map (·.1)))))
    return t

/-- After the finished lanes have been performed: the others park with the instruction (R184). -/
def parkUnfinished (acc : Acc) (t : LaneSet) : M Unit := do
  if t.unfinished ≠ [] then
    keep
    throw (.pageFault (BitVec.ofNat 64 t.low) 0 acc.kind (some (maskOf t.unfinished)))

/-! ### The Trail (R297, R298, R368) -/

/-- Read `n` bytes at a virtual address that the runtime keeps mapped, for the device itself; unmapped bytes read as
`Memory.empty` (DESIGN CHOICE, LOG 12). -/
def loadResident (ctx core va n : Nat) : M Nat := do
  let w ← get
  return leNat ((List.range n).map fun i =>
    match residentKey w ctx core (va + i) with
    | some k => view w k
    | none => Memory.empty)

/-- The address of a site descriptor. -/
def siteDesc (x : Ctx) (i : Nat) : Nat := x.trlbase.toNat + 32 * i

/-- The designated site that `n` bytes at a virtual address touch. -/
def siteOf (t : Trail) (va n : Nat) : Option Nat :=
  (t.sites.find? fun e => va < e.2.addr + 8 && e.2.addr < va + n).map (·.1)

/-- The site of a site atomic: none outside a recorded launch or while MODE is 0. -/
def siteAtomic (virtual : Bool) (va n : Nat) : M (Option Nat) := do
  if virtual && (← recording) then return siteOf (← getCtx).trail va n else return none

/-- A site of a context. -/
def Ctx.site (x : Ctx) (i : Nat) : Site := Table.getD x.trail.sites i { addr := 0, area := 0, cap := 0, used := 0, left := 0 }

/-- Does the Leash admit a site atomic of the pack (R298)? In recording always. -/
def leashAdmits (site : Nat) : M Bool := do
  let who ← getWho
  let x ← getCtx
  let p ← getP
  let d := x.site site
  if x.trail.mode != 2 then return true
  else if d.used ≥ d.cap then return true
  else
    let e ← loadResident who.ctx who.core (d.area + 4 * d.used) 4
    return e / 65536 == p.id.lpid.toNat && d.left > 0

/-- A site's USED and RUNLEFT change, in its descriptor too. -/
def putSite (site : Nat) (d : Site) : M Unit := do
  let who ← getWho
  let x ← getCtx
  let old := x.site site
  let put (off v : Nat) : M Unit := storeResident who.ctx who.core (BitVec.ofNat 64 (siteDesc x site + off)) (leBytes 4 v)
  if d.used ≠ old.used then put 20 d.used
  if d.left ≠ old.left then put 24 d.left
  modCtx fun x => { x with trail := { x.trail with sites := Table.set x.trail.sites site d } }

/-- A site atomic has been performed: it is logged, or the replay's run advances, and TRLPOS counts it (R298, R299, R368). -/
def siteDone (site : Nat) : M Unit := do
  let who ← getWho
  let x ← getCtx
  let p ← getP
  let d := x.site site
  let put (i v : Nat) : M Unit := storeResident who.ctx who.core (BitVec.ofNat 64 (d.area + 4 * i)) (leBytes 4 v)
  modP fun p => { p with sys := { p.sys with trlpos := p.sys.trlpos + 1 } }
  if x.trail.mode == 1 then
    if x.siteStop.contains site then pure ()
    else
      let last ← loadResident who.ctx who.core (d.area + 4 * (d.used - 1)) 4
      if d.used > 0 && last / 65536 == p.id.lpid.toNat && last % 65536 < 65535 then put (d.used - 1) (last + 1)
      else if d.used ≥ d.cap then
        modCtx fun x => { x with siteStop := x.siteStop ++ [site], trlctl := x.trlctl ||| 0x100 }
      else
        put d.used (p.id.lpid.toNat * 65536 + 1)
        putSite site { d with used := d.used + 1 }
  else if d.used < d.cap then
    if d.left > 1 then putSite site { d with left := d.left - 1 }
    else
      let nxt ← loadResident who.ctx who.core (d.area + 4 * (d.used + 1)) 4
      putSite site { d with used := d.used + 1, left := if d.used + 1 ≥ d.cap then 0 else nxt % 65536 }

/-- A site descriptor as it stands in memory; none when a reserved bit is set (R7). -/
def readSite (ctx core va : Nat) : M (Option Site) := do
  let r ← loadResident ctx core va 32
  return if bits r 255 224 ≠ 0 then none
    else some { addr := bits r 63 0, area := bits r 127 64, cap := bits r 159 128, used := bits r 191 160, left := bits r 223 192 }

/-- The start of a recorded launch: MODE, NSITES and the descriptors are read (R297), in replay each site's RUNLEFT is loaded from the
entry USED (R368), and sites log afresh. DEDUCED: LOG 36. -/
def loadTrail (ctx core : Nat) : M Unit := do
  let x := (← getS).ctx ctx
  let mode := (x.trlctl.extractLsb' 0 2).toNat
  modS fun s => s.setCtx ctx { s.ctx ctx with trail := { mode }, siteStop := [] }
  for i in List.range (x.trlctl.extractLsb' 2 5).toNat do
    match ← readSite ctx core (siteDesc x i) with
    | none => pure ()
    | some d =>
      let left ← (if mode ≠ 2 then return d.left
        else if d.used ≥ d.cap then return 0
        else return (← loadResident ctx core (d.area + 4 * d.used) 4) % 65536)
      if mode = 2 then storeResident ctx core (BitVec.ofNat 64 (siteDesc x i + 24)) (leBytes 4 left)
      modS fun s =>
        let x := s.ctx ctx
        s.setCtx ctx { x with trail := { x.trail with sites := Table.set x.trail.sites i { d with left } } }

end Sys2Proof.Machine
end

