-- ==== Sys2Proof/Machine/Flows.lean ====
section
/-! DEFINITION. The flow table and the Heel (spec/05_packs_and_flows.md R97-R107). -/

namespace Sys2Proof.Machine

/-! ### A flow's arrival numbers -/

/-- Does arrival number `a` precede `b` (R99)? -/
def precedes (a b : Nat) : Bool :=
  let d := (b % 2 ^ 32 + 2 ^ 32 - a % 2 ^ 32) % 2 ^ 32
  1 ≤ d && d ≤ 2 ^ 31 - 1

/-- Does a number of a run (start, length) precede `a`? Where one does, so does the first or the last, of at most 2^31 - 1 numbers. -/
def runPrecedes (e : Nat × Nat) (a : Nat) : Bool := precedes e.1 a || precedes (e.1 + e.2 - 1) a

/-- How many numbers of a run precede `a`. -/
def runBelow (e : Nat × Nat) (a : Nat) : Nat :=
  let d := (a % 2 ^ 32 + 2 ^ 32 - e.1 % 2 ^ 32) % 2 ^ 32
  if precedes e.1 a then min e.2 d else if runPrecedes e a then e.2 - (d - (2 ^ 31 - 1)) else 0

/-- TURN: the arrival number of the oldest incomplete item (R98). -/
def Flow.turn (f : Flow) : Nat :=
  match f.incomplete with
  | [] => f.nextArr
  | (a, _) :: _ => a

/-- LIVE: items enqueued and not complete (R98). -/
def Flow.live (f : Flow) : Nat := (f.incomplete.map (·.2)).sum

/-- Add a run of consecutive numbers at the end of the list. -/
def addRun : List (Nat × Nat) → Nat → Nat → List (Nat × Nat)
  | [], a, n => if n = 0 then [] else [(a, n)]
  | [(b, m)], a, n => if b + m = a then [(b, m + n)] else if n = 0 then [(b, m)] else [(b, m), (a, n)]
  | e :: r, a, n => e :: addRun r a n

/-- Take one number out of the runs. -/
def cutRun : List (Nat × Nat) → Nat → List (Nat × Nat)
  | [], _ => []
  | (b, m) :: r, a =>
    if b ≤ a && a < b + m then
      (if a = b then [] else [(b, a - b)]) ++ (if a + 1 = b + m then [] else [(a + 1, b + m - a - 1)]) ++ r
    else (b, m) :: cutRun r a

/-- Is a number among the runs? -/
def inRuns (l : List (Nat × Nat)) (a : Nat) : Bool := l.any (fun e => e.1 ≤ a && a < e.1 + e.2)

/-- Enqueue `n` items: they take the next arrival numbers (R99). -/
def Flow.enqueue (f : Flow) (n : Nat) : Flow :=
  { f with nextArr := f.nextArr + n, incomplete := addRun f.incomplete f.nextArr n }

/-- Does a flow have room for `n` more incomplete items (R99)? -/
def Flow.room (f : Flow) (n : Nat) : Bool := f.live + n ≤ 2 ^ 31 - 1

/-! ### The flow table -/

/-- The entry of an active flow. -/
def Ctx.flow? (x : Ctx) (label : BitVec 32) : Option Flow := Table.get? x.flows label

/-- Change a flow's entry. -/
def modFlow (ctx : Nat) (label : BitVec 32) (f : Flow → Flow) : M Unit :=
  modS fun s =>
    let x := s.ctx ctx
    match x.flow? label with
    | some fl => s.setCtx ctx { x with flows := Table.set x.flows label (f fl) }
    | none => s

/-- Does a held store of a flow remain unreleased anywhere on the device? -/
def State.heldOf (s : State) (ctx : Nat) (label : BitVec 32) : Bool :=
  s.cores.any fun c => c.2.heel.any fun e => e.ctx == ctx && e.label == label

/-- A flow with no incomplete item, no unreleased held store and no pin becomes inactive and its entry free (R97, R150). -/
def sweepFlow (ctx : Nat) (label : BitVec 32) : M Unit :=
  modS fun s =>
    let x := s.ctx ctx
    match x.flow? label with
    | some f =>
      if f.incomplete.isEmpty && f.pins.isEmpty && !s.heldOf ctx label then
        s.setCtx ctx { x with flows := Table.del x.flows label }
      else s
    | none => s

/-- Why a label cannot be used with a class: reason 2 when it is active with another class, reason 1 when the partition is full
(R100). `extra` counts labels that the same operation has still to open. -/
def flowReason (x : Ctx) (label : BitVec 32) (cls : FlowClass) (extra : Nat) : Option Nat :=
  match x.flow? label with
  | some f => if f.cls = cls then none else some 2
  | none => if x.flows.length + extra ≥ x.flowCap then some 1 else none

/-- Make a flow active with a class, if it is not (R97). -/
def openFlow (ctx : Nat) (label : BitVec 32) (cls : FlowClass) : M Unit :=
  modS fun s =>
    let x := s.ctx ctx
    match x.flow? label with
    | some _ => s
    | none => s.setCtx ctx { x with flows := x.flows ++ [(label, { cls })] }

/-- Enqueue `n` items into a flow, making it active if needed; the first arrival number (R97, R99). -/
def joinFlow (ctx : Nat) (label : BitVec 32) (cls : FlowClass) (n : Nat) : M Nat := do
  openFlow ctx label cls
  let s ← getS
  let a := (((s.ctx ctx).flow? label).map (·.nextArr)).getD 0
  modFlow ctx label (·.enqueue n)
  return a

/-- Has every earlier item of an item's flow completed (R99, R103)? -/
def earlierDone (x : Ctx) (label : BitVec 32) (arr : Nat) : Bool :=
  match x.flow? label with
  | some f => f.incomplete.all (fun e => !runPrecedes e arr)
  | none => true

/-- Has the turn of an item come (R103, R223)? -/
def turnCome (x : Ctx) (it : Item) : Bool := it.cls != .o || it.done || earlierDone x it.label it.arr

/-- Are the releases of a context stopped on a core (R305, R313)? -/
def State.heelStopped (s : State) (core ctx : Nat) : Bool :=
  (s.ctx ctx).pre ≠ .none || (Table.get? (s.core core).heelStop ctx).isSome

/-- Must a held store of another one go first: of an earlier item of its flow, or an earlier one of its item (R105)? -/
def HeelEntry.after (e f : HeelEntry) : Bool :=
  e.ctx == f.ctx && ((e.label == f.label && precedes f.arr e.arr) || (e.item == f.item && f.stamp < e.stamp))

/-- The held stores of the device with their cores. -/
def State.heldAll (s : State) : List (Nat × HeelEntry) := s.cores.flatMap fun c => c.2.heel.map fun e => (c.1, e)

/-- Of held stores, those that must wait for one of `up`, and so on until there are no more. -/
def stuckWith (all : List (Nat × HeelEntry)) : Nat → List (Nat × HeelEntry) → List (Nat × HeelEntry)
  | 0, up => up
  | n + 1, up =>
    match all.filter fun e => !up.contains e && up.any fun f => e.2.after f.2 with
    | [] => up
    | more => stuckWith all n (up ++ more)

/-- The held stores that cannot be released now, whatever other releases come first: their core's releases are stopped for the context, an
earlier item of their flow has not completed, or they must wait for such a one (R105, R305, R313). -/
def State.stuckHeld (s : State) : List (Nat × HeelEntry) :=
  let all := s.heldAll
  stuckWith all all.length (all.filter fun e => s.heelStopped e.1 e.2.ctx || !earlierDone (s.ctx e.2.ctx) e.2.label e.2.arr)

/-- Does a held store of an earlier item remain that can be released, and is due to be before an ordered item goes on, no item up to its own being
incomplete (R105, R223)? An item whose slot has completed waits for none. DEDUCED: LOG 29. -/
def State.heldEarlier (s : State) (ctx : Nat) (it : Item) : Bool :=
  it.cls == .o && !it.done &&
    (let due := s.heldAll.filter fun e =>
       e.2.ctx == ctx && e.2.label == it.label && precedes e.2.arr it.arr && earlierDone (s.ctx ctx) e.2.label (e.2.arr + 1)
     !due.isEmpty && (let stuck := s.stuckHeld; due.any (!stuck.contains ·)))

/-- An item's slot completes (R103): its number leaves the flow, and an atomic item gives back its token (R102). -/
def completeSlot (ctx : Nat) (it : Item) : M Unit := do
  if !it.done then
    spread (dieOf (← getWho).core)
    modFlow ctx it.label fun f =>
      { f with incomplete := cutRun f.incomplete it.arr, token := f.token && it.cls != .a }
    sweepFlow ctx it.label

/-! ### The Heel (R104-R107) -/

/-- Does a held store that an item's next release comes after remain: of its flow up to its arrival number, or of the item itself
(R105)? -/
def State.heldBefore (s : State) (ctx : Nat) (it : Item) : Bool :=
  s.cores.any fun c => c.2.heel.any fun e => e.ctx == ctx && (e.item == it.id || (e.label == it.label && !precedes it.arr e.arr))

/-- Entries of a context that stand in its Heel area. -/
def State.spilledOf (s : State) (ctx : Nat) : Nat :=
  (s.cores.map fun c => (c.2.heel.filter fun e => e.ctx == ctx && e.spilled).length).sum

/-- Entries that the Heel area of a context takes (R313): HEELSP.SIZE units of 2,048. -/
def heelArea (x : Ctx) : Nat := (x.heelsp.extractLsb' 0 16).toNat * 2048

/-- Mark the first on-chip entry of a context as spilled. -/
def spillOne (ctx : Nat) : List HeelEntry → List HeelEntry
  | [] => []
  | e :: r => if e.ctx == ctx && !e.spilled then { e with spilled := true } :: r else e :: spillOne ctx r

/-- Make room for `n` entries: spill the oldest ones to their contexts' areas (R106); none when no area has room. DEDUCED: LOG 29. -/
def makeRoom (s : State) (core n : Nat) : Nat → Option State
  | 0 => none
  | fuel + 1 =>
    let c := s.core core
    let onChip := c.heel.filter (fun e => !e.spilled)
    if onChip.length + n ≤ Config.heelEntries then some s
    else
      match onChip.find? (fun e => s.spilledOf e.ctx < heelArea (s.ctx e.ctx)) with
      | some e => makeRoom (s.setCore core { c with heel := spillOne e.ctx c.heel }) core n fuel
      | none => none

/-- Places for `n` more entries of a context in a core's Heel: for each whether it goes to the context's area at once, which it does where the
Heel is full and nothing in it can be spilled; none when the area is full too (R106). -/
def heelRoom (s : State) (core ctx : Nat) : Nat → Option (State × List Bool)
  | 0 => some (s, [])
  | n + 1 =>
    match heelRoom s core ctx n with
    | none => none
    | some (s, l) =>
      match makeRoom s core (l.count false + 1) (Config.heelEntries + 1) with
      | some s' => some (s', l ++ [false])
      | none => if s.spilledOf ctx + l.count true < heelArea (s.ctx ctx) then some (s, l ++ [true]) else none

/-- Split a store into Heel entries of up to 16 bytes (R104). -/
def heelParts (addr : Word) (bs : List Byte) : List (Word × List Byte) :=
  (List.range ((bs.length + 15) / 16)).map fun i => (addr + BitVec.ofNat 64 (16 * i), (bs.drop (16 * i)).take 16)

/-- Place a held store in the Heel of the pack's core; `urgent` when the item's turn has come, which never waits for space
(R106). -/
def holdStore (it : Item) (scratch full urgent : Bool) (addr : Word) (bs : List Byte) : M Unit := do
  let who ← getWho
  let p ← getP
  let parts := heelParts addr bs
  let s ← getS
  let out ← (match heelRoom s who.core who.ctx parts.length with
    | some (s', l) => do
      setS s'
      return l
    | none => do
      if !urgent then blockM .heel
      return [])
  let stamp ← freshM
  modS fun s =>
    let c := s.core who.core
    s.setCore who.core { c with heel := c.heel ++ parts.zipIdx.map fun e =>
      { ctx := who.ctx, uid := who.uid, item := it.id, stamp, label := it.label, arr := it.arr, launch := it.launch, scratch, addr := e.1.1,
        bytes := e.1.2, full, spilled := out.getD e.2 false, region := p.sys.rgnpc } }

/-- A region of the pack ends: the held stores made in it stay, on whichever core it made them (R324, R325). -/
def sealHeel : M Unit := do
  let who ← getWho
  modS fun s =>
    if s.cores.any (fun c => c.2.heel.any (fun e => e.uid == who.uid && e.region != 0)) then
      { s with cores := s.cores.map fun c =>
          (c.1, { c.2 with heel := c.2.heel.map fun e => if e.uid == who.uid then { e with region := 0 } else e }) }
    else s

/-- Close an open region before an instruction takes effect (R324). DEDUCED: LOG 39. -/
def closeRegion : M Unit := do
  if (← getP).sys.rgnpc != 0 then
    sealHeel
    modP fun p => { p with sys := { p.sys with rgnpc := 0 } }

/-- Change an item of a lane of the pack. -/
def Pack.modItem (p : Pack) (l : Nat) (f : Item → Item) : Pack :=
  p.onLanes (1#1024 <<< l) fun _ ln => { ln with item := f ln.item }

/-! ### Granules (R191) -/

/-- Set granules full or empty; `clear` clears their poison markers. -/
def setGranules (gs : List Nat) (full clear : Bool) : M Unit :=
  modS fun s =>
    { s with
      granEmpty := gs.foldl (fun l g => if full then removeNat l g else insertNat l g) s.granEmpty
      granPoison := if clear then gs.foldl removeNat s.granPoison else s.granPoison
      granUe := if clear then gs.foldl removeNat s.granUe else s.granUe
      touched := s.touched.granules (gs.map (·, 1)) true clear }

/-- Are granules all full, those aside that carry the poison marker, which an LDS consumes without a wait (R211)? -/
def State.granulesFull (s : State) (gs : List Nat) : Bool := gs.all fun g => !s.granEmpty.contains g || s.granPoison.contains g

end Sys2Proof.Machine
end

