-- ==== Sys2Proof/Machine/Barrier.lean ====
section
/-! DEFINITION. Barrier objects and instructions (spec/05_packs_and_flows.md R118-R121; spec/06_lane_instructions.md R153). -/

namespace Sys2Proof.Machine

/-- A barrier object (R118). -/
structure BarObj where
  expect : Nat
  arrived : Nat
  phase : Bool
  ovr : Bool
  reserved : Bool
deriving DecidableEq, Repr

/-- The object of 16 bytes. -/
def parseBar (x : Nat) : BarObj :=
  { expect := bits x 31 0, arrived := bits x 63 32, phase := bit x 64, ovr := bit x 65, reserved := bits x 127 66 != 0 }

/-- The 16 bytes of an object. -/
def BarObj.bytes (b : BarObj) : List Byte :=
  leBytes 16 (b.expect + b.arrived * 2 ^ 32 + (if b.phase then 2 ^ 64 else 0) + (if b.ovr then 2 ^ 65 else 0))

/-- One arrival of count `n` (R119); none when it would exceed EXPECT. -/
def BarObj.arrive (b : BarObj) (n : Nat) : Option BarObj :=
  if b.arrived + n = b.expect then some { b with arrived := 0, phase := !b.phase }
  else if b.arrived + n < b.expect then some { b with arrived := b.arrived + n }
  else none

/-- The PHASE of the object at a key. -/
def State.phaseAt (s : State) (k : Nat) : Bool := (Memory.read s.mem (k + 8)).getLsbD 0

/-- The address that a barrier instruction names (R153). -/
def barAddress (p : Pack) (o : Opnd) : Word := p.readG o.a.toNat + o.immW * 16

/-- Does the object lie where barrier operations may reach it (R121)? Its key, if so. -/
def barKey (s : State) (who : Who) (a : Nat) : Option Nat := if a % 16 = 0 then scratchAt s who a 16 else none

/-- The object of a barrier instruction: its key and content, after the checks of R121; `init` for BARI, to which EXPECT does not
matter. -/
def barObject (o : Opnd) (init : Bool) : M (Nat × BarObj) := do
  let p ← getP
  let a := barAddress p o
  let s ← getS
  let who ← getWho
  match barKey s who a.toNat with
  | none => trapM 0x0A a
  | some k =>
    let b := parseBar (leNat (← loadKeys k 16))
    if b.reserved || (!init && b.expect == 0) then trapM 0x0A a
    return (k, b)

/-- BARI as a part of a meaning (R119, R153). -/
def bariBody (o : Opnd) : M Unit := do
  let p ← getP
  if p.part o ≠ 0 then
    let e := (p.opB o).toNat % 2 ^ 32
    let (k, _) ← barObject o true
    if e = 0 then trapM 0x0A (barAddress p o)
    closeRegion
    storeAt k ({ expect := e, arrived := 0, phase := false, ovr := false, reserved := false : BarObj }).bytes
/-- BARI (R153). -/
def execBari (o : Opnd) (s : State) : Host.Outcome State Fault Refusal :=
  perform (.bari o) (do bariBody o; modP (·.next o)) s

/-- BARA as a part of a meaning: a surplus arrival sets OVR and traps (R119, R121). -/
def baraBody (o : Opnd) : M Unit := do
  let p ← getP
  if p.part o ≠ 0 then
    let n := (p.opB o).toNat % 2 ^ 32
    let (k, b) ← barObject o false
    if n ≠ 0 then
      match b.arrive n with
      | some b' =>
        closeRegion
        storeAt k b'.bytes
      | none =>
        storeAt k { b with ovr := true }.bytes
        keep
        trapM 0x0A (barAddress p o)
    else closeRegion
/-- BARA (R153). -/
def execBara (o : Opnd) (s : State) : Host.Outcome State Fault Refusal :=
  perform (.bara o) (do baraBody o; modP (·.next o)) s

/-- The exchange of R120, which is no issue: the pending path runs, the current one becomes a pending entry at its BARW. -/
def Pack.exchange (p : Pack) (e : Entry) (r : List Entry) (waits : Nat × Bool) : Pack :=
  { p with stack := { kind := .pending, pc := p.pc, mask := p.mask, ra := e.ra, bar := some waits } :: r
           mask := e.mask &&& p.occ, pc := e.pc, prog := { exchanged := true } }

/-- Was the pack already blocked at a barrier? -/
def Pack.atBarrier (p : Pack) : Bool :=
  match p.prog.wait with
  | some { why := .barrier _ _, .. } => true
  | _ => false

/-- BARW as a part of a meaning: whether it lets the pack go on. Of two BARWs at which the pack was blocked, the
path whose phase has come first is resumed (R120). -/
def barwBody (o : Opnd) : M Bool := do
  let p ← getP
  if p.part o = 0 then return true
  else
    let parity := (p.readG o.b.toNat).getLsbD 0
    let (k, b) ← barObject o false
    let s ← getS
    match p.stack with
    | e :: r =>
      if e.kind = .pending then
        let other := match e.bar with
          | some (k', q) => s.phaseAt k' == q
          | none => false
        if b.phase == parity && !(p.atBarrier && other && !p.prog.ownFirst) then return true
        else if e.bar.isNone || other then
          setP (p.exchange e r (k, parity)).resumeIfEmpty
          return false
        else blockM (.barrier k parity)
      else if b.phase == parity then return true
      else blockM (.barrier k parity)
    | [] => if b.phase == parity then return true else blockM (.barrier k parity)
/-- BARW (R153, R120). -/
def execBarw (o : Opnd) (s : State) : Host.Outcome State Fault Refusal :=
  perform (.barw o) (do if ← barwBody o then modP (·.next o)) s

/-- BART as a part of a meaning (R119). -/
def bartBody (o : Opnd) : M Unit := do
  let p ← getP
  if p.part o ≠ 0 then
    let (_, b) ← barObject o false
    let parity := (p.readG o.b.toNat).getLsbD 0
    modP fun p => p.onLanes (p.part o) fun _ ln => ln.setPred o.d.toNat (b.phase == parity)
/-- BART (R153). -/
def execBart (o : Opnd) (s : State) : Host.Outcome State Fault Refusal :=
  perform (.bart o) (do bartBody o; modP (·.next o)) s

end Sys2Proof.Machine
end

