-- ==== Sys2Proof/Machine/Convert.lean ====
section
/-! DEFINITION. Conversions and block formats of lanes (spec/06_lane_instructions.md R135-R138). -/

namespace Sys2Proof.Machine

/-- One element of VCVT with the block exponents that vB supplies (R135). -/
def vcvtElem (o : Opnd) (e0 e1 a : Nat) : Nat :=
  let td := o.f
  let ts := o.x.ty2
  if ts == 14 then
    let v := decodeBX 8 e0 e1 a
    if isIntType td then
      (match v with
       | .fin neg n d =>
         let r := roundToInt o.rm neg n d
         wrapBits (typeBits td) (sat td r)
       | _ => 0)
    else (fmtOf td).round o.rm v
  else if td == 14 then
    if e0 = 0xFF || e1 = 0xFF then 0xC0
    else encodeElem 8 o.rm e0 e1 (if isIntType ts then Num.ofInt (intVal ts a) else (fmtOf ts).unpack a)
  else convert td ts o.rm o.x.sat a

/-- The effect of VCVT (R135). -/
def vcvtLanes (o : Opnd) : Pack → Pack := fun p =>
  let ns := typeBits o.x.ty2
  let k := elemCount o.f o.x.wd
  p.onLanes (p.part o) fun _ ln =>
    let b := (ln.reg o.vb).val.toNat
    let es := elems ns k (ln.readV o.va ((vType o.x.ty2).count o.x.wa))
    ln.writeV o.vd (dCount o.f o) (joinElems (typeBits o.f) (es.map (vcvtElem o (b % 256) (b / 256 % 256))))
/-- VCVT (R135). -/
def execVcvt (o : Opnd) (s : State) : Host.Outcome State Fault Refusal :=
  laneOp (.vcvt o) (fun p => (vcvtLanes o p).next o) s

/-- Element bits w of a BX format code: 8, 6 or 4 (R136). -/
def bxWidth (code : Nat) : Nat := match code with | 0 => 8 | 1 => 6 | _ => 4
/-- The floating type of VENC's and VDEC's F[3:2]: f32, bf16 or f16 (R136, R137). -/
def bxFloat (code : Nat) : BitVec 4 := match code with | 0 => 8 | 1 => 11 | _ => 10
/-- The mask words of the participating lanes, each with its lanes. -/
def wordsOf (ls : List Nat) (width : Nat) : List (Nat × List Nat) :=
  (List.range (width / 32)).filterMap fun j =>
    let mine := ls.filter (fun l => l / 32 == j)
    if mine = [] then none else some (j, mine)

/-- What VENC writes in the lanes of one mask word, as (lane, value) (R136). -/
def vencWord (o : Opnd) (p : Pack) (j : Nat) (mine : List Nat) : List (Nat × Nat) :=
  let w := bxWidth (o.f.toNat % 4)
  let t := bxFloat (o.f.toNat / 4)
  let xs := (List.range 32).map fun i =>
    if mine.contains (32 * j + i) then (fmtOf t).unpack (((p.lane (32 * j + i)).reg o.va).val.toNat % 2 ^ typeBits t)
    else .fin false 0 1
  let (e0, e1, es) := encodeBX w o.rm xs
  mine.map fun l => (l, e1 * 2 ^ 16 + e0 * 2 ^ 8 + es.getD (l % 32) 0)

/-- Write single registers: the value listed for each lane. -/
def Pack.writeLanes (p : Pack) (vd c : Nat) (xs : List (Nat × Nat)) : Pack :=
  p.onLanes (maskOf (xs.map (·.1))) fun l ln =>
    match xs.find? (fun e => e.1 == l) with
    | some e => ln.writeV vd c e.2
    | none => ln

/-- The effect of VENC (R136). -/
def vencLanes (o : Opnd) : Pack → Pack := fun p =>
  p.writeLanes o.vd 1 ((wordsOf (p.partList o) p.width).flatMap fun w => vencWord o p w.1 w.2)
/-- VENC (R136). -/
def execVenc (o : Opnd) (s : State) : Host.Outcome State Fault Refusal :=
  laneOp (.venc o) (fun p => (vencLanes o p).next o) s

/-- The effect of VDEC (R137). -/
def vdecLanes (o : Opnd) : Pack → Pack := fun p =>
  let w := bxWidth (o.f.toNat % 4)
  p.onLanes (p.part o) fun _ ln =>
    let a := (ln.reg o.va).val.toNat
    ln.writeV o.vd 1 ((fmtOf (bxFloat (o.f.toNat / 4))).round 0 (decodeBX w (a / 256 % 256) (a / 65536 % 256) (a % 2 ^ w)))
/-- VDEC (R137). -/
def execVdec (o : Opnd) (s : State) : Host.Outcome State Fault Refusal :=
  laneOp (.vdec o) (fun p => (vdecLanes o p).next o) s

/-- The plane word that lane `q` of a mask word writes in VBPT.to (R138). -/
def vbptOut (w : Nat) (va : Nat → Nat) (ex : Nat → Nat) (j q : Nat) : Nat :=
  if q < w then (List.range 32).foldl (fun r i => r + (if (va (32 * j + i)).testBit (w - 1 - q) then 2 ^ i else 0)) 0
  else if j % 2 = 0 then ex j + ex (j + 1) * 2 ^ 16
  else 0

/-- The lane layout that lane `i` of a mask word gathers in VBPT.from (R138). -/
def vbptIn (w : Nat) (va : Nat → Nat) (j i : Nat) : Nat :=
  let el := (List.range w).foldl (fun r q => r + (if (va (32 * j + q)).testBit i then 2 ^ (w - 1 - q) else 0)) 0
  let e := if j % 2 = 0 then va (32 * j + w) % 65536 else va (32 * (j - 1) + w) / 65536
  e * 256 + el

/-- The effect of VBPT (R138). -/
def vbptLanes (o : Opnd) : Pack → Pack := fun p =>
  let w := bxWidth (o.f.toNat % 4)
  let ls := p.partList o
  -- lanes that do not participate read as zero
  let va (l : Nat) : Nat := if ls.contains l then ((p.lane l).reg o.va).val.toNat else 0
  let ex (j : Nat) : Nat := match ls.find? (fun l => l / 32 == j) with
    | some l => va l / 256 % 65536
    | none => 0
  if o.f.getLsbD 2 then p.writeLanes o.vd 1 (ls.map fun l => (l, vbptIn w va (l / 32) (l % 32)))
  else p.writeLanes o.vd 1 ((ls.filter (fun l => l % 32 ≤ w)).map fun l => (l, vbptOut w va ex (l / 32) (l % 32)))
/-- VBPT (R138). -/
def execVbpt (o : Opnd) (s : State) : Host.Outcome State Fault Refusal :=
  laneOp (.vbpt o) (fun p => (vbptLanes o p).next o) s

end Sys2Proof.Machine
end

