-- ==== Sys2Proof/Machine/CrossLane.lean ====
section
/-! DEFINITION. Instructions across lanes (spec/06_lane_instructions.md R139-R143; reductions and scans by
spec/03_numbers.md R71-R73). Every source is read before any destination is written (R126). -/

namespace Sys2Proof.Machine

/-- The lane index or shift operand b of a lane: register B or the literal. -/
def laneB (o : Opnd) (p : Pack) (l : Nat) : Nat := bValue o 1 (p.lane l)

/-- What VPERM writes in a lane, or nothing (R140). -/
def vpermLane (o : Opnd) (p : Pack) (ls : List Nat) (c l : Nat) : Option (Nat × Nat) :=
  let src := laneB o p l % 1024
  if ls.contains src then some (l, (p.lane src).readV o.va c)
  else if o.f == 0 then some (l, 0) else none

/-- The effect of VPERM (R140). -/
def vpermLanes (o : Opnd) : Pack → Pack := fun p =>
  let c := vAny.count o.x.wd
  let ls := p.partList o
  p.writeLanes o.vd c (ls.filterMap (vpermLane o p ls c))
/-- VPERM (R140). -/
def execVperm (o : Opnd) (s : State) : Host.Outcome State Fault Refusal :=
  laneOp (.vperm o) (fun p => (vpermLanes o p).next o) s

/-- The segment size of VSHFX (R140). -/
def segSize (f : BitVec 4) : Nat := match f.toNat / 4 with | 0 => 32 | 1 => 16 | 2 => 8 | _ => 4

/-- The source position within a segment of `sz` lanes (R140); outside 0 to sz − 1 there is none. -/
def segSource (f : BitVec 4) (sz i k : Nat) : Int :=
  match f.toNat % 4 with
  | 0 => Int.ofNat (i ^^^ (k % sz))
  | 1 => Int.ofNat i - Int.ofNat k
  | 2 => Int.ofNat i + Int.ofNat k
  | _ => Int.ofNat ((i + k) % sz)

/-- The source lane of VSHFX, or none outside the segment (R140). -/
def vshfxSource (o : Opnd) (p : Pack) (l : Nat) : Option Nat :=
  let sz := segSize o.f
  let i := l % sz
  let q := segSource o.f sz i (laneB o p l % 32)
  if decide (q < 0) || decide (Int.ofNat sz ≤ q) then none else some (l - i + q.toNat)

/-- The effect of VSHFX (R140). -/
def vshfxLanes (o : Opnd) : Pack → Pack := fun p =>
  let c := vAny.count o.x.wd
  let ls := p.partList o
  p.writeLanes o.vd c (ls.map fun l =>
    (l, match vshfxSource o p l with
        | some src => if ls.contains src then (p.lane src).readV o.va c else (p.lane l).readV o.va c
        | none => (p.lane l).readV o.va c))
/-- VSHFX (R140). -/
def execVshfx (o : Opnd) (s : State) : Host.Outcome State Fault Refusal :=
  laneOp (.vshfx o) (fun p => (vshfxLanes o p).next o) s

/-- The effect of VBCAST (R140). -/
def vbcastLanes (o : Opnd) : Pack → Pack := fun p =>
  let c := vAny.count o.x.wd
  let ls := p.partList o
  match ls with
  | [] => p
  | lo :: _ =>
    let x := match o.f.toNat with
      | 0 =>
        let src := laneB o p lo % 1024
        if ls.contains src then (p.lane src).readV o.va c else 0
      | 1 => (p.lane lo).readV o.va c
      | _ => (p.lane (ls.getLastD lo)).readV o.va c
    p.onLanes (p.part o) fun _ ln => ln.writeV o.vd c x
/-- VBCAST (R140). -/
def execVbcast (o : Opnd) (s : State) : Host.Outcome State Fault Refusal :=
  laneOp (.vbcast o) (fun p => (vbcastLanes o p).next o) s

/-- The participating lanes with a predicate set. -/
def ballotLanes (o : Opnd) (p : Pack) : List Nat := (p.partList o).filter (fun l => (p.lane l).pred o.a.toNat)

/-- The effect of VBALLOT (R141). -/
def vballotLanes (o : Opnd) : Pack → Pack := fun p =>
  let ls := p.partList o
  let yes := ballotLanes o p
  match o.f.toNat with
  | 0 => p.writeLanes o.vd 1 (ls.map fun l =>
      (l, (yes.filter (fun m => m / 32 == l / 32)).foldl (fun r m => r + 2 ^ (m % 32)) 0))
  | 1 => p.writeG o.d.toNat (BitVec.ofNat 64 yes.length)
  | 2 => p.writeG o.d.toNat (if yes.isEmpty then 0 else 1)
  | _ => p.writeG o.d.toNat (if yes.length = ls.length then 1 else 0)
/-- VBALLOT (R141). -/
def execVballot (o : Opnd) (s : State) : Host.Outcome State Fault Refusal :=
  laneOp (.vballot o) (fun p => (vballotLanes o p).next o) s

/-- The lanes that VELECT elects (R141). -/
def elected (f : Nat) (ls : List Nat) (width : Nat) : List Nat :=
  match f with
  | 0 => ls.head?.toList
  | 1 => ls.getLast?.toList
  | _ => (wordsOf ls width).filterMap fun w => w.2.head?

/-- The effect of VELECT (R141). -/
def velectLanes (o : Opnd) : Pack → Pack := fun p =>
  let win := elected o.f.toNat (p.partList o) p.width
  p.onLanes (p.part o) fun l ln => ln.setPred o.d.toNat (win.contains l)
/-- VELECT (R141). -/
def execVelect (o : Opnd) (s : State) : Host.Outcome State Fault Refusal :=
  laneOp (.velect o) (fun p => (velectLanes o p).next o) s

/-- The operation of VSCAN and VRED between an accumulated value and the next (R142), on bits. `s` is SAT (R73). -/
def scanOp (op : Nat) (t : BitVec 4) (rm : Nat) (x y : Nat) : Nat :=
  if isFloatType t then
    match op with
    | 0 => (fmtOf t).add rm x y
    | 2 => (fmtOf t).pick false x y
    | _ => (fmtOf t).pick true x y
  else
    let a := intVal t x
    let b := intVal t y
    match op with
    | 0 => intBits t false (a + b)
    | 1 => intBits t true (a + b)
    | 2 => wrapBits (typeBits t) (Min.min a b)
    | 3 => wrapBits (typeBits t) (Max.max a b)
    | 4 => x &&& y
    | 5 => x ||| y
    | _ => x ^^^ y

/-- The identity that the first lane of an exclusive scan receives (R142). -/
def scanIdentity (op : Nat) (t : BitVec 4) : Nat :=
  if isFloatType t then
    match op with
    | 0 => (fmtOf t).signed true 0
    | 2 => (fmtOf t).infMag
    | _ => (fmtOf t).signed true (fmtOf t).infMag
  else
    match op with
    | 2 => wrapBits (typeBits t) (intMax t)
    | 3 => wrapBits (typeBits t) (intMin t)
    | 4 => 2 ^ typeBits t - 1
    | _ => 0

/-- VSCAN in ascending lane order (R72, R142): what each lane receives. -/
def scanLanes (f : Nat → Nat → Nat) (excl : Bool) (ident : Nat) : Option Nat → List (Nat × Nat) → List (Nat × Nat)
  | _, [] => []
  | none, (l, x) :: r => (l, if excl then ident else x) :: scanLanes f excl ident (some x) r
  | some acc, (l, x) :: r => (l, if excl then acc else f acc x) :: scanLanes f excl ident (some (f acc x)) r

/-- VRED's balanced tree (R71) over 2^n positions from `base` up; absent subtrees pass through. -/
def redTree (f : Nat → Nat → Nat) (leaf : Nat → Option Nat) : Nat → Nat → Option Nat
  | 0, base => leaf base
  | n + 1, base =>
    match redTree f leaf n base, redTree f leaf n (base + 2 ^ n) with
    | none, h => h
    | l, none => l
    | some l, some h => some (f l h)

/-- The effect of VSCAN (R72, R142). -/
def vscanLanes (o : Opnd) : Pack → Pack := fun p =>
  let t := o.x.ty2
  let c := (vOne t).count o.x.wa
  let xs := (p.partList o).map fun l => (l, (p.lane l).readV o.va c)
  let op := o.f.toNat % 8
  p.writeLanes o.vd c (scanLanes (scanOp op t o.rm) (o.f.getLsbD 3) (scanIdentity op t) none xs)
/-- VSCAN (R72, R142). -/
def execVscan (o : Opnd) (s : State) : Host.Outcome State Fault Refusal :=
  laneOp (.vscan o) (fun p => (vscanLanes o p).next o) s

/-- The number n with 2^n positions covering a width (R71: positions beyond the pack are absent). -/
def treeDepth (width : Nat) : Nat := Nat.log2 (width - 1) + 1

/-- The effect of VRED (R71, R142). -/
def vredLanes (o : Opnd) : Pack → Pack := fun p =>
  let t := o.x.ty2
  let c := (vOne t).count o.x.wa
  let ls := p.part o
  let leaf (l : Nat) : Option Nat := if l < p.width && ls.getLsbD l then some ((p.lane l).readV o.va c) else none
  match redTree (scanOp (o.f.toNat % 8) t o.rm) leaf (treeDepth p.width) 0 with
  | none => p
  | some x =>
    if o.f.getLsbD 3 then p.onLanes ls fun _ ln => ln.writeV o.vd c x
    else p.writeG o.d.toNat (if isSignedType t then BitVec.ofInt 64 (intVal t x) else BitVec.ofNat 64 x)
/-- VRED (R71, R142). -/
def execVred (o : Opnd) (s : State) : Host.Outcome State Fault Refusal :=
  laneOp (.vred o) (fun p => (vredLanes o p).next o) s

/-- The mixing of VRND (R143). -/
def rndMix (a b : Nat) : Nat :=
  let x := a + b * 2 ^ 32
  let x := x ^^^ x / 2 ^ 33
  let x := x * 0xFF51AFD7ED558CCD % 2 ^ 64
  let x := x ^^^ x / 2 ^ 33
  let x := x * 0xC4CEB9FE1A85EC53 % 2 ^ 64
  x ^^^ x / 2 ^ 33

/-- The effect of VRND (R143). -/
def vrndLanes (o : Opnd) : Pack → Pack := fun p =>
  p.onLanes (p.part o) fun _ ln =>
    let x := rndMix (ln.reg o.va).val.toNat (ln.reg o.vb).val.toNat
    match o.f.toNat with
    | 0 => ln.writeV o.vd 1 (x % 2 ^ 32)
    | 1 => ln.writeV o.vd 1 ((fmtOf 8).roundRat 0 false (x / 256 % 2 ^ 24) (2 ^ 24))
    | _ => ln.writeV o.vd 2 x
/-- VRND (R143). -/
def execVrnd (o : Opnd) (s : State) : Host.Outcome State Fault Refusal :=
  laneOp (.vrnd o) (fun p => (vrndLanes o p).next o) s

end Sys2Proof.Machine
end

