-- ==== Sys2Proof/Machine/Flags.lean ====
section
/-! DEFINITION. Conditions (spec/02_encoding.md R38). The C2 has no flags: a condition compares two values and writes a
register or a predicate (spec/06_lane_instructions.md R126, spec/04_scalar_instructions.md R84). -/

namespace Sys2Proof.Machine

/-- The integer condition of a code 0-9 between two n-bit values (R38); signedness is the condition's own. -/
def intCond (code n a b : Nat) : Bool :=
  let u := a % 2 ^ n
  let v := b % 2 ^ n
  let sg (x : Nat) : Int := if x.testBit (n - 1) then (x : Int) - 2 ^ n else x
  match code with
  | 0 => u == v
  | 1 => u != v
  | 2 => sg u < sg v
  | 3 => sg v ≤ sg u
  | 4 => sg u ≤ sg v
  | 5 => sg v < sg u
  | 6 => u < v
  | 7 => v ≤ u
  | 8 => u ≤ v
  | _ => v < u

/-- The floating condition of a code 0-7 (R38, R85): −0 equals +0, and a NaN is unordered. -/
def floatCond (code : Nat) (f : Fmt) (a b : Nat) : Bool :=
  match (f.unpack a).cmp (f.unpack b), code with
  | none, 1 | none, 6 => true
  | none, _ => false
  | some c, 0 => c == .eq
  | some c, 1 => c != .eq
  | some c, 2 => c == .lt
  | some c, 3 => c != .lt
  | some c, 4 => c != .gt
  | some c, 5 => c == .gt
  | some _, 6 => false
  | some _, _ => true

/-- The integer condition between two 64-bit registers (R80, R81). -/
def wordCond (code : BitVec 4) (a b : Word) : Bool := intCond code.toNat 64 a.toNat b.toNat

end Sys2Proof.Machine
end

