-- ==== Sys2Proof/Machine/Control.lean ====
section
/-! DEFINITION. Scalar branches, calls, jumps and loops (spec/04_scalar_instructions.md R81-R83; targets by
spec/02_encoding.md R42). A target is checked by the fetch there, not here. -/

namespace Sys2Proof.Machine

/-- The target of a branch (R42): the address of the branch plus its offset. `short` says that B and D hold the offset when
there is neither a literal nor, for a scalar branch, an extension. -/
def branchTarget (pc : Word) (o : Opnd) : Word :=
  match o.lit, o.ext with
  | some y, _ => pc + y
  | none, some e => pc + (e.imm16.signExtend 64) * 4
  | none, none => pc + ((o.b ++ o.d).signExtend 64) * 4

/-- Go to the target where the branch is taken, otherwise to the next instruction. -/
def Pack.branch (p : Pack) (o : Opnd) (taken : Bool) : Pack := if taken then p.goto (branchTarget p.pc o) else p.next o

/-- BR (R81). -/
def execBr (o : Opnd) (s : State) : Host.Outcome State Fault Refusal := onPack s fun p => p.branch o true
/-- BZ (R81). -/
def execBz (o : Opnd) (s : State) : Host.Outcome State Fault Refusal :=
  onPack s fun p => p.branch o (p.readG o.a.toNat == 0)
/-- BNZ (R81). -/
def execBnz (o : Opnd) (s : State) : Host.Outcome State Fault Refusal :=
  onPack s fun p => p.branch o (p.readG o.a.toNat != 0)
/-- The target of BCC: IMM16 even beside a literal, which is the second comparand (R42). -/
def bccTarget (pc : Word) (o : Opnd) : Word := pc + (o.x.imm16.signExtend 64) * 4
/-- BCC (R81). -/
def execBcc (o : Opnd) (s : State) : Host.Outcome State Fault Refusal :=
  onPack s fun p =>
    if wordCond o.f (p.readG o.a.toNat) (p.opB o) then p.goto (bccTarget p.pc o) else p.next o
/-- The link address, the address of the instruction that follows (R82). -/
def linkOf (p : Pack) (o : Opnd) : Word := p.pc + BitVec.ofNat 64 o.len
/-- CALL (R82): the link to g62, then the target. -/
def execCall (o : Opnd) (s : State) : Host.Outcome State Fault Refusal :=
  onPack s fun p => (p.writeG 62 (linkOf p o)).goto (branchTarget p.pc o)
/-- CALLR (R82): the target is read before the link is written. -/
def execCallr (o : Opnd) (s : State) : Host.Outcome State Fault Refusal :=
  onPack s fun p => (p.writeG 62 (linkOf p o)).goto (p.readG o.a.toNat)
/-- JMP (R82). -/
def execJmp (o : Opnd) (s : State) : Host.Outcome State Fault Refusal := onPack s fun p => p.goto (p.readG o.a.toNat)
/-- RET (R82). -/
def execRet (_ : Opnd) (s : State) : Host.Outcome State Fault Refusal := onPack s fun p => p.goto (p.readG 62)
/-- LOOP (R81): gA − 1 is written and the branch is taken while it is not zero. -/
def execLoop (o : Opnd) (s : State) : Host.Outcome State Fault Refusal :=
  onPack s fun p => (p.writeG o.a.toNat (p.readG o.a.toNat - 1)).branch o (p.readG o.a.toNat - 1 != 0)

end Sys2Proof.Machine
end

