-- ==== Sys2Proof/Machine/ScalarMem.lean ====
section
/-! DEFINITION. Scalar loads, stores and atomics (spec/04_scalar_instructions.md R88-R90). -/

namespace Sys2Proof.Machine

/-- Element bytes of a type (R88, R204). -/
def typeBytes (t : BitVec 4) : Nat := typeBits t / 8

/-- The offset of a scalar access: operand B plus IMM16 elements of `n` bytes (R88). -/
def scalarOffset (p : Pack) (o : Opnd) (n : Nat) : Word := p.opB o + o.immW * BitVec.ofNat 64 n

/-- A loaded value in a general register: sign-extended for i types, zero-extended otherwise (R88, R89). -/
def loadedWord (t : BitVec 4) (x : Nat) : Word :=
  if isSignedType t then BitVec.ofInt 64 (intVal t x) else BitVec.ofNat 64 x

/-- What the .inv loads of a launch are given for byte `j` of an element at a key: that of the copy that the core's caches give out for the element, or
what memory holds (R202); of an element of more than 8 bytes each aligned 8 bytes have their own, as they are read at once (R195). -/
def invByte (c : Core) (launch k j : Nat) (now : Byte) : Byte :=
  match c.inv.find? fun e => e.launch == launch && e.key == k + j / 8 * 8 with
  | some e => ((e.use.bind fun n => e.copies[n]?).bind fun l => l[j % 8]?).getD now
  | none => now

/-- Read `n` bytes at a key for a load, marked .inv or not. -/
def loadBytes (inv : Bool) (k n : Nat) : M (List Byte) := do
  let bs ← loadKeys k n
  if inv then
    let c := (← getS).core (← getWho).core
    let p ← getP
    return bs.zipIdx.map fun e => invByte c p.id.launch k e.2 e.1
  else return bs

/-- LD (R88). -/
def execLd (o : Opnd) (s : State) : Host.Outcome State Fault Refusal :=
  perform (.ld o) (do
    let p ← getP
    let n := typeBytes o.f
    let (_, va, k) ← scalarAccess .rd o.a.toNat (scalarOffset p o n) n
    let x ← loadBytes o.x.inv k n
    consumeScalar k n va
    modP fun p => (p.writeG o.d.toNat (loadedWord o.f (leNat x))).next o) s

/-- ST (R88). -/
def execSt (o : Opnd) (s : State) : Host.Outcome State Fault Refusal :=
  perform (.st o) (do
    let p ← getP
    let n := typeBytes o.f
    let (virt, va, k) ← scalarAccess .wr o.a.toNat (scalarOffset p o n) n
    let bs := leBytes n (p.readG o.d.toNat).toNat
    storeVirtual virt va k bs
    retireStore va bs
    modP (·.next o)) s

/-- The new value of an atomic, or none when a compare-and-swap does not write (R89, R212). -/
def atomicOp (op : Nat) (t : BitVec 4) (old c expected : Nat) : Option Nat :=
  let n := typeBits t
  if op = 7 then (if old = expected then some c else none)
  else if isFloatType t then
    match op with
    | 0 => some c
    | 1 => some ((fmtOf t).add 0 old c)
    | 5 => some ((fmtOf t).pick false old c)
    | _ => some ((fmtOf t).pick true old c)
  else
    match op with
    | 0 => some c
    | 1 => some ((old + c) % 2 ^ n)
    | 2 => some (old &&& c)
    | 3 => some (old ||| c)
    | 4 => some (old ^^^ c)
    | 5 => some (wrapBits n (min (intVal t old) (intVal t c)))
    | _ => some (wrapBits n (max (intVal t old) (intVal t c)))

/-- Can the operation be a PCIe AtomicOp: swap, add or compare-and-swap of an integer (R177)? -/
def isAtomicOp (op : Nat) (t : BitVec 4) : Bool := (op == 0 || op == 1 || op == 7) && !(isFloatType t && op == 1)

/-- AMO as a part of a meaning. -/
def amoBody (o : Opnd) : M Unit := do
  let p ← getP
  let t := o.x.ty2
  let n := typeBytes t
  let op := o.f.toNat
  let (virt, va, k) ← scalarAccess .rmw o.a.toNat (scalarOffset p o n) n
  checkHa virt va (isAtomicOp op t)
  let site ← siteAtomic virt va n
  match site with
  | some j => if !(← leashAdmits j) then blockM (.leash j)
  | none => pure ()
  let old ← loadRmw (← pageHa va) k n
  consumeScalar k n va
  closeRegion
  let c := (p.readG o.rc).toNat % 2 ^ (8 * n)
  let expected := (p.readG o.d.toNat).toNat % 2 ^ (8 * n)
  match atomicOp op t (leNat old) c expected with
  | some x =>
    let bs := leBytes n x
    storeVirtual virt va k bs
    retireStore va bs
  | none => pure ()
  match site with
  | some j => siteDone j
  | none => pure ()
  modP fun p => p.writeG o.d.toNat (loadedWord t (leNat old))

/-- AMO (R89). -/
def execAmo (o : Opnd) (s : State) : Host.Outcome State Fault Refusal :=
  perform (.amo o) (do amoBody o; modP (·.next o)) s

end Sys2Proof.Machine
end

