-- ==== Sys2Proof/Machine/Waits.lean ====
section
/-! DEFINITION. What ends a pack's wait, and which packs are ready to issue (spec/05_packs_and_flows.md R122). -/

namespace Sys2Proof.Machine

/-! ### Registers of a core (R170, R218) -/

/-- The slots of a core that hold a pack, with the packs. -/
def State.packsOf (s : State) (core : Nat) : List (Nat × Pack) :=
  (s.packs.filter (fun e => e.1.1 == core)).map (fun e => (e.1.2, e.2))

/-- Registers that the resident packs of a core hold, the walker's aside. -/
def State.usedRegs (s : State) (core : Nat) : Nat :=
  (((s.packsOf core).filter (·.2.id.walker.isNone)).map (fun e => e.2.width * e.2.allot)).sum

/-- Registers of the walker's pack in slot 47: width 32 with the least allotment (DEDUCED, LOG 21). -/
def walkerRegs : Nat := 32 * 8

/-- Registers of a core that are kept for the walker: of one that may run for the context, or for another one with a window there, or runs there
(R170, R190; DEDUCED, LOG 21). -/
def State.walkerShare (s : State) (core ctx : Nat) : Nat :=
  if (s.ctx ctx).programmable || (s.core core).wins.any (fun w => (s.ctx w.1).programmable) ||
      (s.packsOf core).any (·.2.id.walker.isSome) then walkerRegs else 0

/-- The registers of a core that allotments may sum to (R170, R329). -/
def State.coreLimit (s : State) (core : Nat) : Nat := if s.mirrored core then 65536 else Config.coreRegs

/-- The register capacity of a core for a context (R218, R329). -/
def State.capacity (s : State) (core ctx : Nat) : Nat := s.coreLimit core - s.walkerShare core ctx

/-! ### Queue banks (R283-R285) -/

/-- A bank of a cluster. -/
def State.bank (s : State) (k b : Nat) : Bank := getAt {} (s.cluster k).banks b

/-- Replace a bank. -/
def State.setBank (s : State) (k b : Nat) (x : Bank) : State :=
  let c := s.cluster k
  s.setCluster k { c with banks := putAt {} c.banks b x }

/-- Records of one segment of a context's overflow ring. -/
def segmentSize (x : Ctx) : Nat := x.ovrSize / 24

/-- How many records a queued one counts for: a gang block is two (R278). -/
def QRec.weight (r : QRec) : Nat := if r.src = .gang then 2 else 1

/-- Records counted. -/
def recWeight (l : List QRec) : Nat := (l.map (·.weight)).sum

/-- Room of a context's segment for a bank (R285); a context that does not exist has no segment and no records. -/
def State.segmentRoom (s : State) (k b ctx : Nat) : Nat :=
  segmentSize (s.ctx ctx) - recWeight ((s.bank k b).spilled.filter (fun r => r.ctx == ctx))

/-- Must `n` new records of a context, or one gang block of `n`, wait before a bank: its segment is full, or they fit neither the bank nor, when
the newest spill, the segment (R284, R285)? A block is not divided between them (R278). -/
def State.bankFull (s : State) (k b ctx n : Nat) (gang : Bool) : Bool :=
  let on := recWeight (s.bank k b).recs
  let seg := s.segmentRoom k b ctx
  if s.ctxs.any (fun e => e.1 == ctx) then
    seg == 0 || (if gang then 1024 < on + n && seg < n else (1024 - on) + seg < n)
  else 1024 < on + n

/-! ### Launches held back (R99) -/

/-- All records of a launch, queued or taken. -/
def State.recordsOf (s : State) (id : Nat) : List QRec :=
  s.clusters.flatMap fun k =>
    (k.2.banks.flatMap (fun b => b.recs ++ b.spilled) ++ k.2.taken.map (·.q)).filter (fun r => r.launch == id)

/-- The items of an ENQ that a record holds. -/
def QRec.items (r : QRec) : List Item := match r.src with | .items l => l | _ => []

/-- The items of a launch that an ENQ made; none for a run. -/
def State.enqOf (s : State) (id : Nat) : Option (List Item) :=
  match (s.recordsOf id).flatMap (·.items) with
  | [] => none
  | l => some l

/-- The labels of a launch's items. -/
def State.labelsOf (s : State) (id : Nat) (n : Launch) : List (BitVec 32) :=
  match s.enqOf id with
  | some l => (l.map (·.label)).dedup
  | none => [n.task.label]

/-- Is a launch of a context, accepted before the identity `id` was given, held back before one of some flows? What comes later takes its numbers
later (R99; DEDUCED, LOG 10). -/
def State.heldBack (s : State) (ctx id : Nat) (ls : List (BitVec 32)) : Bool :=
  s.launches.any fun n =>
    n.1 < id && n.2.arr.isNone && !n.2.failed && n.2.task.ctx == ctx && (s.labelsOf n.1 n.2).any ls.contains

/-- Have flows room for `n` more items of a label that comes now (R99)? -/
def State.flowRoom (s : State) (ctx : Nat) (label : BitVec 32) (n : Nat) : Bool :=
  (match (s.ctx ctx).flow? label with
   | some f => f.room n
   | none => true) && !s.heldBack ctx (s.fresh + 1) [label]

/-! ### The turn of lanes (R223) -/

/-- How many numbers of the runs precede `a`. -/
def countBelow (l : List (Nat × Nat)) (a : Nat) : Nat := (l.map (runBelow · a)).sum

/-- Has the turn of an item come, every held store of the earlier items released too (R223)? DEDUCED: LOG 29. -/
def State.turnReached (s : State) (ctx : Nat) (it : Item) : Bool := turnCome (s.ctx ctx) it && !s.heldEarlier ctx it

/-- Is every earlier incomplete item of a lane's flow a lane of the same pack? -/
def Pack.ownTurn (x : Ctx) (p : Pack) (l : Nat) : Bool :=
  let it := (p.lane l).item
  turnCome x it ||
    (match x.flow? it.label with
     | none => true
     | some f =>
       countBelow f.incomplete it.arr ==
         ((lanesOf p.occ p.width).filter fun m =>
           let j := (p.lane m).item
           !j.done && j.label == it.label && precedes j.arr it.arr).length)

/-! ### Waits -/

/-- Is a value still due to the pack from a long-latency producer (R323)? -/
def Pack.anyDue (p : Pack) : Bool := !p.fills.isEmpty || p.lanes.any (fun ln => (ln.v.take p.allot).any (·.due))

/-- The value of a computation that only reads, run for the pack of a slot. -/
def evalFor {α : Type} (s : State) (core slot : Nat) (m : M α) : Option α :=
  match s.pack? core slot with
  | none => none
  | some p =>
    match m (startW { s with cur := some (core, slot) } { ctx := p.id.ctx, core, slot, uid := p.id.uid } (.nop {})) with
    | .ok a _ => some a
    | .error _ _ => none

/-- May a graph's next instance start (R295)? NEXTGEN stands in bytes 12-13 of the descriptor. -/
def graphFree (s : State) (loc : Nat) : Bool :=
  let run := (s.die (homeDie loc)).graphs.filter (fun g => g.loc == loc)
  let gen := leNat ((List.range 2).map fun i => Memory.read s.mem (loc + 12 + i))
  run.length < 4 && !run.any (fun g => g.gen == (gen + 65532) % 65536)

/-- The participating lanes of the instruction at which a pack waits. -/
def Pack.waitLanes (p : Pack) : List Nat :=
  match p.prog.wait with
  | some b => p.partList (opndOf b.instr)
  | none => []

/-- Has HLD.wait nothing to wait for in any of the lanes `ls` (R223)? -/
def State.turnsReached (s : State) (p : Pack) (ls : List Nat) : Bool :=
  ls.all fun l => p.ownTurn (s.ctx p.id.ctx) l && !s.heldEarlier p.id.ctx (p.lane l).item

/-- The slot of a Scent identifier (R254). -/
def scSlot (id : Nat) : Nat := bits id 13 0
/-- The home die of an identifier. -/
def scDie (id : Nat) : Nat := bits id 15 14

/-- Does a Scent operation of a pack that is not yet performed act on a sequence: as its operand, as the prefix entry that it attaches to,
or as the one that its sequence is attached to (R267, R268, R269)? -/
def ScOp.actsOn (die : Die) (q : ScOp) (id : Nat) : Bool :=
  let a := q.a.toNat % 2 ^ 32
  let isNew := match q.kind with | .new _ => true | _ => false
  (!isNew && a == id) ||
    (match q.kind with
     | .att => q.b.toNat % 2 ^ 32 == id
     | .free | .det => scDie a == scDie id && ((Table.get? die.seqs (scSlot a)).bind (·.link)) == some (scSlot id)
     | _ => false)

/-- Is an operation on a sequence held on a page fault, for which every later one on the sequence waits (R265)? -/
def State.scHeldOn (s : State) (id : Nat) : Bool :=
  s.dies.any fun d => d.2.scq.any fun q =>
    q.head.result.isNone && (q.head.heldOn.isSome || !q.head.asked.isEmpty) && q.actsOn d.2 id

/-- Must SCML.stat of a pack wait: has the pack an operation on the sequence that is not yet performed, or is any held (R265, R269)? -/
def State.scActs (s : State) (uid id : Nat) : Bool :=
  s.scHeldOn id || s.dies.any fun d => d.2.scq.any fun q => q.head.uid == uid && q.head.result.isNone && q.actsOn d.2 id

/-- Is what a pack waits for over, a YIELD's wait aside? ACQ and GROW are completed by their grants. DEDUCED: LOG 40. -/
def waitOver (s : State) (core slot : Nat) (p : Pack) : Wait → Bool
  | .full rs => rs.all fun e => ((p.lane e.1).reg e.2).full || ((p.lane e.1).reg e.2).bad.isSome
  | .settled rs => rs.all fun e => !p.mustSettle e.1 e.2
  | .producers => !p.anyDue
  | .count c n => p.cnt.of c ≤ n
  | .queries => p.queries == 0
  | .sequence id => !s.scActs p.id.uid id
  | .barrier a parity =>
    s.phaseAt a == parity ||
      (match p.stack with
       | { bar := some (k, q), .. } :: _ => s.phaseAt k == q
       | _ => false)
  | .granules gs => s.granulesFull gs
  | .guard _ => false
  | .grow _ => false
  | .heel =>
    (heelRoom s core p.id.ctx 1).isSome ||
      p.waitLanes.any fun l =>
        let it := (p.lane l).item
        it.cls == .o && turnCome (s.ctx p.id.ctx) it
  | .turn => s.turnsReached p p.waitLanes
  | .stores => !s.cores.any fun c => c.2.heel.any fun e => e.uid == p.id.uid
  | .leash site => (evalFor s core slot (leashAdmits site)).getD false
  | .walk pages => pages.all fun g => (Table.get? p.prog.walked g).isSome
  | .bank k b ctx n gang => !s.bankFull k b ctx n gang
  | .flowRoom label n turn => s.flowRoom p.id.ctx label n && ((s.ctx p.id.ctx).flow? label).all fun f => turn != some f.turn
  | .graph loc => graphFree s loc
  | .staging d =>
    match s.dev.snapshot with
    | some n => (n.staged.filter (fun e => e.1.2 == d)).length < stagingRoom
    | none => true
  | .latch seq d => latchedOn s (seq % 2 ^ 63) d
  | .yielded _ | .between _ => false
  | .repack => false

/-- May a pack issue at all: it runs, and nothing must be taken first at its boundary (R302)? What is due at user level waits while a
handler runs; an instruction that has taken effect takes the cycles that it still owes before (R95). -/
def Pack.mayIssue (p : Pack) : Bool :=
  p.status == .running &&
    (p.owed != 0 || p.priv != 0 || (p.restart.isNone && p.pendingTrap.isNone && (p.preReq.isNone || p.id.walker.isSome)))

/-- Is a pack ready, one that waits for others to issue aside? -/
def readyPlain (s : State) (core slot : Nat) (p : Pack) : Bool :=
  p.mayIssue && (p.owed != 0 ||
    (match p.prog.wait with
     | none => true
     | some b => waitOver s core slot p b.why))

/-- The packs (slot, identity) for whose issue a wait waits: of YIELD (R154), or between the accesses of an instruction (LOG 2). -/
def Wait.others? : Wait → Option (List (Nat × Nat))
  | .yielded l | .between l => some l
  | _ => none

/-- The same wait for other packs. -/
def Wait.withOthers (w : Wait) (l : List (Nat × Nat)) : Wait :=
  match w with
  | .yielded _ => .yielded l
  | .between _ => .between l
  | w => w

/-- The packs for whose issue a pack waits. -/
def Pack.others? (p : Pack) : Option (List (Nat × Nat)) := p.prog.wait.bind (·.why.others?)

/-- Is the pack of a slot ready: for one that waits after a YIELD, is none of the packs that hold it back ready, as `held` judges them
(R154)? -/
def readyVia (held : State → Nat → Nat → Pack → Bool) (s : State) (core slot : Nat) (p : Pack) : Bool :=
  match p.others? with
  | some others =>
    p.mayIssue && others.all fun o =>
      match s.pack? core o.1 with
      | some q => q.id.uid != o.2 || !held s core o.1 q
      | none => true
  | none => readyPlain s core slot p

/-- Is the pack of a slot ready? A pack that holds it back at a YIELD may have yielded itself, before. -/
def readyPack (s : State) (core slot : Nat) (p : Pack) : Bool := readyVia (readyVia readyPlain) s core slot p

/-- The other packs of a core that are ready, as (slot, identity), judged before the issue that asks for them is done: one that waits at its own
YIELD for the issuing pack alone does not count among them (R154; DESIGN CHOICE, LOG 44). -/
def State.readyOthers (s : State) (core slot : Nat) : List (Nat × Nat) :=
  ((s.packsOf core).filter (fun e => e.1 != slot && readyPack s core e.1 e.2)).map (fun e => (e.1, e.2.id.uid))

/-- Does a pack wait for others to issue? -/
def Pack.yields (p : Pack) : Bool := p.others?.isSome

/-- The packs that hold a yielding pack back, those aside that `f` drops. -/
def Pack.dropYields (p : Pack) (f : Nat × Nat → Bool) : Pack :=
  match p.prog.wait with
  | some b =>
    match b.why.others? with
    | some others => { p with prog := { p.prog with wait := some { b with why := b.why.withOthers (others.filter fun o => !f o) } } }
    | none => p
  | none => p

/-- A pack that has issued, or has left, holds no yielding pack back (R154). -/
def State.clearYields (s : State) (core uid : Nat) : State :=
  if !s.packs.any (fun e => e.1.1 == core && e.2.yields) then s
  else { s with packs := s.packs.map fun e => if e.1.1 == core then (e.1, e.2.dropYields (fun o => o.2 == uid)) else e }

/-- A pack that is not ready any more holds no yielding pack back, whatever becomes of it later (R154). -/
def State.pruneYields (s : State) : State :=
  if !s.packs.any (fun e => e.2.yields) then s
  else { s with packs := s.packs.map fun e =>
      (e.1, e.2.dropYields fun o =>
        match s.pack? e.1.1 o.1 with
        | some q => q.id.uid != o.2 || !readyPack s e.1.1 o.1 q
        | none => true) }

/-- Of a pack blocked at two BARWs: has the phase of the one at PC come, and before the other's, as far as the order is known (R120)? What comes in
one act comes at the other first. -/
def Pack.barFirst (p : Pack) (s : State) : Bool :=
  match p.prog.wait, p.stack with
  | some { why := .barrier a parity, .. }, { kind := .pending, bar := some (k, q), .. } :: _ =>
    s.phaseAt a == parity && (p.prog.ownFirst || s.phaseAt k != q)
  | _, _ => false

/-- What an act leaves to be noted: which of two phases has come first, and which packs hold no yielding pack back any more (R120, R154). -/
def State.noticed (s : State) : State :=
  (if s.packs.any (fun e => e.2.barFirst s != e.2.prog.ownFirst) then
    { s with packs := s.packs.map fun e => (e.1, { e.2 with prog := { e.2.prog with ownFirst := e.2.barFirst s } }) }
  else s).pruneYields

end Sys2Proof.Machine
end

