-- ==== Sys2Proof/Machine/FlowOps.lean ====
section
/-! DEFINITION. Divergence, repacking, flow, turn and yield instructions (spec/05_packs_and_flows.md R111-R116;
spec/06_lane_instructions.md R149, R150, R152, R154; spec/09_memory_instructions.md R223). -/

namespace Sys2Proof.Machine

/-! ### Divergence -/

/-- TVAL of the flow error trap (R100). -/
def flowTval (reason lane : Nat) (label : BitVec 32) : Word :=
  BitVec.ofNat 64 (reason + lane % 1024 * 65536 + label.toNat * 2 ^ 32)

/-- The target of VBR and VBRD (R42). -/
def vbrTarget (pc : Word) (o : Opnd) : Word := pc + o.lit.getD ((o.b ++ o.d).signExtend 64 * 4)
/-- The reconvergence address of VBR and VBRD (R149). -/
def vbrReconv (pc : Word) (o : Opnd) : Word := pc + o.x.imm16.signExtend 64 * 4

/-- T: the participating lanes whose predicate A is 1 (R149). -/
def Pack.taken (p : Pack) (o : Opnd) : Lanes := p.part o &&& p.predLanes o.a.toNat

/-- The effect of VBR (R111); none when its push would exceed 256 entries. -/
def Pack.vbr (p : Pack) (o : Opnd) : Option Pack :=
  let t := p.taken o
  let f := p.mask &&& ~~~t
  let tgt := vbrTarget p.pc o
  let ra := vbrReconv p.pc o
  let room := p.stack.length < 256
  let fall (q : Pack) : Pack := { q with mask := f }.next o
  if tgt = ra then
    let merged : Option (List Entry) :=
      match p.stack with
      | e :: r =>
        if e.kind = .exit && e.ra == ra then some ({ e with mask := e.mask ||| t } :: r)
        else if room then some ({ kind := .exit, pc := ra, mask := t, ra } :: e :: r) else none
      | [] => some [{ kind := .exit, pc := ra, mask := t, ra }]
    merged.map fun st =>
      let q := { p with stack := st }
      if f = 0 then ({ q with prog := {} }).resume else fall q
  else if t = 0 then some (p.next o)
  else if f = 0 then some (p.goto tgt)
  else if room then some (fall { p with stack := { kind := .pending, pc := tgt, mask := t, ra } :: p.stack })
  else none

/-- The lane that a flow error of VBR names: the lowest taken one, else the lowest active one (R100). -/
def Pack.vbrLane (p : Pack) (o : Opnd) : Nat :=
  (lanesOf (p.taken o) p.width ++ lanesOf p.mask p.width).headD 0

/-- VBR as a part of a meaning. -/
def vbrBody (o : Opnd) : M Unit := do
  let p ← getP
  match p.vbr o with
  | some q => setP q
  | none => trapM 0x0B (flowTval 3 (p.vbrLane o) 0)

/-- VBR (R111). -/
def execVbr (o : Opnd) (s : State) : Host.Outcome State Fault Refusal := perform (.vbr o) (vbrBody o) s

/-- Are packs of one kernel (R91, R101)? -/
def sameKernel (a b : Pack) : Bool :=
  a.id.entry == b.id.entry && a.width == b.width && a.id.regs0 == b.id.regs0 && a.id.ctx == b.id.ctx && a.id.argp == b.id.argp

/-- Does a pack qualify for a window whose first pack is `f` (R116)? An open batch is outstanding as the one batch that it is (R244). -/
def qualifies (f p : Pack) : Bool :=
  p.allot == f.allot && p.cnt.allZero && p.openOps == 0 && p.held.isEmpty &&
    p.stack.map (fun e => (e.pc, e.ra, e.kind)) == f.stack.map (fun e => (e.pc, e.ra, e.kind))

/-- The effect of VBRD at once: join or open a window, or branch as VBR (R116). -/
def vbrdBody (o : Opnd) : M Unit := do
  let p ← getP
  let s ← getS
  let who ← getWho
  let c := s.core who.core
  if p.id.det || p.mask = 0 then vbrBody o
  else
    match c.repacks.findIdx? (fun w => w.pc == p.pc && sameKernel ((s.pack? who.core w.first).getD {}) p) with
    | some i =>
      let w := c.repacks.getD i { pc := 0, first := 0, members := [] }
      if qualifies ((s.pack? who.core w.first).getD {}) p then
        modS fun s => s.setCore who.core
          { c with repacks := c.repacks.set i { w with members := w.members ++ [(who.slot, .vbrd o)] } }
        keep
        blockM .repack
      else vbrBody o
    | none =>
      if qualifies p p then
        modS fun s => s.setCore who.core
          { c with repacks := c.repacks ++ [{ pc := p.pc, first := who.slot, members := [(who.slot, .vbrd o)] }] }
        keep
        blockM .repack
      else vbrBody o

/-- VBRD (R116). -/
def execVbrd (o : Opnd) (s : State) : Host.Outcome State Fault Refusal := perform (.vbrd o) (vbrdBody o) s

/-- Does RECV or VBRK reach an entry that stood when the region opened (R324)? `above` entries lie above the one it reaches. -/
def Pack.reachesRegion (p : Pack) (above : Nat) : Bool := p.stack.length - above ≤ p.rgnDepth

/-- The loop of RECV (R112); whether it reached an entry of the region. -/
def Pack.recvLoop : Nat → Pack → Bool → Pack × Bool
  | 0, p, c => (p, c)
  | n + 1, p, c =>
    match p.stack with
    | [] => ({ p with pc := p.pc + 4, prog := {} }, c)
    | e :: r =>
      if e.ra != p.pc then ({ p with pc := p.pc + 4, prog := {} }, c)
      else
        let c' := c || p.reachesRegion 0
        match e.kind with
        | .pending =>
          ({ p with stack := { kind := .join, pc := p.pc, mask := p.mask, ra := p.pc } :: r
                    mask := e.mask &&& p.occ, pc := e.pc, prog := {} }.resumeIfEmpty, c')
        | _ => Pack.recvLoop n { p with stack := r, mask := (p.mask ||| e.mask) &&& p.occ } c'

/-- RECV as a part of a meaning. -/
def recvBody : M Unit := do
  let p ← getP
  let (q, closes) := p.recvLoop (p.stack.length + 1) false
  if closes then closeRegion
  modP fun p => { q with sys := p.sys }

/-- RECV (R112). -/
def execRecv (o : Opnd) (s : State) : Host.Outcome State Fault Refusal := perform (.recv o) recvBody s

/-- VBRK as a part of a meaning (R114). -/
def vbrkBody (o : Opnd) : M Unit := do
  let p ← getP
  let l := p.part o
  match p.stack.findIdx? (fun e => e.kind == .exit) with
  | none => trapM 0x0B (flowTval 4 ((lanesOf l p.width).headD 0) 0)
  | some i =>
    if p.reachesRegion i then closeRegion
    modP fun p =>
      { p with stack := p.stack.modify i (fun e => { e with mask := e.mask ||| l }), mask := p.mask &&& ~~~l }
    modP fun p => (p.next o).resumeIfEmpty

/-- VBRK (R114). -/
def execVbrk (o : Opnd) (s : State) : Host.Outcome State Fault Refusal := perform (.vbrk o) (vbrkBody o) s

/-! ### Flows -/

/-- The class in F (R150, R151). -/
def classOf (f : BitVec 4) : FlowClass := if f = 0 then .u else if f = 1 then .o else .a

/-- The participating lanes with the labels that they name (R150, R151). -/
def labels (p : Pack) (o : Opnd) : List (Nat × BitVec 32) :=
  (p.partList o).map fun l => (l, BitVec.ofNat 32 (bValue o 1 (p.lane l)))

/-- Open and pin the flows that lanes name, each for the launch of the lane's item (R150). -/
def openAll (ctx : Nat) (cls : FlowClass) : List (Nat × BitVec 32) → M Unit
  | [] => pure ()
  | (l, label) :: r => do
    match flowReason ((← getS).ctx ctx) label cls 0 with
    | some n => trapM 0x0B (flowTval n l label)
    | none => pure ()
    openFlow ctx label cls
    let launch := ((← getP).lane l).item.launch
    modFlow ctx label fun f => { f with pins := insertNat f.pins launch }
    openAll ctx cls r

/-- FLOW as a part of a meaning. -/
def flowBody (o : Opnd) : M Unit := do
  checkOperands (.flow o)
  let p ← getP
  closeRegion
  openAll p.id.ctx (classOf o.f) (labels p o)

/-- FLOW (R150). -/
def execFlow (o : Opnd) (s : State) : Host.Outcome State Fault Refusal :=
  perform (.flow o) (do flowBody o; modP (·.next o)) s

/-- Complete the slots of lanes (R103). -/
def completeLanes : List Nat → M Unit
  | [] => pure ()
  | l :: r => do
    let p ← getP
    let it := (p.lane l).item
    if !it.done then
      completeSlot p.id.ctx it
      modP fun p => p.modItem l fun i => { i with done := true }
      modS fun s =>
        let n := s.launch it.launch
        if (Table.get? s.launches it.launch).isSome then s.setLaunch it.launch { n with left := n.left - 1 } else s
    completeLanes r

/-- FDONE as a part of a meaning. -/
def fdoneBody (o : Opnd) : M Unit := do
  closeRegion
  completeLanes ((← getP).partList o)

/-- FDONE (R152). -/
def execFdone (o : Opnd) (s : State) : Host.Outcome State Fault Refusal :=
  perform (.fdone o) (do fdoneBody o; modP (·.next o)) s

/-! ### Turns (R223) -/

/-- Entries of the Heel, on chip and spilled, of the items of lanes. -/
def heelCount (s : State) (p : Pack) (ls : List Nat) : Nat :=
  let ids := ls.map fun l => (p.lane l).item.id
  (s.cores.map fun c => (c.2.heel.filter fun e => e.ctx == p.id.ctx && ids.contains e.item).length).sum

/-- HLD.test in a lane. -/
def hldTest (s : State) (o : Opnd) (p : Pack) : Pack :=
  p.onLanes (p.part o) fun _ ln => ln.setPred o.d.toNat (s.turnReached p.id.ctx ln.item)

/-- HLD (R223). -/
def execHld (o : Opnd) (s : State) : Host.Outcome State Fault Refusal :=
  perform (.hld o) (do
    let p ← getP
    let s ← getS
    if o.f = 0 then setP (hldTest s o p)
    else if !s.turnsReached p (p.partList o) then blockM .turn
    modP (·.next o)) s

/-- The distance of an item from its turn. -/
def turnDistance (x : Ctx) (it : Item) : Nat :=
  if it.cls == .o && !it.done then
    (match x.flow? it.label with
     | some f => (it.arr + 2 ^ 32 - f.turn % 2 ^ 32) % 2 ^ 32
     | none => 0)
  else 0

/-- HRD (R223). -/
def execHrd (o : Opnd) (s : State) : Host.Outcome State Fault Refusal :=
  perform (.hrd o) (do
    checkOperands (.hrd o)
    let p ← getP
    let x ← getCtx
    if o.f = 0 then setP (p.writeG o.d.toNat (BitVec.ofNat 64 (heelCount (← getS) p (p.partList o))))
    else setP (p.onLanes (p.part o) fun _ ln => ln.writeV o.vd 1 (turnDistance x ln.item))
    modP (·.next o)) s

/-! ### Yielding (R154, R291) -/

/-- YIELD (R154) issues, and the pack waits at the next instruction until the other packs that were ready have issued, or none is ready. -/
def execYield (o : Opnd) (s : State) : Host.Outcome State Fault Refusal :=
  perform (.yield o) (do
    let who ← getWho
    let others := (← getS).readyOthers who.core who.slot
    modP (·.next o)
    if others ≠ [] then modP fun p => { p with prog := { p.prog with wait := some { why := .yielded others, instr := .yield o } } }) s

end Sys2Proof.Machine
end

