-- ==== Sys2Proof/Machine/Launches.lean ====
section
/-! DEFINITION. Task records and gang blocks, their acceptance, launches and their completion, graphs, and the freeing of a
slot (spec/12_scheduling.md R277-R286, R294, R295; spec/06_lane_instructions.md R155). -/

namespace Sys2Proof.Machine

/-! ### Records -/

/-- A task record (R277). -/
def parseTask (r : Nat) : TaskRec :=
  { base := BitVec.ofNat 64 r
    count := bits r 127 64
    entry := BitVec.ofNat 64 (bits r 184 128)
    argp := BitVec.ofNat 64 (bits r 248 192)
    label := BitVec.ofNat 32 (bits r 287 256)
    cls := classOf (BitVec.ofNat 4 (bits r 289 288))
    prio := bits r 293 290
    ctx := bits r 299 294
    widths := (List.range 6).map fun f => bits r (306 + 7 * f) (300 + 7 * f)
    width := 32 * bits r 347 342
    regs := 8 * (bits r 352 348 + 1)
    det := bit r 353
    records := bit r 354
    mirr := bit r 355
    c1 := bit r 356
    clmask := BitVec.ofNat 24 (bits r 383 360)
    done := BitVec.ofNat 64 (bits r 440 384) }

/-- Do the nonzero widths form a prefix, with a sum of at most 64 (R277)? -/
def widthsOk (ws : List Nat) : Bool :=
  (ws.dropWhile (· ≠ 0)).all (· == 0) && ws.all (· ≤ 64) && ws.sum ≤ 64

/-- Is a record valid by itself (R277); `gang` for the first record of a block (R278)? -/
def taskOk (r : Nat) (gang : Bool) : Bool :=
  bits r 191 185 == 0 && bits r 255 249 == 0 && bits r 359 358 == 0 && bits r 511 441 == 0 &&
    widthsOk (parseTask r).widths && bits r 289 288 ≠ 3 && bits r 184 128 % 4 == 0 && bits r 440 384 % 16 == 0 &&
    bit r 357 == gang &&
    (if gang then bits r 184 128 == 0 && bits r 352 342 == 0
     else 1 ≤ bits r 347 342 && bits r 347 342 ≤ 32)

/-- The roles of a block's second record (R278). -/
def parseRoles (r : Nat) : List Role :=
  (List.range 4).map fun i =>
    let d := bits r (128 * i + 127) (128 * i)
    { packs := bits d 80 75, regs := 8 * (bits d 74 70 + 1), width := 32 * bits d 69 64, entry := BitVec.ofNat 64 (bits d 56 0) }

/-- The items of roles. -/
def rolesItems (rs : List Role) : Nat := (rs.map fun r => r.packs * r.width).sum
/-- The registers of roles. -/
def rolesRegs (rs : List Role) : Nat := (rs.map fun r => r.packs * r.width * r.regs).sum
/-- The packs of roles. -/
def rolesPacks (rs : List Role) : Nat := (rs.map (·.packs)).sum

/-- Are the roles of a block valid with its first record (R278)? -/
def rolesOk (t : TaskRec) (r : Nat) : Bool :=
  let rs := parseRoles r
  (List.range 4).all (fun i =>
    let d := bits r (128 * i + 127) (128 * i)
    bits d 127 81 == 0 && bits d 63 57 == 0 && bits d 80 75 ≤ 48 && bits d 69 64 ≤ 32 &&
      (bits d 80 75 == 0 || (bits d 69 64 ≠ 0 && bits d 56 0 % 4 == 0))) &&
    (rs.headD { packs := 0, regs := 0, width := 0, entry := 0 }).packs ≠ 0 && t.count == rolesItems rs &&
    ((List.range 24).filter (t.clmask.getLsbD ·)).length ≤ 1 && t.cls != .a

/-! ### Completion records (R280) -/

/-- Write a completion: the first error where CODE reads 0, and COUNT + 1, at the keys that the record's context gives the address;
where it gives none, nothing, and its page's write permission is not looked at (DESIGN CHOICE, LOG 12). -/
def writeDone (ctx : Nat) (done : Word) (err : Option (Nat × Nat)) : M Unit := do
  if done ≠ 0 then
    match err with
    | some (code, detail) =>
      if (← loadResident ctx 0 (done.toNat + 8) 1) = 0 then storeResident ctx 0 (done + 8) (leBytes 2 (code + 256 * detail))
    | none => pure ()
    storeResident ctx 0 done (leBytes 8 ((← loadResident ctx 0 done.toNat 8) + 1))

/-! ### Acceptance (R277, R278, R281, R282, R286) -/

/-- What is submitted: the receiving cluster and bank, a record, the second record of a gang block, the context to which a
user-level submission is bound, the items of an ENQ, and the graph node it stands for. -/
structure Submission where
  cluster : Nat
  bank : Nat
  task : Nat
  second : Option Nat := none
  issuer : Option Nat := none
  items : Option (List (Word × BitVec 32)) := none
  node : Option NodeRef := none

/-- Does a cluster have a core with a window for a context? -/
def State.clusterHas (s : State) (k ctx : Nat) : Bool :=
  s.cores.any fun e => clusterOf e.1 == k && e.2.wins.any (fun w => w.1 == ctx)

/-- The clusters that a record names (R277, R286). -/
def namedClusters (t : TaskRec) (receiving : Nat) : List Nat :=
  if t.clmask = 0 then [receiving] else (List.range 24).filter (t.clmask.getLsbD ·)

/-- Can the packs of a record, or the gang, ever fit a core (R278, R282)? -/
def fits (s : State) (t : TaskRec) (roles : List Role) : Bool :=
  let prog := (s.ctx t.ctx).programmable
  let cap := (if t.mirr then 65536 else Config.coreRegs) - (if prog then walkerRegs else 0)
  if roles.isEmpty then t.width * t.regs ≤ cap
  else rolesPacks roles ≤ (if prog then 47 else Config.numSlots) && rolesRegs roles ≤ cap

/-- Why a submission is refused before its flows are looked at: the code of R281. -/
def refusal (s : State) (x : Submission) : Option Nat :=
  let t := parseTask x.task
  let gang := x.second.isSome
  if !taskOk x.task gang || !(x.second.all (rolesOk t)) || !(s.ctxs.any (fun e => e.1 == t.ctx)) ||
      !(x.issuer.all (· == t.ctx)) then some 1
  else if !((namedClusters t x.cluster).any (s.clusterHas · t.ctx)) ||
      !fits s t ((x.second.map parseRoles).getD []) then some 5
  else none

/-- Open the flows of an ENQ in lane order, or the code of R281 that refuses it. -/
def openLabels (ctx : Nat) (cls : FlowClass) : List (BitVec 32) → M (Option Nat)
  | [] => return none
  | l :: r => do
    match flowReason ((← getS).ctx ctx) l cls 0 with
    | some n => return some (n + 1)
    | none =>
      openFlow ctx l cls
      openLabels ctx cls r

/-- A refused submission reports itself: in the completion record, or in the bank's error counter (R280). -/
def refuse (x : Submission) (code : Nat) : M Unit := do
  let s ← getS
  let t := parseTask x.task
  if s.ctxs.any (fun e => e.1 == t.ctx) && t.done.toNat % 16 == 0 then writeDone t.ctx t.done (some (code, 0))
  else
    let b := s.bank x.cluster x.bank
    setS (s.setBank x.cluster x.bank { b with errors := b.errors + 1 })

/-- The newest record of a bank whose context's segment has room (R285). -/
def spillable (s : State) (k b : Nat) : Option QRec :=
  (s.bank k b).recs.reverse.find? fun r => r.weight ≤ s.segmentRoom k b r.ctx

/-- A bank with a record spilled to its context's segment. -/
def Bank.spill (x : Bank) (r : QRec) : Bank :=
  { x with recs := x.recs.filter (fun q => q.acc != r.acc), spilled := x.spilled ++ [r] }

/-- Put a record at the end of a bank; one that the bank itself cannot hold makes its newest record spill (R284). -/
def pushRecord (k b launch ctx prio : Nat) (src : ItemSrc) (before : Nat) : M Unit :=
  modS fun s =>
    let x := s.bank k b
    let s := s.setBank k b { x with
      recs := x.recs ++ [{ acc := x.nextAcc, launch, ctx, prio, src, before }], nextAcc := x.nextAcc + 1 }
    if recWeight (s.bank k b).recs ≤ 1024 then s
    else match spillable s k b with
      | some r => s.setBank k b ((s.bank k b).spill r)
      | none => s

/-- The shares of `n` items among `c` receivers (R286). -/
def shares (n c : Nat) : List Nat := (List.range c).map fun i => n / c + (if i < n % c then 1 else 0)

/-- Put an item into its place by work identifier. -/
def insertItem (it : Item) : List Item → List Item
  | [] => [it]
  | j :: l => if it.wid.toNat ≤ j.wid.toNat then it :: j :: l else j :: insertItem it l

/-- Items in an order, those of one flow changed among their places to the order of the list `by_`. -/
def flowsInOrder : List Item → List Item → List Item
  | [], _ => []
  | j :: r, by_ =>
    match by_.find? (·.label == j.label) with
    | some it => it :: flowsInOrder r (by_.erase it)
    | none => j :: flowsInOrder r by_

/-- The items of an ENQ as they are queued: in lane order, in deterministic mode in work-identifier order, and in lane order those with the same one
(R101, R291). Until the flows take them, an item's place in lane order stands for its arrival number. The atomic items of one flow start in arrival
order only (R102), which the packing keeps among their places where the two orders differ (DESIGN CHOICE, LOG 10). -/
def enqItems (t : TaskRec) (launch : Nat) (l : List (Word × BitVec 32)) : List Item :=
  let its : List Item := l.zipIdx.map fun e => { wid := e.1.1, label := e.1.2, cls := t.cls, arr := e.2, launch }
  if !t.det then its
  else if t.cls = .a then flowsInOrder (its.foldr insertItem []) its
  else its.foldr insertItem []

/-- The labels of a launch's items with their number: one run, or the items of an ENQ. -/
def launchNeeds (t : TaskRec) (n : Nat) (enq : Option (List Item)) : List (BitVec 32 × Nat) :=
  match enq with
  | some l => ((l.map (·.label)).dedup).map fun b => (b, (l.filter (·.label == b)).length)
  | none => [(t.label, n)]

/-- The flows that have no room for the items that are to join them, with their TURN (R99). -/
def Ctx.short (x : Ctx) (needs : List (BitVec 32 × Nat)) : List (BitVec 32 × Nat) :=
  needs.filterMap fun e => (x.flow? e.1).bind fun f => if f.room e.2 then none else some (e.1, f.turn)

/-- Do the flows have room for a launch's items, each for those that name its label (R99)? -/
def launchRoom (x : Ctx) (t : TaskRec) (n : Nat) (enq : Option (List Item)) : Bool := (x.short (launchNeeds t n enq)).isEmpty

/-- Has the TURN of flows left where it stood (R99)? -/
def Ctx.turnsMoved (x : Ctx) (held : List (BitVec 32 × Nat)) : Bool := held.all fun e => (x.flow? e.1).all fun f => f.turn != e.2

/-- An item with the arrival number that follows from its place among all the items of its ENQ (R99). -/
def Item.arrive (first : Table (BitVec 32) Nat) (all : List Item) (it : Item) : Item :=
  { it with arr := Table.getD first it.label 0 + (all.filter fun j => j.label == it.label && j.arr < it.arr).length }

/-- Join the flows of an ENQ's items, each flow in one step; the first number of each. -/
def joinAll (ctx : Nat) (cls : FlowClass) (all : List Item) : List (BitVec 32) → M (Table (BitVec 32) Nat)
  | [] => return []
  | l :: r => do
    let a ← joinFlow ctx l cls (all.filter (·.label == l)).length
    return (l, a) :: (← joinAll ctx cls all r)

/-- How many of some items, in order, one pack of `n` lanes takes: of an atomic flow it holds one item (R102). -/
def chunkLen (atomic : Bool) : Nat → List (BitVec 32) → List Item → Nat
  | 0, _, _ => 0
  | _, _, [] => 0
  | n + 1, seen, it :: r => if atomic && seen.contains it.label then 0 else 1 + chunkLen atomic n (it.label :: seen) r

/-- How many packs of `w` lanes items make in order, the next `n` of them counted. -/
def chunkCount (atomic : Bool) (w : Nat) : Nat → List Item → Nat
  | 0, _ => 0
  | _, [] => 0
  | n + 1, it :: r => 1 + chunkCount atomic w n ((it :: r).drop (max 1 (chunkLen atomic w [] (it :: r))))

/-- How many packs a deterministic launch makes of `n` items of a record, or of an ENQ's items, which follows from the record alone (R291). -/
def TaskRec.packCount (t : TaskRec) (n : Nat) (enq : Option (List Item)) : Nat :=
  match enq with
  | some l => chunkCount (t.cls == .a) t.width l.length l
  | none => if t.cls = .a then n else (n + t.width - 1) / t.width

/-- The items of an ENQ that a share takes. -/
def shareOf (enq : Option (List Item)) (off n : Nat) : Option (List Item) := enq.map fun l => (l.drop off).take n

/-- The packs of shares together. -/
def sharePacks (t : TaskRec) (enq : Option (List Item)) : Nat → List (Nat × Nat) → Nat
  | _, [] => 0
  | off, (_, n) :: r => t.packCount n (shareOf enq off n) + sharePacks t enq (off + n) r

/-- Queue the sub-records of a launch at the receiving clusters (R286). -/
def pushShares (b launch : Nat) (t : TaskRec) (enq : Option (List Item)) : Nat → Nat → List (Nat × Nat) → M Unit
  | _, _, [] => pure ()
  | off, before, (k, n) :: r => do
    if n ≠ 0 then
      pushRecord k b launch t.ctx t.prio
        (match shareOf enq off n with
         | some l => .items l
         | none => .run (t.base + BitVec.ofNat 64 off) off n) before
    pushShares b launch t enq (off + n) (before + t.packCount n (shareOf enq off n)) r

/-- The records that a submission puts into a bank: two for a gang block (R278). -/
def Submission.size (x : Submission) : Nat := if x.second.isSome then 2 else 1

/-- Must a submission wait before a bank of a cluster (R284)? -/
def State.bankWaits (s : State) (x : Submission) (k ctx : Nat) : Bool := s.bankFull k x.bank ctx x.size x.second.isSome

/-- A submission waits before a bank. -/
def waitBank {α : Type} (x : Submission) (k ctx : Nat) : M α := blockM (.bank k x.bank ctx x.size x.second.isSome)

/-- The first target of a submission that cannot take it (R284). -/
def fullTarget (s : State) (x : Submission) (ctx : Nat) (targets : List Nat) : Option Nat := targets.find? (s.bankWaits x · ctx)

/-- Accept a submission or refuse it (R281): the code, and the launch if one was made. It waits while a bank that it needs is
full (R284). A launch whose flows have no room is held back in its banks (R99). -/
def accept (x : Submission) : M (Nat × Option Nat) := do
  let die := dieOf (← getWho).core
  meet (if x.bank = 0 then Config.hostPortDie 0 % 4 else die) (x.cluster / 6)
  let s ← getS
  let t := parseTask x.task
  if s.bankWaits x x.cluster t.ctx then waitBank x x.cluster t.ctx
  match refusal s x with
  | some code =>
    refuse x code
    return (code, none)
  | none =>
    let n := match x.items with | some l => l.length | none => t.count
    let targets := (namedClusters t x.cluster).filter (s.clusterHas · t.ctx)
    match fullTarget s x t.ctx targets with
    | some k => if n ≠ 0 then waitBank x k t.ctx
    | none => pure ()
    let ls := match x.items with
      | some l => (l.map (·.2)).dedup
      | none => if t.count = 0 then [] else [t.label]
    match ← openLabels t.ctx t.cls ls with
    | some code =>
      setS s
      refuse x code
      return (code, none)
    | none =>
      if n = 0 then
        writeDone t.ctx t.done none
        return (0, none)
      for k in targets do meet (x.cluster / 6) (k / 6)
      let id := (← freshM) + 1
      let enq := x.items.map (enqItems t id)
      let heldAt := ((← getS).ctx t.ctx).short (launchNeeds t n enq)
      let arr ← (if !heldAt.isEmpty || s.heldBack t.ctx id ls then return none
        else match enq with
          | some _ => return some 0
          | none => do return some (← joinFlow t.ctx t.label t.cls n))
      let enq ← (match enq, arr with
        | some all, some _ => do
          let first ← joinAll t.ctx t.cls all ls
          return some (all.map (Item.arrive first all))
        | e, _ => return e)
      let targetShares := targets.zip (shares n targets.length)
      let packs := sharePacks t enq 0 targetShares
      modS fun s => s.setLaunch id
        { task := t, roles := (x.second.map parseRoles).getD [], arr, left := n, unplaced := n, node := x.node, heldAt
          lpid := if t.det then packs else 0 }
      if x.second.isSome then
        match targets with
        | k :: _ => pushRecord k x.bank id t.ctx t.prio .gang 0
        | [] => pure ()
      else pushShares x.bank id t enq 0 0 targetShares
      return (0, some id)

/-! ### Graphs (R294, R295) -/

/-- Change a graph instance of a die, or drop it. -/
def modInst (d id : Nat) (f : GraphInst → Option GraphInst) : M Unit :=
  modS fun s =>
    let x := s.die d
    s.setDie d { x with graphs := x.graphs.filterMap fun g => if g.id = id then f g else some g }

/-- The address of node `i` of a table. -/
def nodeAt (table : Word) (i : Nat) : Nat := (table.toNat + 64 + 128 * i) % 2 ^ 57

/-- Are the reserved bits of a node zero (R7, R294)? -/
def nodeOk (ctx core a : Nat) : M Bool := do
  return (← loadResident ctx core (a + 76) 4) = 0 && (← loadResident ctx core (a + 96) 32) = 0

/-- Submit a node for an instance (R295): its launch, or none where it completes at once, or its instance has an error; a node with a
reserved bit set is refused as an invalid record is (R7; DESIGN CHOICE, LOG 45). Whether it has completed. -/
def submitNode (d : Nat) (g : GraphInst) (i : Nat) : M Bool := do
  let a := nodeAt g.table i
  let r ← loadResident g.ctx (d * 144) a 64
  let r := if bits r 248 192 = 0 then r + g.argp.toNat % 2 ^ 57 * 2 ^ 192 else r
  let (code, launch) ← (if ← nodeOk g.ctx (d * 144) a then
      accept { cluster := d * 6, bank := 2, task := r, node := some { die := d, inst := g.id, node := i } }
    else return (1, none))
  modInst d g.id fun g =>
    match launch with
    | some _ => some { g with running := g.running ++ [i] }
    | none => if code = 0 then some g else some { g with err := g.err.or (some (code, 0)) }
  return launch.isNone && code = 0

/-- Does an instance act on a node: one with a reserved bit set gives it error 1, and is not acted on (R7; DESIGN CHOICE, LOG 45)? -/
def checkNode (d : Nat) (g : GraphInst) (i : Nat) : M Bool := do
  let ok ← nodeOk g.ctx (d * 144) (nodeAt g.table i)
  if !ok then modInst d g.id fun g => some { g with err := g.err.or (some (1, 0)) }
  return ok

/-- One arrival at a node for generation `gen` (R295): whether its count has reached DEPS. -/
def arriveNode (d : Nat) (g : GraphInst) (i : Nat) : M Bool := do
  let a := nodeAt g.table i
  let c := g.gen % 4
  let tag ← loadResident g.ctx (d * 144) (a + 88 + 2 * c) 2
  let live ← loadResident g.ctx (d * 144) (a + 64 + 2 * c) 2
  let deps ← loadResident g.ctx (d * 144) (a + 72) 2
  let n := if tag ≠ g.gen || live = 0 then 1 else live + 1
  storeResident g.ctx (d * 144) (BitVec.ofNat 64 (a + 88 + 2 * c)) (leBytes 2 g.gen)
  storeResident g.ctx (d * 144) (BitVec.ofNat 64 (a + 64 + 2 * c)) (leBytes 2 n)
  modInst d g.id fun g => some { g with arrived := if g.arrived.contains i then g.arrived else g.arrived ++ [i] }
  return n == deps

/-- The instance of a die with an identity. -/
def instOf (s : State) (d id : Nat) : Option GraphInst := (s.die d).graphs.find? (fun g => g.id == id)

/-- An instance with no node running or waiting to be submitted ends (R295). -/
def endInstance (d id : Nat) : M Unit := do
  match instOf (← getS) d id with
  | some g =>
    if g.running.isEmpty && (g.pending.isEmpty || g.err.isSome) then
      let c := g.gen % 4
      for i in g.arrived do
        storeResident g.ctx (d * 144) (BitVec.ofNat 64 (nodeAt g.table i + 88 + 2 * c)) (leBytes 2 0)
        storeResident g.ctx (d * 144) (BitVec.ofNat 64 (nodeAt g.table i + 64 + 2 * c)) (leBytes 2 0)
      let n ← loadResident g.ctx (d * 144) (g.desc.toNat + 14) 1
      storeResident g.ctx (d * 144) (g.desc + 14) (leBytes 1 (n - 1))
      writeDone g.ctx g.doneAt g.err
      modInst d id fun _ => none
  | none => pure ()

/-- A node of an instance has completed without an error: each successor receives its arrival, and those that have all of theirs are due to be
submitted (R295). -/
def arriveAll (d id node : Nat) : M Unit := do
  match instOf (← getS) d id with
  | some g =>
    let a := nodeAt g.table node
    let n ← loadResident g.ctx (d * 144) (a + 74) 2
    let succ ← loadResident g.ctx (d * 144) (a + 80) 8
    for j in List.range n do
      let i ← loadResident g.ctx (d * 144) ((succ + 4 * j) % 2 ^ 57) 4
      if ← checkNode d g i then
        if ← arriveNode d g i then modInst d id fun g => some { g with pending := g.pending ++ [i] }
  | none => pure ()

/-- What a computation gives, or none, with no effect, where it would have to wait. -/
def attempt {α : Type} (m : M α) : M (Option α) := do
  let w ← get
  tryCatch (do return some (← m)) fun e =>
    match e with
    | .block _ => do set w; return none
    | e => throw e

/-- Submit the nodes of an instance that are due, in order, up to `fuel` of them, as far as the banks have room; the others stay due
(R284, R295). -/
def drainInst (d id : Nat) : Nat → M Unit
  | 0 => endInstance d id
  | fuel + 1 => do
    match instOf (← getS) d id with
    | some g =>
      match g.pending with
      | [] => endInstance d id
      | i :: r =>
        if g.err.isSome then endInstance d id
        else
          match ← attempt (submitNode d g i) with
          | none => pure ()
          | some done =>
            modInst d id fun g => some { g with pending := r }
            if done then arriveAll d id i
            drainInst d id fuel
    | none => pure ()

/-- Nodes that one event submits at most (LOG 45). -/
def drainFuel : Nat := 65536

/-- Submit what is due of every instance on a die. -/
def drainDie (d : Nat) : M Unit := do
  for g in ((← getS).die d).graphs do
    if g.pending ≠ [] then drainInst d g.id drainFuel

/-- Submit what is due of every instance of the device: a bank 2 of any die's clusters may be what it waits for (R286). -/
def drainAll : M Unit := do
  for d in List.range Config.numDies do drainDie d

/-- A node's launch has completed, with an error or without (R295): what is due of its instance is submitted, and of the others, for which a record
that has left a bank 2 may have made room. -/
def nodeDone (r : NodeRef) (err : Option (Nat × Nat)) : M Unit := do
  modInst r.die r.inst fun g => some { g with running := g.running.filter (· != r.node), err := g.err.or err }
  if err.isNone then arriveAll r.die r.inst r.node
  drainInst r.die r.inst drainFuel
  drainAll

/-! ### The end of packs and launches (R155, R280) -/

/-- The launches that a pack belongs to: its own and those of its lanes' items. -/
def Pack.launches (p : Pack) : List Nat := ((p.id.launch :: p.lanes.map (·.item.launch)).filter (· != 0)).dedup

/-- Has a launch a pack left, resident, saved, waiting in a frame or yet to start? -/
def State.hasPacks (s : State) (id : Nat) : Bool :=
  s.packs.any (fun e => e.2.launches.contains id) || s.cores.any (fun c => c.2.saved.any (·.launches.contains id)) ||
    s.frames.any (fun f => f.2.pack.launches.contains id)

/-- A launch meets an error: the first one stands. -/
def launchError (id code detail : Nat) : M Unit :=
  modS fun s =>
    match Table.get? s.launches id with
    | some n => s.setLaunch id { n with err := n.err.or (some (code, detail)) }
    | none => s

/-- The flows that a launch pinned stay active no longer (R150). -/
def unpin (ctx id : Nat) : M Unit := do
  let x := (← getS).ctx ctx
  let pinned := x.flows.filter (fun f => f.2.pins.contains id)
  for f in pinned do
    modFlow ctx f.1 fun fl => { fl with pins := removeNat fl.pins id }
    sweepFlow ctx f.1

/-- Is all that R280 asks of a launch fulfilled? -/
def State.launchOver (s : State) (id : Nat) : Bool :=
  match Table.get? s.launches id with
  | some n =>
    n.left == 0 && n.unplaced == 0 && !s.hasPacks id && !s.cores.any (fun c => c.2.heel.any (fun e => e.launch == id))
  | none => false

/-- A launch completes (R280): its completion record, and its node's successors (R295). -/
def completeLaunch (id : Nat) : M Unit := do
  match Table.get? (← getS).launches id with
  | some n =>
    modS fun s =>
      { s with launches := Table.del s.launches id
               cores := s.cores.map fun c => (c.1, { c.2 with detCur := Table.del c.2.detCur id }) }
    unpin n.task.ctx id
    writeDone n.task.ctx n.task.done n.err
    match n.node with
    | some r => nodeDone r n.err
    | none => pure ()
  | none => pure ()

/-- Two bits for each granule of a window, full and poisoned (R314). -/
def windowBits (s : State) (core : Nat) (w : Window) : Nat :=
  (List.range (w.size / 16)).foldl (fun n g =>
    let k := core * 65536 + w.base / 16 + g
    n + ((if s.granEmpty.contains k then 0 else 1) + (if s.granPoison.contains k then 2 else 0)) * 4 ^ g) 0

/-- Spill what stands on chip of a context's entries in a Heel, as far as its area has room (R313). -/
def spillAll (ctx core : Nat) : Nat → M Unit
  | 0 => pure ()
  | n + 1 => do
    let s ← getS
    let c := s.core core
    if c.heel.any (fun e => e.ctx == ctx && !e.spilled) && s.spilledOf ctx < heelArea (s.ctx ctx) then
      setS (s.setCore core { c with heel := spillOne ctx c.heel })
      spillAll ctx core n

/-- A pack has left a core. When it was the last one there of a context that is being pre-empted, the granule image of the window
is written (R314) and the Heel partition spills (R313). -/
def leftCore (ctx core : Nat) : M Unit := do
  let s ← getS
  let x := s.ctx ctx
  if x.pre ≠ .none && !s.packs.any (fun e => e.1.1 == core && e.2.id.ctx == ctx) then
    match Table.get? (s.core core).wins ctx with
    | some w =>
      storeResident ctx core (x.spill + BitVec.ofNat 64 (16384 * core)) (leBytes 16384 (windowBits s core w))
      modS fun s => s.setCtx ctx { s.ctx ctx with imageWins := Table.set (s.ctx ctx).imageWins core w }
    | none => pure ()
    spillAll ctx core (s.core core).heel.length

/-- May the slot of an ended pack be freed (R155)? -/
def Pack.freeable (p : Pack) : Bool := p.status == .ended && p.cnt.allZero && !p.anyDue

/-- Free the slot of an ended pack once its counters are zero and its loads have delivered: its errors are reported to its
launches (R155), code 6 before code 7 where it has both, since R281 keeps the first error and puts neither first (DESIGN CHOICE, LOG 43). With the
slot of its last pack a launch's pins end (R150), which is where the model lays that pack's end (DESIGN CHOICE, LOG 43), and so does its leave to
keep copies for .inv loads (R202) and of code words (R29). -/
def tryFree (core slot : Nat) : M Unit := do
  match (← getS).pack? core slot with
  | some p =>
    if p.freeable then
      modS fun s => s.dropPack core slot
      for id in p.launches do
        if p.sys.asyncerr ≠ 0 then launchError id 6 (p.sys.asyncerr.extractLsb' 12 4).toNat
        if p.sys.cki &&& 3 ≠ 0 then launchError id 7 0
        let s ← getS
        if !s.hasPacks id && (s.launch id).unplaced == 0 then
          unpin p.id.ctx id
          modS fun s => { s with cores := s.cores.map fun c =>
              (c.1, { c.2 with inv := c.2.inv.filter (fun e => e.launch != id), code := c.2.code.filter (fun e => e.launch != id) }) }
      leftCore p.id.ctx core
  | none => pure ()

end Sys2Proof.Machine
end

