-- ==== Sys2Proof/Machine/Engine.lean ====
section
/-! DEFINITION. Asynchronous engines: issue, counters and errors, what an engine does when it runs an operation, and the
copy, gather and collective operations (spec/10_engines.md R224-R234, R249-R252). An operation reads its registers and handle
records when it issues, and does its reads and writes in the one event that completes it (DESIGN CHOICE, LOG 19). -/

namespace Sys2Proof.Machine

/-! ### Issue and retirement (R224, R226) -/

/-- The identity of an operation that issues in a class: it is counted. -/
def issueOp (e : Eng) : M OpHead := do
  let who ← getWho
  let p ← getP
  if p.cnt.of e ≥ 255 then blockM (.count e 254)
  let n := p.issued.of e + 1
  setP { p with cnt := p.cnt.put e (p.cnt.of e + 1), issued := p.issued.put e n }
  return { core := who.core, slot := who.slot, uid := who.uid, ctx := who.ctx, seq := n }

/-- ASYNCERR after an error (R226). -/
def recordError (y : Word) (e : Eng) (seq code : Nat) : Word :=
  let bit := BitVec.ofNat 64 (2 ^ engCode e)
  if y &&& 0x1F = 0 then BitVec.ofNat 64 (seq % 2 ^ 32 * 2 ^ 32 + code * 4096 + engCode e * 256) ||| bit else y ||| bit

/-- Change the pack with an identity wherever it is held, and its frame. -/
def modUid (uid : Nat) (f : Pack → Pack) : M Unit :=
  modS fun s =>
    { s with
      packs := s.packs.map fun e => if e.2.id.uid = uid then (e.1, f e.2) else e
      frames := s.frames.map fun e => if e.2.pack.id.uid = uid then (e.1, { e.2 with pack := f e.2.pack }) else e }

/-- The core and slot of the pack with an identity. -/
def State.placeOf (s : State) (uid : Nat) : Option (Nat × Nat) := (s.packs.find? (fun e => e.2.id.uid == uid)).map (·.1)

/-- The counters and the error register after an operation has retired with a code; 0 for none. -/
def Pack.retire (p : Pack) (e : Eng) (seq code : Nat) (counts : Bool) : Pack :=
  { p with cnt := if counts then p.cnt.put e (p.cnt.of e - 1) else p.cnt
           sys := if code = 0 then p.sys else { p.sys with asyncerr := recordError p.sys.asyncerr e seq code } }

/-- A frame whose pack's operation has retired: its counters where the operation is among those that it counts, and its ASYNCERR where the
pack had issued it before the entry, as that section holds what stood then (R312); an error of what the pre-emption handler issued itself is in
no frame (DESIGN CHOICE, LOG 11). -/
def Frame.retire (f : Frame) (e : Eng) (seq code : Nat) (framed : Bool) : Frame :=
  { f with pack := f.pack.retire e seq (if seq ≤ f.before.of e then code else 0) framed }

/-- One operation or batch of a pack retires with a code; 0 for none. A retirement of an operation that stands in the pack's
frame is credited to the frame, in memory as well (R310); a pack that is being restored counts only what it issues itself. -/
def retireOne (e : Eng) (uid seq code : Nat) : M Unit := do
  let framed := (← getS).frames.any fun f => f.2.pack.id.uid == uid && seq ≤ f.2.pack.issued.of e
  modS fun s =>
    { s with
      packs := s.packs.map fun x =>
        if x.2.id.uid = uid then
          (x.1, x.2.retire e seq code (!(framed && (match x.2.pre with | some r => r.restore | none => false))))
        else x
      frames := s.frames.map fun f => if f.2.pack.id.uid = uid then (f.1, f.2.retire e seq code framed) else f }
  for f in (← getS).frames do
    if f.2.pack.id.uid == uid && e = .cl then
      storeResident f.1.1 0 (f.1.2 + 6) [BitVec.ofNat 8 f.2.pack.cnt.cl]
  match (← getS).placeOf uid with
  | some (core, slot) => tryFree core slot
  | none => pure ()

/-- The operations of a pack at the front of a queue that have completed, and the queue without them. -/
def popDone {α : Type} (head : α → OpHead) (uid : Nat) : Bool → List α → List OpHead × List α
  | _, [] => ([], [])
  | going, x :: r =>
    if going && (head x).uid == uid && (head x).result.isSome then
      let (hs, l) := popDone head uid going r
      (head x :: hs, l)
    else
      let (hs, l) := popDone head uid (going && (head x).uid != uid) r
      (hs, x :: l)

/-- Retire operations. -/
def retireAll (e : Eng) : List OpHead → M Unit
  | [] => pure ()
  | h :: r => do
    retireOne e h.uid h.seq (h.result.getD 0)
    retireAll e r

/-- Is an operation held (R228), or behind a held operation of its pack? `before` are the operations ahead of it in its queue. -/
def heldUp {α : Type} (head : α → OpHead) (before : List α) (h : OpHead) : Bool :=
  h.heldOn.isSome || !h.asked.isEmpty || before.any fun x => (head x).uid == h.uid && ((head x).heldOn.isSome || !(head x).asked.isEmpty)

/-! ### Running an operation -/

/-- What a computation gives if it does not stop; nothing that it changes stands. -/
def tryM {α : Type} (m : M α) : M (Option α) := do
  let w ← get
  let r ← tryCatch (do return some (← m)) (fun _ => return none)
  set w
  return r

/-- Free bits, at least `n` of them (DESIGN CHOICE, LOG 5). -/
def freeBits (n : Nat) : M (List Bool) := do
  let ws ← (List.range ((n + 63) / 64)).mapM fun _ => freeM
  return ws.flatMap fun w => (List.range 64).map fun i => w.getLsbD i

/-- A byte that an engine writes: its key, its virtual address where it has one, the byte, and whether it is written as poison. -/
abbrev EngByte : Type := Nat × Option Nat × Byte × Bool

/-- Write a byte for an engine, but for slot 0 of the handle table; one of HBM that is poison poisons its word (R232). -/
def putByte (e : EngByte) : M Unit := do
  let x ← getCtx
  if !(match e.2.1 with | some a => inSlot0 x a | none => false) then
    storeAt e.1 [e.2.2.1]
    if e.2.2.2 && isHbm e.1 then modify fun w => { w with marks := .hbm (e.1 / 32) :: w.marks }

/-- Of the bytes that a failing operation would have written, those that free bits choose reach memory (R227); the keys of the good
ones. -/
def someStored (bs : List EngByte) : M (List Nat) := do
  let pick ← freeBits bs.length
  let ws := ((bs.zip pick).filter (·.2)).map (·.1)
  for e in ws do putByte e
  return (ws.filter fun e => !e.2.2.2).map (·.1)

/-- On whose behalf an operation runs. -/
def OpHead.who (h : OpHead) : Who :=
  { ctx := h.ctx, core := h.core, slot := h.slot, uid := h.uid, direct := true, served := h.served, early := h.early, wrote := h.wrote }

/-- Run an operation on behalf of its pack: its head afterwards, with the code it ends with, or held on a fault record that is
posted (R228), or waiting for the walker (R190); and of one that failed the keys that it wrote good bytes to. Nothing of a failed one stands
but the bytes that a free choice takes of what `late` gives, after an error that is found once it reads and writes (R227). An error of
the engine's own latch, buffer or datapath ends an operation that meets no other with code 6, and one whose .arrive finds a misuse as well: that is
not its only error then (R227, R317; DESIGN CHOICE, LOG 42). -/
def engineRun (h : OpHead) (source : Nat) (body : M Nat) (late : M (List EngByte)) :
    M (OpHead × Option (List Nat)) := do
  let w0 ← get
  modify fun w => { w with who := h.who, covered := h.cover }
  let r ← tryCatch (do
      let c ← body
      if h.hurt && (c = 0 || c = 7) then throw (.code 6)
      return Except.ok c) (fun e => do
    modify fun w => { w with st := w0.st, log := w0.log, marks := w0.marks, wiped := w0.wiped }
    return Except.error e)
  let h' ← (match r with
    | .ok c => return ({ h with result := some c }, none)
    | .error (.code n) => do
      return ({ h with result := some n }, some (← (if n = 5 || n = 6 then do someStored (← late) else return [])))
    | .error (.pageFault va _ kind _) => do
      let seq ← nextSeq h.ctx
      let lpid := match (← getS).pack? h.core h.slot with | some p => p.id.lpid.toNat | none => 0
      modCtx fun x => { x with faults := Table.set x.faults seq { src := .engine source h.core h.slot h.uid } }
      postRecord h.ctx (faultRecord seq lpid h.core 0 h.ctx source kind (lineOf va).toNat)
      return ({ h with heldOn := some seq }, none)
    | .error (.miss vas kind) => do
      let pages := (vas.map (· / 4096)).dedup
      modS fun s =>
        let c := s.core h.core
        s.setCore h.core { c with misses := c.misses ++ pages.map (fun pg =>
          { ctx := h.ctx, page := pg, kind, slot := h.slot, uid := h.uid, packid := packId h.core h.slot ((s.pack? h.core h.slot).getD {}).width }) }
      return ({ h with asked := pages }, none)
    | .error (.block why) => blockM why
    | .error _ => do
      return ({ h with result := some 3 }, some (← someStored (← late))))
  modify fun w => { w with who := w0.who }
  return h'

/-- The head of an operation as it fails with a code, with the keys that it has written (R227). -/
def failed (h : OpHead) (code : Nat) (late : M (List EngByte)) : M (OpHead × Option (List Nat)) := do
  let ks ← asWho h.who (do someStored (← late))
  return ({ h with heldOn := none, result := some code }, some ks)

/-- The key of a byte at an offset of a handle, for an engine: code 2 outside the space or the window (R171); `place` moves a
scratchpad address (R233). -/
def engKey (h : Hnd) (place : Nat → Nat) (acc : Acc) (off : Nat) : M Nat := do
  let a := h.addr off
  if h.space then
    match scratchAt (← getS) (← getWho) (place a) 1 with
    | some k => return k
    | none => throw (.code 2)
  else translate acc a

/-- A source byte at a key, as it was read early or as it is (R203), and whether it carries poison or an uncorrectable error. -/
def engByte (k : Nat) : M (Byte × Bool) := do
  let b ← (match (← getWho).early.find? fun e => e.1 == k with
    | some e => return e.2
    | none => loadKey k)
  return (b, (consumes (← getS) k 1).isSome)

/-- Bytes at offsets of a handle, with the poison of any. -/
def engLoad (h : Hnd) (off n : Nat) : M (List Byte × Bool) := do
  let xs ← (List.range n).mapM fun i => do engByte (← engKey h id .rd (off + i))
  return (xs.map (·.1), xs.any (·.2))

/-- An engine writes bytes. Granules are set full, and poisoned where a byte is poison (R191, R232): those that satisfy `whole`, in which the
operation has now written its last byte; `bad` names those in which it has written poison before. -/
def engFill (bs : List EngByte) (whole bad : Nat → Bool) : M Unit := do
  for e in bs do putByte e
  let gs := (((bs.filter (fun e => e.1 ≥ 2 ^ 52)).map (fun e => granuleOf e.1)).dedup).filter whole
  let hurt := ((bs.filter (fun e => e.1 ≥ 2 ^ 52 && e.2.2.2)).map (fun e => granuleOf e.1)).dedup
  setGranules gs true true
  modS fun s => { s with granPoison := (gs.filter fun g => hurt.contains g || bad g).foldl insertNat s.granPoison }

/-- An engine writes all its bytes. -/
def engStore (bs : List EngByte) : M Unit := engFill bs (fun _ => true) (fun _ => false)

/-- The offsets of an operation's destination without those in granules in which it has already written its last byte. -/
def OpHead.unfilled (head : OpHead) (h : Hnd) (offs : List Nat) : List Nat :=
  if head.wrote.isEmpty then offs
  else offs.filter fun a => offs.any fun b => h.addr b / 16 == h.addr a / 16 && !head.wrote.any (·.1 == b)

/-- The granules that an operation which failed would have set full are set full and poisoned (R227). -/
def poisonGranules (head : OpHead) (h : Hnd) (place : Nat → Nat) (offs : List Nat) : M Unit :=
  modS fun s =>
    let who : Who := { ctx := head.ctx, core := head.core, slot := head.slot, uid := head.uid }
    let gs := if h.space then ((head.unfilled h offs).filterMap fun a => (scratchAt s who (place (h.addr a)) 1).map granuleOf).dedup else []
    { s with granEmpty := gs.foldl removeNat s.granEmpty, granPoison := gs.foldl insertNat s.granPoison
             touched := s.touched.granules (gs.map (·, 1)) true true }

/-- The bytes of a list that lie at an offset of a handle and whose key can be had, as `someStored` takes them. -/
def reachable (h : Hnd) (place : Nat → Nat) (bs : List (Nat × Byte × Bool)) : M (List EngByte) := do
  let l ← bs.mapM fun (a, b) => do return (← tryM (engKey h place .wr a)).map fun k => (k, if h.space then none else some (h.addr a), b)
  return l.filterMap id

/-- The granules that a failing operation would have set full are full and, but for those that the good bytes it wrote fill, poisoned
(R227). -/
def failGranules (head : OpHead) (h : Hnd) (place : Nat → Nat) (offs : List Nat) (written : List Nat) : M Unit := do
  poisonGranules head h place offs
  let s ← getS
  let who : Who := { ctx := head.ctx, core := head.core, slot := head.slot, uid := head.uid }
  let before := if h.space then (head.wrote.filter fun e => !e.2 && (head.unfilled h offs).contains e.1).filterMap fun e => scratchAt s who (place (h.addr e.1)) 1 else []
  let written := written ++ before
  let gs := ((written.filter (2 ^ 52 ≤ ·)).map granuleOf).dedup
  setGranules (gs.filter fun g => (List.range 16).all fun i => written.contains (2 ^ 52 + 16 * g + i)) true true

/-! ### Copies (R230-R233) -/

/-- One byte that a copy moves: where it goes, and where it comes from or what it is. -/
structure Piece where
  dst : Nat
  src : Option Nat
  fill : Byte

/-- The bytes of one element of `e` bytes. -/
def pieceElem (e dst : Nat) (src : Option Nat) (fill : Nat) : List Piece :=
  (List.range e).map fun i => { dst := dst + i, src := src.map (· + i), fill := BitVec.ofNat 8 (fill / 256 ^ i) }

/-- Element bytes of a form (R231). -/
def formBytes (form : Nat) : Nat := if form = 0 || form = 7 then 1 else 2 ^ ((form - 1) % 3)

/-- The bytes that a copy moves (R231); `idx` is the .gth index list. -/
def copyPlan (form s d : Nat) (p1 p2 p3 : Word) (ss sd : Nat) (idx : List Nat) : List Piece :=
  let y := p1.toNat % 2 ^ 32
  let x := p1.toNat / 2 ^ 32
  let e := formBytes form
  if form = 0 then pieceElem p1.toNat d (some s) 0
  else if form ≤ 3 then
    (List.range y).flatMap fun i => (List.range x).flatMap fun j =>
      pieceElem e (d + j * sd + i * e) (some (s + i * ss + j * e)) 0
  else if form ≤ 6 then
    let y2 := p2.toNat % 2 ^ 32
    let x2 := p2.toNat / 2 ^ 32
    let t := p3.toNat / 2 ^ 32 % 2 ^ 16
    let v := p3.toNat / 2 ^ 48
    if y = 0 || x = 0 then []
    else (List.range y2).flatMap fun i => (List.range x2).flatMap fun j =>
      pieceElem e (d + i * sd + j * e)
        (if t ≤ i && i - t < y && v ≤ j && j - v < x then some (s + (i - t) * ss + (j - v) * e) else none) (p3.toNat % 2 ^ 32)
  else
    idx.zipIdx.flatMap fun (i, j) => pieceElem x (d + j * sd) (some (s + i * ss)) 0

/-- Does a form's alignment hold (R232)? -/
def copyAligned (form s d ss sd : Nat) : Bool :=
  form = 0 || form = 7 || [s, d, ss, sd].all (· % formBytes form == 0)

/-- Does a copy touch nothing (R232, R233)? A .gth copy of rows of no bytes still reads its index list. -/
def copyEmpty (c : CopyOp) : Bool :=
  let y := c.p1.toNat % 2 ^ 32
  let x := c.p1.toNat / 2 ^ 32
  if c.cores = some 0 then true
  else if c.form = 0 then c.p1 = 0
  else if c.form = 7 then y = 0
  else y = 0 || x = 0 || (4 ≤ c.form && c.form ≤ 6 && (c.p2.toNat % 2 ^ 32 = 0 || c.p2.toNat / 2 ^ 32 = 0))

/-- The index list of a .gth copy: z32 elements at a cluster scratchpad address (R231). -/
def copyIndices (c : CopyOp) : M (List Nat) := do
  if c.form ≠ 7 then return []
  else
    let s ← getS
    let who ← getWho
    (List.range (c.p1.toNat % 2 ^ 32)).mapM fun j => do
      let bs ← (List.range 4).mapM fun i => do
        match scratchAt s who (c.p2.toNat + 4 * j + i) 1 with
        | some k =>
          let (b, bad) ← engByte k
          if bad then throw (.code 5)
          return b
        | none => throw (.code 2)
      return leNat bs

/-- Is every source byte of a plan inside the space and the window, where these bound it (R171, R232)? -/
def sourceInside (s : State) (who : Who) (hs : Hnd) (plan : List Piece) : Bool :=
  !hs.space || plan.all fun x => x.src.all fun a => (scratchAt s who (hs.addr a) 1).isSome

/-- Is every destination byte of a plan inside them? -/
def destInside (s : State) (who : Who) (hd : Hnd) (plan : List Piece) : Bool :=
  !hd.space || plan.all fun x => (scratchAt s who (hd.addr x.dst) 1).isSome

/-- The checks on records, extents and the window that come before the first byte (R232; of a multicast, whose destinations fail one by one by R233,
the window of the sources), and the bytes to move. Where several fail, the first in this
order gives the code (DESIGN CHOICE, LOG 42). DEDUCED: LOG 31. -/
def copyChecks (c : CopyOp) (hs hd : Hnd) : M (List Piece) := do
  if !hs.valid || !hd.valid then throw (.code 1)
  if hd.ro then throw (.code 3)
  if c.cores.isSome && !hd.space then throw (.code 1)
  if copyEmpty c then return []
  let idx ← copyIndices c
  let plan := copyPlan c.form c.s.toNat c.d.toNat c.p1 c.p2 c.p3 hs.stride hd.stride idx
  if !plan.all (fun x => hd.inBounds x.dst 1 && x.src.all (hs.inBounds · 1)) then throw (.code 2)
  if !copyAligned c.form c.s.toNat c.d.toNat hs.stride hd.stride then throw (.code 4)
  let s ← getS
  let who ← getWho
  if !sourceInside s who hs plan || (c.cores.isNone && !destInside s who hd plan) then throw (.code 2)
  return plan

/-- The source bytes of a plan, as they are before a byte is written. -/
def copySources (hs : Hnd) (plan : List Piece) : M (List (Nat × Byte × Bool)) :=
  plan.mapM fun x => do
    match x.src with
    | some a =>
      let (b, bad) ← engByte (← engKey hs id .rd a)
      return (x.dst, b, bad)
    | none => return (x.dst, x.fill, false)

/-- Write bytes at offsets of a handle, of an operation that writes those at the offsets `all` in the end. -/
def copyWrite (hd : Hnd) (place : Nat → Nat) (all : List Nat) (xs : List (Nat × Byte × Bool)) : M Unit := do
  let bs ← xs.mapM fun (a, b, bad) => do
    let k ← engKey hd place .wr a
    return (k, if hd.space then none else some (hd.addr a), b, bad)
  let who ← getWho
  if who.wrote.isEmpty && who.only.isNone then engStore bs
  else
    let s ← getS
    let gran (a : Nat) : Option Nat := if hd.space then (scratchAt s who (place (hd.addr a)) 1).map granuleOf else none
    let written := who.wrote.map (·.1) ++ xs.map (·.1)
    engFill bs (fun g => all.all fun a => gran a != some g || written.contains a) (fun g => who.wrote.any fun e => e.2 && gran e.1 == some g)

/-- The pieces that an operation moves now: not those that it has moved before, and of a part (LOG 19) those in the aligned 8 bytes, which are
written at once (R195), of the offsets that it is limited to. -/
def movesNow (who : Who) (hd : Hnd) (plan : List Piece) : List Piece :=
  plan.filter fun x =>
    !who.wrote.any (·.1 == x.dst) &&
      (match who.only with
       | some offs => offs.any fun a => hd.addr a / 8 == hd.addr x.dst / 8
       | none => true)

/-- What the pieces of a copy move, in the order in which they are moved: the bytes of a source that the copy has written before are
read as they were or as they are, as free bits choose. `ks` are the source key and the destination keys of each piece. -/
def movedIn (ks : List (Option Nat × List Nat)) (xs : List (Nat × Byte × Bool)) (pick : List Bool) : List (Nat × Byte × Bool) :=
  (((ks.zip xs).zip pick).foldl (fun (done, out) e =>
    let new := e.1.1.1.bind fun a => done.find? fun (w : Nat × Byte × Bool) => w.1 == a
    let x := match new with
      | some w => if e.2 then (e.1.2.1, w.2) else e.1.2
      | none => e.1.2
    (e.1.1.2.map (fun k => (k, x.2)) ++ done, x :: out)) (([] : List (Nat × Byte × Bool)), ([] : List (Nat × Byte × Bool)))).2.reverse

/-- A copy whose destination overlaps its source: its own writes may or may not be read, byte by byte (R232). The pieces are moved in
their order or in the reverse of it, which is free as well. DESIGN CHOICE: LOG 19. -/
def overlapped (ks : List (Option Nat × List Nat)) (xs : List (Nat × Byte × Bool)) : M (List (Nat × Byte × Bool)) := do
  if ks.any fun k => k.1.any fun a => ks.any (·.2.contains a) then
    let pick ← freeBits (xs.length + 1)
    if pick.headD false then return movedIn ks xs pick.tail
    else return (movedIn ks.reverse xs.reverse pick.tail).reverse
  else return xs

/-- The source keys of a plan. -/
def sourceKeys (hs : Hnd) (plan : List Piece) : M (List (Option Nat)) :=
  plan.mapM fun x => do
    match x.src with
    | some a => return some (← engKey hs id .rd a)
    | none => return none

/-- Replace bits 24:20 of a cluster scratchpad address (R233). -/
def onCore (c : Nat) (a : Nat) : Nat := a / 2 ^ 25 * 2 ^ 25 + c * 2 ^ 20 + a % 2 ^ 20

/-- Does a destination lie wholly inside the context's window on a core of the cluster, with no uncorrectable error there (R233)? -/
def destOk (s : State) (who : Who) (hd : Hnd) (place : Nat → Nat) (plan : List Piece) : Bool :=
  plan.all fun x =>
    match scratchAt s who (place (hd.addr x.dst)) 1 with
    | some k => !s.granUe.contains (granuleOf k)
    | none => false

/-- The cores that a multicast names. -/
def namedCores (m : BitVec 24) : List Nat := (List.range 24).filter (m.getLsbD ·)

/-- The bytes of a plan whose source and place can be had. -/
def planBytes (hs hd : Hnd) (place : Nat → Nat) (plan : List Piece) : M (List EngByte) := do
  let xs ← plan.mapM fun x => do
    match x.src with
    | some a => return (← tryM (do engByte (← engKey hs id .rd a))).map fun b => (x.dst, b)
    | none => return some (x.dst, x.fill, false)
  reachable hd place (xs.filterMap id)

/-- The pieces of a plan that are due are moved to one place: the bytes written. -/
def movePlan (hs hd : Hnd) (plan : List Piece) : M (List (Nat × Byte × Bool)) := do
  let now := movesNow (← getWho) hd plan
  let keys ← now.mapM fun x => engKey hd id .wr x.dst
  let xs ← copySources hs now
  let xs ← overlapped ((← sourceKeys hs now).zip (keys.map ([·]))) xs
  copyWrite hd id (plan.map (·.dst)) xs
  return xs

/-- The code of an operation that has moved its last bytes: 5 where one was poison (R227). -/
def movedCode (xs : List (Nat × Byte × Bool)) : M Nat := do
  return if xs.any (·.2.2) || (← getWho).wrote.any (·.2) then 5 else 0

/-- A copy as one step (R231-R233): the code it retires with. A multicast with a failing destination retires with code 11 even where a source
byte is poison (DESIGN CHOICE, LOG 42). -/
def copyBody (c : CopyOp) : M Nat := do
  let hs := parseHnd c.src.toNat
  let hd := parseHnd c.dst.toNat
  let plan ← copyChecks c hs hd
  match c.cores with
  | none => movedCode (← movePlan hs hd plan)
  | some m =>
    if ((plan.map fun x => hd.addr x.dst / 2 ^ 20).dedup).length > 1 then throw (.code 2)
    let xs ← copySources hs plan
    let s ← getS
    let who ← getWho
    let cs := namedCores m
    let good := cs.filter fun k => destOk s who hd (onCore k) plan
    let keys ← plan.mapM fun x => good.mapM fun k => engKey hd (onCore k) .wr x.dst
    let xs ← overlapped ((← sourceKeys hs plan).zip keys) xs
    for k in good do copyWrite hd (onCore k) (plan.map (·.dst)) xs
    for k in cs.filter (fun k => !destOk s who hd (onCore k) plan) do
      let _ ← someStored (← reachable hd (onCore k) xs)
      poisonGranules c.head hd (onCore k) (plan.map (·.dst))
    return if good.length < cs.length then 11 else if cs ≠ [] && xs.any (·.2.2) then 5 else 0

/-- The bytes that a copy would have written, of those whose source and place can be had; none where its checks fail (R227, R232). -/
def copyLate (c : CopyOp) : M (List EngByte) := do
  let hs := parseHnd c.src.toNat
  let hd := parseHnd c.dst.toNat
  match ← tryM (copyChecks c hs hd) with
  | none => return []
  | some plan =>
    match c.cores with
    | none => planBytes hs hd id (movesNow (← getWho) hd plan)
    | some m => return (← (namedCores m).mapM fun k => planBytes hs hd (onCore k) plan).flatten

/-- The destination offsets that a failed copy would have written. -/
def copyTargets (c : CopyOp) : List Nat :=
  (copyPlan c.form c.s.toNat c.d.toNat c.p1 c.p2 c.p3 (parseHnd c.src.toNat).stride (parseHnd c.dst.toNat).stride
    (List.replicate (if c.form = 7 then c.p1.toNat % 2 ^ 32 else 0) 0)).map (·.dst)

/-- A copy fails, having written bytes at some keys: its granules are poisoned on every destination core (R227). -/
def copyFail (c : CopyOp) (written : List Nat) : M Unit := do
  let hd := parseHnd c.dst.toNat
  match c.cores with
  | none => failGranules c.head hd id (copyTargets c) written
  | some m => for k in namedCores m do failGranules c.head hd (onCore k) (copyTargets c) written

/-- Retire what the cluster's copy engine has completed for a pack, in issue order. -/
def retireCopies (k uid : Nat) : M Unit := do
  let c := (← getS).cluster k
  let (hs, l) := popDone CopyOp.head uid true c.cpq
  modS fun s => s.setCluster k { s.cluster k with cpq := l }
  retireAll .cp hs

/-- A copy ends with what `h` says: its record in the queue is replaced and what has completed retires. -/
def copySettle (k n : Nat) (c : CopyOp) (h : OpHead × Option (List Nat)) : M Unit := do
  if let some ks := h.2 then copyFail c ks
  modS fun s =>
    let x := s.cluster k
    s.setCluster k { x with cpq := x.cpq.set n { c with head := h.1 } }
  retireCopies k c.head.uid

/-- COPY_COMPLETE (R232): operation `n` of a cluster's copy engine. -/
def execCopyComplete (k n : Nat) (s : State) : Host.Outcome State Fault Refusal :=
  event s (do
    let q := ((← getS).cluster k).cpq
    match q[n]? with
    | none => notNow
    | some c =>
      if c.head.result.isSome || heldUp CopyOp.head (q.take n) c.head then notNow
      let h ← engineRun c.head 2 (copyBody c) (copyLate c)
      copySettle k n c h)

/-- Issue a copy: CPY, or CPYM with its core mask. -/
def issueCopy (o : Opnd) (multi : Bool) : M Unit := do
  let p ← getP
  let c := o.rc
  let src ← readRecord o.a.toNat none
  let dst ← readRecord o.d.toNat none
  closeRegion
  let head ← issueOp .cp
  let k := clusterOf head.core
  modS fun s =>
    let x := s.cluster k
    s.setCluster k { x with cpq := x.cpq ++ [{
      head, form := o.f.toNat, s := p.opB o, d := p.readG c, p1 := p.readG (c + 1), p2 := p.readG (c + 2), p3 := p.readG (c + 3)
      src := BitVec.ofNat 512 src, dst := BitVec.ofNat 512 dst
      cores := if multi then some (BitVec.setWidth 24 (p.readG (c + 4))) else none }] }
  modP (·.next o)
  modS (·.accepted (clusterOf · == k) fun c => { c with cpLast := c.cycle })

/-- CPY (R230, R231). -/
def execCpy (o : Opnd) (s : State) : Host.Outcome State Fault Refusal := perform (.cpy o) (issueCopy o false) s
/-- CPYM (R233). -/
def execCpym (o : Opnd) (s : State) : Host.Outcome State Fault Refusal := perform (.cpym o) (issueCopy o true) s

/-! ### Gathers (R234) -/

/-- Row bytes. -/
def gatherRow (k : Nat) : Nat := 16 * 2 ^ k

/-- The bytes that a gather moves. -/
def gatherPlan (g : GatherOp) (ss : Nat) : List Piece :=
  g.idx.flatMap fun (l, i) => pieceElem (gatherRow g.k) (l * gatherRow g.k) (some (g.s.toNat + i * ss)) 0

/-- The checks of a gather on its records, extents and the window, as a copy's (R232), and the bytes to move (R234). Where several fail, the first in
this order gives the code (DESIGN CHOICE, LOG 42). -/
def gatherChecks (g : GatherOp) : M (List Piece) := do
  let hs := parseHnd g.src.toNat
  let hd := parseHnd g.dst.toNat
  if !hs.valid || !hd.valid || !hd.space then throw (.code 1)
  if hd.ro then throw (.code 3)
  let plan := gatherPlan g hs.stride
  if !plan.all (fun x => hd.inBounds x.dst 1 && x.src.all (hs.inBounds · 1)) then throw (.code 2)
  let s ← getS
  let who ← getWho
  if !sourceInside s who hs plan || !destInside s who hd plan then throw (.code 2)
  return plan

/-- A gather as one step: the code it retires with. -/
def gatherBody (g : GatherOp) : M Nat := do
  let plan ← gatherChecks g
  movedCode (← movePlan (parseHnd g.src.toNat) (parseHnd g.dst.toNat) plan)

/-- The bytes that a gather would have written, as `copyLate`. -/
def gatherLate (g : GatherOp) : M (List EngByte) := do
  let hs := parseHnd g.src.toNat
  let hd := parseHnd g.dst.toNat
  match ← tryM (gatherChecks g) with
  | none => return []
  | some plan => planBytes hs hd id (movesNow (← getWho) hd plan)

/-- Retire what the cluster's gather engine has completed for a pack. -/
def retireGathers (k uid : Nat) : M Unit := do
  let c := (← getS).cluster k
  let (hs, l) := popDone GatherOp.head uid true c.gtq
  modS fun s => s.setCluster k { s.cluster k with gtq := l }
  retireAll .gt hs

/-- A gather fails: its granules are poisoned (R227). -/
def gatherFail (g : GatherOp) (written : List Nat) : M Unit :=
  failGranules g.head (parseHnd g.dst.toNat) id ((gatherPlan g 0).map (·.dst)) written

/-- A gather ends with what `h` says. -/
def gatherSettle (k n : Nat) (g : GatherOp) (h : OpHead × Option (List Nat)) : M Unit := do
  if let some ks := h.2 then gatherFail g ks
  modS fun s =>
    let x := s.cluster k
    s.setCluster k { x with gtq := x.gtq.set n { g with head := h.1 } }
  retireGathers k g.head.uid

/-- GATHER_COMPLETE (R234): operation `n` of a cluster's gather engine. -/
def execGatherComplete (k n : Nat) (s : State) : Host.Outcome State Fault Refusal :=
  event s (do
    let q := ((← getS).cluster k).gtq
    match q[n]? with
    | none => notNow
    | some g =>
      if g.head.result.isSome || heldUp GatherOp.head (q.take n) g.head then notNow
      let h ← engineRun g.head 3 (gatherBody g) (gatherLate g)
      gatherSettle k n g h)

/-- GTH (R234). -/
def execGth (o : Opnd) (s : State) : Host.Outcome State Fault Refusal :=
  perform (.gth o) (do
    checkOperands (.gth o)
    let p ← getP
    let src ← readRecord o.a.toNat (some (p.part o))
    let dst ← readRecord o.d.toNat (some (p.part o))
    closeRegion
    let head ← issueOp .gt
    let k := clusterOf head.core
    modS fun s =>
      let x := s.cluster k
      s.setCluster k { x with gtq := x.gtq ++ [{
        head, k := o.f.toNat, s := p.opB o, idx := (p.partList o).map fun l => (l, (p.lane l).readV o.vc 1)
        src := BitVec.ofNat 512 src, dst := BitVec.ofNat 512 dst }] }
    modP (·.next o)
    modS (·.accepted (clusterOf · == k) fun c => { c with gtLast := c.cycle })) s

/-! ### A part of an operation's writes (R191, R203; LOG 19) -/

/-- An operation writes a part of its bytes now, those at and around some offsets of its destination; where it would stop it writes nothing. The
head of the operation that has written them. -/
def partOf (h : OpHead) (offs : List Nat) (move : M (List (Nat × Byte × Bool))) : M OpHead := do
  modify fun w => { w with covered := h.cover }
  let xs ← asWho { h.who with only := some offs } move
  let w ← get
  let good := (w.log.map (·.1)).filter fun k => isHbm k && !w.marks.contains (.hbm (k / 32))
  return { h with wrote := h.wrote ++ xs.map fun x => (x.1, x.2.2), cover := h.cover ++ good }

/-- Operation `n` of a cluster's copy engine writes a part of its bytes; a multicast writes all of them at once. -/
def partCopy (k n : Nat) (offs : List Nat) : M Unit := do
  let q := ((← getS).cluster k).cpq
  match q[n]? with
  | none => notNow
  | some c =>
    if c.head.result.isSome || heldUp CopyOp.head (q.take n) c.head || c.cores.isSome then notNow
    let hs := parseHnd c.src.toNat
    let hd := parseHnd c.dst.toNat
    let head ← partOf c.head offs (do movePlan hs hd (← copyChecks c hs hd))
    modS fun s => s.setCluster k { s.cluster k with cpq := (s.cluster k).cpq.set n { c with head } }

/-- Operation `n` of a cluster's gather engine writes a part of its bytes. -/
def partGather (k n : Nat) (offs : List Nat) : M Unit := do
  let q := ((← getS).cluster k).gtq
  match q[n]? with
  | none => notNow
  | some g =>
    if g.head.result.isSome || heldUp GatherOp.head (q.take n) g.head then notNow
    let head ← partOf g.head offs (do movePlan (parseHnd g.src.toNat) (parseHnd g.dst.toNat) (← gatherChecks g))
    modS fun s => s.setCluster k { s.cluster k with gtq := (s.cluster k).gtq.set n { g with head } }

/-! ### Waiting and error state (R225, R229) -/

/-- WAIT as a part of a meaning. -/
def waitBody (o : Opnd) : M Unit := do
  let p ← getP
  let e := engOf o.f.toNat
  let n := (p.opB o).toNat
  if p.cnt.of e > n then blockM (.count e n)
  if p.sys.asyncerr.getLsbD (engCode e) then trapM 0x0C p.sys.asyncerr
/-- WAIT (R225). -/
def execWait (o : Opnd) (s : State) : Host.Outcome State Fault Refusal :=
  perform (.wait o) (do waitBody o; modP (·.next o)) s

/-- ASYNCERR after ASTAT.cp to .sc: one class cleared (R229). DEDUCED: LOG 35. -/
def clearClass (y : Word) (c : Nat) : Word :=
  let y' := y &&& ~~~(BitVec.ofNat 64 (2 ^ c))
  if (y.extractLsb' 8 3).toNat = c then y' &&& 0x000000000000001F else y'

/-- The counters as ASTAT.cnt reads them (R229). -/
def Counts.word (c : Counts) : Word :=
  BitVec.ofNat 64 (c.cp % 256 + c.gt % 256 * 2 ^ 8 + c.mx % 256 * 2 ^ 16 + c.cl % 256 * 2 ^ 24 + c.sc % 256 * 2 ^ 32)

/-- ASTAT's effect on a pack (R229). -/
def Pack.astat (p : Pack) (o : Opnd) : Pack :=
  let y := p.sys.asyncerr
  match o.f.toNat with
  | 0 => { p.writeG o.d.toNat y with sys := { p.sys with asyncerr := 0 } }
  | 6 => p.writeG o.d.toNat p.cnt.word
  | n => { p.writeG o.d.toNat y with sys := { p.sys with asyncerr := clearClass y (n - 1) } }

/-- ASTAT (R229). -/
def execAstat (o : Opnd) (s : State) : Host.Outcome State Fault Refusal := onPack s fun p => (p.astat o).next o

/-! ### Collectives (R249-R252) -/

/-- COLL (R249). -/
def execColl (o : Opnd) (s : State) : Host.Outcome State Fault Refusal :=
  perform (.coll o) (do
    let p ← getP
    let src ← readRecord o.a.toNat none
    let dst ← readRecord o.d.toNat none
    let grp ← readRecord o.rc none
    closeRegion
    let head ← issueOp .cl
    modS fun s => { s with colls := s.colls ++ [{
      head, kind := o.f.toNat % 4, op := o.f.toNat / 4, ty := o.x.ty2, rm := o.x.rm, count := p.opB o
      src := BitVec.ofNat 512 src, dst := BitVec.ofNat 512 dst, grp := BitVec.ofNat 512 grp }] }
    modP (·.next o)
    modS (·.accepted (fun _ => true) fun c => { c with clLast := c.cycle })) s

/-- A group record as read: its tag, members, this rank, the root, and the device words (R249). -/
structure Group where
  tag : Nat
  size : Nat
  rank : Nat
  root : Nat
  devs : List Nat

/-- Is a group record valid for a device (R249)? -/
def Group.ok (g : Group) (d : Device) : Bool :=
  2 ≤ g.size && g.size ≤ 9216 && g.rank < g.size && g.root < g.size && g.devs.Nodup &&
    g.devs.all (fun w => w / 2 ^ 16 == 0) &&
    g.devs.getD g.rank (2 ^ 32) == d.domain * 256 + d.index

/-- Red of R250 and R251 over the members' elements in rank order. -/
def reduce (op : Nat) (t : BitVec 4) (rm : Nat) (xs : List Nat) : Nat :=
  let opc := if op = 0 then 0 else op + 1
  let nan := if isFloatType t then xs.find? (fmtOf t).isNan else none
  match nan with
  | some x => (fmtOf t).quiet x
  | none => (redTree (scanOp opc t rm) (fun r => xs[r]?) 14 0).getD 0

/-- The elements of bytes. -/
def elemsOf (n : Nat) (bs : List Byte) : List Nat :=
  (List.range (bs.length / n)).map fun i => leNat ((bs.drop (n * i)).take n)

/-- The destination elements of a rank (R250), from the members' source elements in rank order. -/
def collResult (c : CollOp) (g : Group) (srcs : List (List Nat)) : List Nat :=
  let n := c.count.toNat
  match c.kind with
  | 0 => (List.range n).map fun i => reduce c.op c.ty c.rm.toNat (srcs.map (·.getD i 0))
  | 1 => (List.range n).map fun i => reduce c.op c.ty c.rm.toNat (srcs.map (·.getD (g.rank * n + i) 0))
  | 2 => srcs.flatMap fun xs => (List.range n).map (xs.getD · 0)
  | _ => (List.range n).map fun i => (srcs.getD g.root []).getD i 0

/-- The source elements that a rank brings (R250). -/
def collSrcCount (c : CollOp) (g : Group) : Nat :=
  match c.kind with
  | 1 => g.size * c.count.toNat
  | 3 => if g.rank = g.root then c.count.toNat else 0
  | _ => c.count.toNat

/-- The destination elements (R250). -/
def collDstCount (c : CollOp) (size : Nat) : Nat := if c.kind = 2 then size * c.count.toNat else c.count.toNat

/-- Read the group record of a collective; code 1 when it is invalid, 2 when it lies beyond the handle's extent. -/
def readGroup (c : CollOp) : M Group := do
  let h := parseHnd c.grp.toNat
  if !h.valid then throw (.code 1)
  if !h.inBounds 0 16 then throw (.code 2)
  let (hb, bad) ← engLoad h 0 16
  let x := leNat hb
  let size := bits x 31 0
  if size < 2 || size > 9216 then throw (.code 1)
  if !h.inBounds 0 (16 + 4 * size) then throw (.code 2)
  let (ds, bad') ← engLoad h 16 (4 * size)
  if bad || bad' then throw (.code 5)
  let g : Group := { tag := bits x 127 96, size, rank := bits x 63 32, root := bits x 95 64, devs := elemsOf 4 ds }
  if !g.ok (← getS).dev then throw (.code 1)
  return g

/-- Does a member bring the operation that matches a collective: the one with its TAG and its number (R252)? -/
def CollOp.matches (c : CollOp) (x : PeerRank) : Bool := c.tag == some x.tag && c.nth != 0 && c.nth == x.nth

/-- The bytes of a matched collective's destination at this member (R250). -/
def collBytes (c : CollOp) (g : Group) (own : List Byte) (peers : List PeerRank) : List Byte :=
  let n := typeBits c.ty / 8
  let srcs := (List.range g.size).map fun r =>
    if r = g.rank then elemsOf n own else elemsOf n (((peers.find? fun x => x.rank == r && c.matches x).map (·.src)).getD [])
  (collResult c g srcs).flatMap (leBytes n)

/-- Do matched operations agree in all that R252 names? -/
def CollOp.agrees (c : CollOp) (g : Group) (x : PeerRank) : Bool :=
  x.kind == c.kind && x.op == c.op && x.ty == c.ty && x.count == c.count && x.root == g.root && x.devices == g.devs

/-- The checks of a collective (R249, R252), and its group; a member of the own domain that no plane reaches fails it (R334); it does not
happen while a member's matching part is missing. Where several checks fail, the first in this order gives the code (DESIGN CHOICE,
LOG 42). -/
def collChecks (c : CollOp) (peers : List PeerRank) : M Group := do
  let hs := parseHnd c.src.toNat
  let hd := parseHnd c.dst.toNat
  if !hs.valid || !hd.valid then throw (.code 1)
  let g ← readGroup c
  if hd.ro then throw (.code 3)
  let n := typeBits c.ty / 8
  if !hs.inBounds 0 (n * collSrcCount c g) || !hd.inBounds 0 (n * collDstCount c g.size) then throw (.code 2)
  let d := (← getS).dev
  if g.devs.any fun w => w / 256 == d.domain && d.cutOff (w % 256) then throw (.code 9)
  let others := (List.range g.size).filter (· ≠ g.rank)
  if !(others.all fun r => peers.any fun x => x.rank == r && c.matches x) then blockM .repack
  if !(peers.filter (c.matches ·)).all (c.agrees g ·) then throw (.code 9)
  return g

/-- A matched collective at this member, as one step (R250-R252). DESIGN CHOICE: LOG 30. -/
def collBody (c : CollOp) (peers : List PeerRank) : M Nat := do
  let hs := parseHnd c.src.toNat
  let hd := parseHnd c.dst.toNat
  let g ← collChecks c peers
  let n := typeBits c.ty / 8
  let keys ← (List.range (n * collDstCount c g.size)).mapM fun i => engKey hd id .wr i
  let (own, bad) ← engLoad hs 0 (n * collSrcCount c g)
  if bad then throw (.code 5)
  engStore ((keys.zip (collBytes c g own peers)).zipIdx.map fun ((k, b), i) => (k, if hd.space then none else some (hd.addr i), b, false))
  return 0

/-- The bytes that a collective would have written, where its source can be read; what comes of a poisoned source fills no granule with good
data (R227). -/
def collLate (c : CollOp) (peers : List PeerRank) : M (List EngByte) := do
  let hs := parseHnd c.src.toNat
  let hd := parseHnd c.dst.toNat
  match ← tryM (do
      let g ← collChecks c peers
      return (g, ← engLoad hs 0 (typeBits c.ty / 8 * collSrcCount c g))) with
  | none => return []
  | some (g, own, bad) =>
    let bs := (collBytes c g own peers).zipIdx.map fun e => (e.2, e.1, bad && hd.space)
    let s ← getS
    let who ← getWho
    if hd.space && !(bs.all fun e => (scratchAt s who (hd.addr e.1) 1).isSome) then return []
    reachable hd id bs

/-- What is left of a collective that leaves the engine: it still counts for its TAG, where that has been read, and it has no number yet (R252;
DEDUCED, LOG 30). -/
def CollOp.leave (c : CollOp) : Option CollOp :=
  if c.tag.isSome && c.nth = 0 then
    some { c with head := { c.head with uid := 0, heldOn := none, asked := [], result := some (c.head.result.getD 0) }, gone := true }
  else none

/-- Retire what the collective engine has completed for a pack. -/
def retireColls (uid : Nat) : M Unit := do
  let q := (← getS).colls
  let (hs, _) := popDone CollOp.head uid true q
  let left := q.filterMap fun c => if hs.any (fun h => h.uid == c.head.uid && h.seq == c.head.seq) then c.leave else some c
  modS fun s => { s with colls := left }
  retireAll .cl hs

/-- A collective fails: its granules are poisoned (R227). -/
def collFail (c : CollOp) (written : List Nat) : M Unit := do
  let g ← tryM (asWho { ctx := c.head.ctx, core := c.head.core, slot := c.head.slot, uid := c.head.uid, direct := true } (readGroup c))
  let size := (g.map (·.size)).getD 1
  failGranules c.head (parseHnd c.dst.toNat) id (List.range (typeBits c.ty / 8 * collDstCount c size)) written

/-- A collective ends with what `h` says. -/
def collSettle (n : Nat) (c : CollOp) (h : OpHead × Option (List Nat)) : M Unit := do
  if let some ks := h.2 then collFail c ks
  modS fun s => { s with colls := s.colls.set n { c with head := h.1 } }
  retireColls c.head.uid

/-- The TAG that a collective's group record holds; none where the record cannot be read yet, and `some none` where there is no valid one to
read (R7). -/
def collTag (c : CollOp) : M (Option (Option Nat)) := do
  let w ← get
  let r ← tryCatch (do return some (some (← asWho c.head.who (readGroup c)).tag)) fun e =>
    return match e with
      | .pageFault _ _ _ _ | .miss _ _ => none
      | _ => some none
  set w
  return r

/-- Read the TAGs of the collectives, as far as their records can be read, and number them by TAG in issue order, up to the first whose record
cannot be read yet, unless `stuck` says that one before has not been; those that have left the engine go once they are numbered (R252; DEDUCED, LOG
30). -/
def numberColls (stuck : Bool) : List CollOp → M (List CollOp)
  | [] => return []
  | c :: r => do
    let tag ← (if c.tag.isSome || c.head.result.isSome then return some c.tag else collTag c)
    match tag with
    | none => return c :: (← numberColls true r)
    | some none => return c :: (← numberColls stuck r)
    | some (some t) =>
      if stuck || c.nth ≠ 0 then return { c with tag := some t } :: (← numberColls stuck r)
      else
        let n := Table.getD (← getS).dev.tags t 0 + 1
        modDev fun d => { d with tags := Table.set d.tags t n }
        let r' ← numberColls stuck r
        return if c.gone then r' else { c with tag := some t, nth := n } :: r'

/-- Number the device's collectives (R252). -/
def numberNow : M Unit := do
  let q ← numberColls false (← getS).colls
  modS fun s => { s with colls := q }

/-- Number the device's collectives; the numbers stand, whatever comes of the event (R252). -/
def numberAll : M Unit := do
  numberNow
  keep

/-- COLL_COMPLETE (R252): operation `n` is matched; `peers` is what the other members bring. -/
def execCollComplete (n : Nat) (peers : List PeerRank) (s : State) : Host.Outcome State Fault Refusal :=
  event s (do
    numberAll
    let q := (← getS).colls
    match q[n]? with
    | none => notNow
    | some c =>
      if c.head.result.isSome || heldUp CollOp.head (q.take n) c.head then notNow
      let h ← engineRun c.head 5 (collBody c peers) (collLate c peers)
      collSettle n c h)

/-- COLL_TIMEOUT (R252): operation `n` waits past the collective timeout, or a link failed. -/
def execCollTimeout (n : Nat) (s : State) : Host.Outcome State Fault Refusal :=
  event s (do
    numberAll
    match (← getS).colls[n]? with
    | none => notNow
    | some c =>
      if c.head.result.isSome then notNow
      collSettle n c ({ c.head with heldOn := none, result := some 9 }, some []))

end Sys2Proof.Machine
end

