-- ==== Sys2Proof/Machine/Matrix.lean ====
section
/-! DEFINITION. The matrix engine: its instructions, its arithmetic (spec/03_numbers.md R65-R69), and the events that run,
release and retire its operations (spec/10_engines.md R235-R248). -/

namespace Sys2Proof.Machine

/-! ### Operand elements (R66, R182) -/

/-- An operand element: (−1)^neg × m × 2^e, an infinity, or a NaN. -/
inductive MxVal where
  | fin (neg : Bool) (m : Nat) (e : Int)
  | inf (neg : Bool)
  | nan
deriving DecidableEq, Repr

/-- An element of an IEEE-like format. -/
def Fmt.mx (f : Fmt) (x : Nat) : MxVal :=
  if f.isNan x then .nan
  else if f.isInf x then .inf (f.sign x)
  else if f.exp x = 0 then .fin (f.sign x) (f.frac x) (1 - Int.ofNat f.bias - Int.ofNat f.fb)
  else .fin (f.sign x) (2 ^ f.fb + f.frac x) (Int.ofNat (f.exp x) - Int.ofNat f.bias - Int.ofNat f.fb)

/-- An element of a BX block. -/
def bxMx (w e0 e1 x : Nat) : MxVal :=
  let sel := x.testBit (w - 2)
  let m := x % 2 ^ (w - 2)
  if e0 = 0xFF || e1 = 0xFF || (m = 0 && x.testBit (w - 1) && sel) then .nan
  else .fin (x.testBit (w - 1)) m (Int.ofNat (if sel then e1 else e0) - 127)

/-- The element width of a BX tensor format (R182). -/
def mxBxWidth (fmt : Nat) : Nat := if fmt = 17 then 6 else if fmt = 18 then 4 else 8

/-- Element `j` of a group (R62, R63). -/
def groupElem (fmt : Nat) (g : List Byte) (j : Nat) : MxVal :=
  let w := mxBxWidth fmt
  let b (i : Nat) : Nat := (g.getD i 0).toNat
  let exps := if fmt = 14 then 64 else 8 * w
  let x := if fmt = 14 then b j
    else (List.range w).foldl (fun a i => a * 2 + (if (b (8 * i + j / 8)).testBit (j % 8) then 1 else 0)) 0
  bxMx w (b (exps + 2 * (j / 32))) (b (exps + 1 + 2 * (j / 32))) x

/-- The dimensions 1 to 3 of a row number (R182). -/
def rowDims (r row : Nat) : Nat × Nat × Nat :=
  let sz := tensorSizes r
  let s1 := sz.getD 1 1
  let s2 := sz.getD 2 1
  (row % s1, row / s1 % s2, row / s1 / s2)

/-- Rows of a tensor. -/
def tensorRows (r : Nat) : Nat := (tensorSizes r).getD 1 0 * (tensorSizes r).getD 2 0 * (tensorSizes r).getD 3 0

/-- Is the format held in groups of 64 elements (R182)? -/
def isGroupFmt (fmt : Nat) : Bool := (fmtGroup fmt).isSome

/-- The byte offset of element (i0, row). -/
def rowOffset (r i0 row : Nat) : Nat :=
  let (a, b, c) := rowDims r row
  tensorOffset r i0 a b c

/-- Code 2 unless bytes of a handle in the scratchpad lie inside the context's window (R171, R243). -/
def engInside (h : Hnd) (off n : Nat) : M Unit := do
  if h.space then
    let s ← getS
    let who ← getWho
    if !((List.range n).all fun i => (scratchAt s who (h.addr (off + i)) 1).isSome) then throw (.code 2)

/-- The offset in the scale array of the scale of an element (R182). -/
def scaleOffset (r i0 row : Nat) : Nat :=
  2 * (if tensorScMode r = 2 then row else row * (((tensorSizes r).getD 0 0 + 31) / 32) + i0 / 32)

/-- The checks of a scale array, whose record is `sch`, for the scale of an element (R182, R243). -/
def scaleCheck (r sch i0 row : Nat) : M Unit := do
  if 2 ≤ tensorScMode r then
    let h := parseHnd sch
    if !h.valid || h.kind ≠ 1 then throw (.code 2)
    if !h.inBounds (scaleOffset r i0 row) 2 then throw (.code 2)
    engInside h (scaleOffset r i0 row) 2

/-- The scale exponent σ of an element (R182), and whether it carries poison. -/
def scaleAt (r sch i0 row : Nat) : M (Int × Bool) := do
  let e := tensorScExp r
  match tensorScMode r with
  | 0 => return (0, false)
  | 1 => return (e, false)
  | _ => do
    let (bs, bad) ← engLoad (parseHnd sch) (scaleOffset r i0 row) 2
    return (e + (BitVec.ofNat 16 (leNat bs)).toInt, bad)

/-- Add a scale exponent. -/
def MxVal.scale (s : Int) : MxVal → MxVal
  | .fin neg m e => .fin neg m (e + s)
  | v => v

/-- The first elements of the scale blocks of `n` elements from `i0` on. -/
def scaleBlocks (i0 n : Nat) : List Nat := (List.range ((i0 + n - 1) / 32 - i0 / 32 + 1)).map fun b => i0 / 32 * 32 + 32 * b

/-- The offsets and lengths of the bytes that hold `n` elements of a row from `i0` on (R182). -/
def rowSpans (r row i0 n : Nat) : List (Nat × Nat) :=
  match fmtGroup (tensorFmt r) with
  | some g => (List.range ((i0 + n - 1) / 64 - i0 / 64 + 1)).map fun k => (rowOffset r (64 * (i0 / 64 + k)) row, g)
  | none => [(rowOffset r i0 row, n * fmtBytes (tensorFmt r))]

/-- The checks of the scales and addresses of `n` elements of a row from `i0` on, before anything is read (R243). -/
def spanCheck (h : Hnd) (r sch row i0 n : Nat) : M Unit := do
  for i in scaleBlocks i0 n do scaleCheck r sch i row
  for e in rowSpans r row i0 n do engInside h e.1 e.2

/-- `n` elements of a row from `i0` on, with their scales, and whether a byte of them is poisoned. -/
def operandRow (h : Hnd) (r sch row i0 n : Nat) : M (List MxVal × Bool) := do
  let fmt := tensorFmt r
  let scales ← (scaleBlocks i0 n).mapM fun i => scaleAt r sch i row
  let scale (i : Nat) : Int := (scales.getD ((i0 + i) / 32 - i0 / 32) (0, false)).1
  let parts ← (rowSpans r row i0 n).mapM fun e => engLoad h e.1 e.2
  let bad := scales.any (·.2) || parts.any (·.2)
  match fmtGroup fmt with
  | some _ =>
    return ((List.range n).map fun i =>
      (groupElem fmt ((parts.getD ((i0 + i) / 64 - i0 / 64) ([], false)).1) ((i0 + i) % 64)).scale (scale i), bad)
  | none =>
    let f := fmtOf (BitVec.ofNat 4 fmt)
    return ((elemsOf (fmtBytes fmt) (parts.flatMap (·.1))).zipIdx.map fun (x, i) => (f.mx x).scale (scale i), bad)

/-! ### The accumulator (R65-R69) -/

/-- m × 2^e rounded to an integer, ties to even. -/
def placeInt (neg : Bool) (m : Nat) (e : Int) : Int := roundToInt 0 neg (m * 2 ^ e.toNat) (2 ^ (-e).toNat)

/-- What one product adds to an element (R66), or its class (R67). -/
inductive Product where
  | val (v : Int)
  | inf (neg : Bool)
  | nan

/-- The product of two elements at an anchor. -/
def product (a b : MxVal) (anchor : Int) : Product :=
  match a, b with
  | .nan, _ => .nan
  | _, .nan => .nan
  | .inf s, .inf t => .inf (s != t)
  | .inf s, .fin t m _ => if m = 0 then .nan else .inf (s != t)
  | .fin s m _, .inf t => if m = 0 then .nan else .inf (s != t)
  | .fin s m e, .fin t n f => .val (placeInt (s != t) (m * n) (e + f - anchor))

/-- The class tag after a product (R67). -/
def Tag.join (t : Tag) (p : Product) : Tag :=
  match t, p with
  | .nan, _ => .nan
  | _, .nan => .nan
  | t, .val _ => t
  | .finite, .inf neg => if neg then .negInf else .posInf
  | .posInf, .inf neg => if neg then .nan else .posInf
  | .negInf, .inf neg => if neg then .negInf else .nan

/-- The value that a product adds; one with an operand that is no finite number adds 0 (DESIGN CHOICE, LOG 43). -/
def Product.int : Product → Int
  | .val v => v
  | _ => 0

/-- q with saturation, and whether it saturated (R67). -/
def satQ (s : Int) : BitVec 80 × Bool :=
  let top : Int := 2 ^ 79 - 1
  if s > top then (BitVec.ofInt 80 top, true) else if s < -top then (BitVec.ofInt 80 (-top), true) else (BitVec.ofInt 80 s, false)

/-- Element `n` of a row. -/
def TileRow.qAt (t : TileRow) (n : Nat) : BitVec 80 := getAt 0 t.q n
/-- Tag `n` of a row. -/
def TileRow.tagAt (t : TileRow) (n : Nat) : Tag := getAt .finite t.tags n

/-- Row `r` of a tile. -/
def Tile.row (t : Tile) (r : Nat) : TileRow := getAt {} t.rows r
/-- Replace row `r`; `sat` sets the overflow bit. -/
def Tile.setRow (t : Tile) (r : Nat) (x : TileRow) (sat : Bool) : Tile := { t with rows := putAt {} t.rows r x, ovf := t.ovf || sat }

/-- Does a damaged element, or the damaged anchor (column 128), of one of these rows fail its check (R319, R320)? -/
def Tile.hurt (t : Tile) (rows : List Nat) (first : Nat := 0) : Bool := t.ue.any fun e => rows.contains e.1 && first ≤ e.2
/-- Rows whose elements before column `n` are written without being read hold good data there. -/
def Tile.mend (t : Tile) (rows : List Nat) (n : Nat) : Tile := { t with ue := t.ue.filter fun e => !(rows.contains e.1 && e.2 < n) }

/-- A row after one operation whose products for element n are `ps n` (R67), and whether it saturated. -/
def TileRow.accumulate (t : TileRow) (ps : Nat → List Product) : TileRow × Bool :=
  let es := (List.range 128).map fun n =>
    let l := ps n
    let (q, sat) := satQ ((t.qAt n).toInt + (l.map Product.int).sum)
    (q, l.foldl Tag.join (t.tagAt n), sat)
  ({ t with q := es.map (·.1), tags := es.map (·.2.1) }, es.any (·.2.2))

/-- A row with a new anchor (R68), and whether it saturated. -/
def TileRow.rescale (t : TileRow) (a : BitVec 16) : TileRow × Bool :=
  let k := t.anchor.toInt - a.toInt
  let es := (List.range 128).map fun n =>
    let q := (t.qAt n).toInt
    if t.tagAt n = .finite then satQ (placeInt (decide (q < 0)) q.natAbs k) else (t.qAt n, false)
  ({ t with q := es.map (·.1), anchor := a }, es.any (·.2))

/-- An element that MLD loads (R242): q, tag, and whether it saturated. -/
def loadElem (v : MxVal) (anchor : Int) : BitVec 80 × Tag × Bool :=
  match v with
  | .fin neg m e => let (q, s) := satQ (placeInt neg m (e - anchor)); (q, .finite, s)
  | .inf neg => (0, if neg then .negInf else .posInf, false)
  | .nan => (0, .nan, false)

/-- The value of an element at a destination scale (R69). -/
def elemNum (q : BitVec 80) (t : Tag) (e : Int) : Num :=
  match t with
  | .finite => dyadic (decide (q.toInt < 0)) q.toInt.natAbs e
  | .posInf => .inf false
  | .negInf => .inf true
  | .nan => .nan

/-- The bytes of a group of 64 elements from its two encoded blocks (R62, R63). -/
def packGroup (fmt : Nat) (b0 b1 : Nat × Nat × List Nat) : List Byte :=
  let w := mxBxWidth fmt
  let es := b0.2.2 ++ b1.2.2
  let exps := leBytes 8 (b0.1 + b0.2.1 * 2 ^ 8 + b1.1 * 2 ^ 16 + b1.2.1 * 2 ^ 24)
  if fmt = 14 then es.map (BitVec.ofNat 8 ·) ++ exps
  else
    (List.range w).flatMap (fun i =>
      leBytes 8 (es.foldr (fun x a => a * 2 + (if x.testBit (w - 1 - i) then 1 else 0)) 0)) ++ exps

/-- The bytes of a row of 128 values for a format (R69, R242). -/
def rowBytes (fmt rm : Nat) (xs : List Num) : List Byte :=
  match fmtGroup fmt with
  | some _ =>
    (List.range 2).flatMap fun k =>
      packGroup fmt (encodeBX (mxBxWidth fmt) rm ((xs.drop (64 * k)).take 32)) (encodeBX (mxBxWidth fmt) rm ((xs.drop (64 * k + 32)).take 32))
  | none =>
    let f := fmtOf (BitVec.ofNat 4 fmt)
    xs.flatMap fun x => leBytes (fmtBytes fmt) (match x with | .nan => f.canon | x => f.round rm x)

/-- A tag's code in a raw image (R242). -/
def Tag.code : Tag → Nat
  | .finite => 0 | .posInf => 1 | .negInf => 2 | .nan => 3

/-- The tag of a code. -/
def tagOf (n : Nat) : Tag := match n with | 0 => .finite | 1 => .posInf | 2 => .negInf | _ => .nan

/-- The raw image of a row (R242). -/
def rawImage (t : TileRow) (ovf : Bool) : List Byte :=
  (List.range 128).flatMap (fun n => leBytes 10 (t.qAt n).toNat) ++
    leBytes 32 ((List.range 128).foldr (fun n a => a * 4 + (t.tagAt n).code) 0) ++ leBytes 2 t.anchor.toNat ++
    leBytes 1 (if ovf then 1 else 0) ++ List.replicate 29 0

/-- A row from its raw image, and the overflow bit in it. -/
def parseRaw (bs : List Byte) : TileRow × Bool :=
  let tags := leNat ((bs.drop 1280).take 32)
  ({ q := (List.range 128).map fun n => BitVec.ofNat 80 (leNat ((bs.drop (10 * n)).take 10))
     tags := (List.range 128).map fun n => tagOf (tags / 4 ^ n % 4)
     anchor := BitVec.ofNat 16 (leNat ((bs.drop 1312).take 2)) }, (bs.getD 1314 0).getLsbD 0)

/-! ### Issue (R238, R244) -/

/-- Close the open batch of the pack (R244). -/
def closeBatch : M Unit := do
  let p ← getP
  if p.openOps ≠ 0 then
    if p.cnt.mx ≥ 255 then blockM (.count .mx 254)
    setP { p with cnt := p.cnt.put .mx (p.cnt.mx + 1), issued := p.issued.put .mx (p.issued.mx + 1), openOps := 0 }

/-- MCLOSE (R244). -/
def execMclose (o : Opnd) (s : State) : Host.Outcome State Fault Refusal :=
  perform (.mclose o) (do closeRegion; closeBatch; modP (·.next o)) s

/-- The lanes of a matrix instruction that take part: below 128 (R235). -/
def mxLanes (p : Pack) (o : Opnd) : List Nat := (p.partList o).filter (· < 128)

/-- Check register operands in lanes. -/
def checkIn (ls : List Nat) (ss : List Src) : M Unit := do
  match regCheck (← getP) ls ss [] with
  | .go => pure ()
  | .stop e => throw e
  | .damaged => repairM ls ss

/-- The checks of a matrix instruction's own vector operand (R35, R36). -/
def mxCheck (i : Instr) : M Unit := do
  let p ← getP
  let o := opndOf i
  match formOf i with
  | none => pure ()
  | some fm =>
    if !allotOk fm o p.allot then trapM 0x01 (BitVec.setWidth 64 (firstWord i))
    checkIn (mxLanes p o) (sources fm o)

/-- Read the record of a tensor's scale array, where it has one (R182). -/
def scaleRecord (r : Nat) (img : Option Lanes) : M Nat := do
  if recordOk r && bits r 63 60 == 2 && tensorScMode r ≥ 2 then readRecord (tensorSch r) img else return 0

/-- A matrix operation joins the pack's open batch (R238). -/
def issueMx (o : Opnd) (kind : MxKind) (rows : List (Nat × Nat)) (ix : List (Nat × BitVec 128)) (anchors : List (Nat × BitVec 16))
    (k0 sync : Word) (after arrive : Bool) (ha hb sa sb : Nat) : M Unit := do
  closeRegion
  let who ← getWho
  let p ← getP
  let head : OpHead := { core := who.core, slot := who.slot, uid := who.uid, ctx := who.ctx, seq := p.issued.mx + 1 }
  modS fun s =>
    let c := s.core who.core
    s.setCore who.core { c with mxLast := c.cycle, mxq := c.mxq ++ [{
      head, kind, tile := o.d.toNat, rows, ix, anchors, k0, sync, after, arrive, ha := BitVec.ofNat 512 ha, hb := BitVec.ofNat 512 hb
      sa := BitVec.ofNat 512 sa, sb := BitVec.ofNat 512 sb, stream := (o.x.imm16.extractLsb' 14 2).toNat, c1 := p.id.c1
      ready := !after }] }
  modP fun p => { p with openOps := p.openOps + 1 }
  modP (·.next o)

/-- The rows that lanes name in register A. -/
def rowIndices (p : Pack) (o : Opnd) : List (Nat × Nat) := (mxLanes p o).map fun l => (l, (p.lane l).readV o.va 1)

/-- The register number in IMM16[5:0]. -/
def immReg (o : Opnd) : Nat := (o.x.imm16.extractLsb' 0 6).toNat

/-- The sync word of MMA and MMAS (R246). -/
def syncWord (p : Pack) (o : Opnd) : Word := if immReg o = 63 then 0 else p.readG (immReg o + 1)

/-- Issue MMA or MMAS: hA is named by B, hB by C. -/
def issueMma (i : Instr) (kind : MxKind) (ix : List (Nat × BitVec 128)) : M Unit := do
  let o := opndOf i
  let p ← getP
  let img := some (p.part o)
  let ha ← readRecord o.b.toNat img
  let hb ← readRecord o.rc img
  let sa ← scaleRecord ha img
  let sb ← scaleRecord hb img
  issueMx o kind (rowIndices p o) ix [] (p.readG (immReg o)) (syncWord p o) (o.f.getLsbD 1) (o.f.getLsbD 2) ha hb sa sb

/-- MMA (R239). -/
def execMma (o : Opnd) (s : State) : Host.Outcome State Fault Refusal :=
  perform (.mma o) (do mxCheck (.mma o); issueMma (.mma o) (.mma (o.f.getLsbD 0)) []) s

/-- The selector of MMAS (R240). -/
def mmasSel (o : Opnd) : Nat := (o.x.imm16.extractLsb' 12 2).toNat
/-- The first register of the index quad of MMAS (R238). -/
def mmasQuad (o : Opnd) : Nat := 4 * (o.x.imm16.extractLsb' 6 6).toNat
/-- The lane whose quad a participating lane uses (R240). -/
def mmasLane (o : Opnd) (l : Nat) : Nat := match mmasSel o with | 1 => 0 | 2 => l % 32 | _ => l

/-- Does the index quad of MMAS, where it has one, lie below the allotment (R35, R238)? -/
def quadOk (o : Opnd) (allot : Nat) : Bool := mmasSel o = 3 || mmasQuad o + 4 ≤ allot

/-- The index words of the participating lanes of MMAS (R240). -/
def mmasIndices (p : Pack) (o : Opnd) : List (Nat × BitVec 128) :=
  (mxLanes p o).map fun l =>
    (l, if mmasSel o = 3 then 0x44444444444444444444444444444444 else BitVec.ofNat 128 ((p.lane (mmasLane o l)).readV (mmasQuad o) 4))

/-- MMAS (R240). -/
def execMmas (o : Opnd) (s : State) : Host.Outcome State Fault Refusal :=
  perform (.mmas o) (do
    let p ← getP
    if !quadOk o p.allot then trapM 0x01 (BitVec.setWidth 64 (firstWord (.mmas o)))
    mxCheck (.mmas o)
    if mmasSel o ≠ 3 then
      checkIn (((mxLanes p o).map (mmasLane o)).dedup) [{ which := 2, base := mmasQuad o, count := 4, trap := false }]
    issueMma (.mmas o) (.mmas (o.f.getLsbD 0)) (mmasIndices (← getP) o)) s

/-- Issue MLD or MST: the handle is named by B. -/
def issueMove (i : Instr) (kind : MxKind) : M Unit := do
  let o := opndOf i
  mxCheck i
  let p ← getP
  let img := some (p.part o)
  let h ← readRecord o.b.toNat img
  let sc ← scaleRecord h img
  issueMx o kind (rowIndices p o) [] [] 0 (p.readG (immReg o)) (o.f.getLsbD 1) (o.f.getLsbD 2) h 0 sc 0

/-- MLD (R242). -/
def execMld (o : Opnd) (s : State) : Host.Outcome State Fault Refusal :=
  perform (.mld o) (issueMove (.mld o) (.mld (o.f.getLsbD 0))) s
/-- MST (R242). -/
def execMst (o : Opnd) (s : State) : Host.Outcome State Fault Refusal :=
  perform (.mst o) (issueMove (.mst o) (.mst (o.f.getLsbD 0) o.x.rm)) s

/-- MZERO (R241). -/
def execMzero (o : Opnd) (s : State) : Host.Outcome State Fault Refusal :=
  perform (.mzero o) (do
    let p ← getP
    issueMx o (.mzero (o.f == 0)) ((mxLanes p o).map (·, 0)) [] [] 0 0 false false 0 0 0 0) s

/-- MANC (R241). -/
def execManc (o : Opnd) (s : State) : Host.Outcome State Fault Refusal :=
  perform (.manc o) (do
    mxCheck (.manc o)
    let p ← getP
    issueMx o .manc ((mxLanes p o).map (·, 0)) []
      ((mxLanes p o).map fun l => (l, BitVec.ofNat 16 (bValue o 1 (p.lane l)))) 0 0 false false 0 0 0 0) s

/-! ### Running (R239-R243, R246) -/

/-- The K of MMA and the A elements of MMAS for a format, by its class (R237); none for a format no class has. -/
def mxK (fmt : Nat) : Option Nat :=
  if [12, 13, 14, 16, 17].contains fmt then some 64 else if fmt = 18 then some 128 else if fmt = 10 || fmt = 11 then some 32 else none

/-- Are two formats of one class (R237)? -/
def mxPair (a b : Nat) : Bool := (mxK a).isSome && mxK a == mxK b && (mxK a != some 32 || a == b)

/-- The address of the .after object, its parity, and the address of the .arrive object (R246). -/
def MxOp.afterAddr (m : MxOp) : Nat := m.sync.toNat % 2 ^ 25
/-- The parity that .after waits for. -/
def MxOp.afterParity (m : MxOp) : Bool := m.sync.getLsbD 25
/-- The address of the .arrive object. -/
def MxOp.arriveAddr (m : MxOp) : Nat := m.sync.toNat / 2 ^ 32 % 2 ^ 25

/-- The object of an engine at an address (R118, R121): its key and content. -/
def engBarrier (a : Nat) : M (Option (Nat × BarObj)) := do
  match barKey (← getS) (← getWho) a with
  | none => return none
  | some k => return some (k, parseBar (leNat (← loadKeys k 16)))

/-- The checks of a matrix operation on its barriers (R243, R246). -/
def mxBarriers (m : MxOp) : M Unit := do
  if m.after && (← engBarrier m.afterAddr).isNone then throw (.code 7)
  if m.arrive && (← engBarrier m.arriveAddr).isNone then throw (.code 7)
  if m.misuse then throw (.code 7)

/-- The engine's arrival (R246): 0, or code 7. -/
def mxArrive (m : MxOp) : M Nat := do
  if !m.arrive then return 0
  else
    match ← engBarrier m.arriveAddr with
    | none => return 0
    | some (k, b) =>
      if b.expect = 0 || b.reserved then return 7
      else match b.arrive 1 with
        | some b' =>
          storeAt k b'.bytes
          return 0
        | none =>
          storeAt k { b with ovr := true }.bytes
          return 7

/-- The tile of an operation; code 1 when it is not granted to the context. -/
def mxTile (m : MxOp) : M Tile := do
  let t := getAt {} ((← getS).core m.head.core).tiles m.tile
  if t.owner ≠ some m.head.ctx then throw (.code 1)
  return t

/-- Replace the tile of an operation. -/
def putTile (m : MxOp) (t : Tile) : M Unit :=
  modS fun s =>
    let c := s.core m.head.core
    s.setCore m.head.core { c with tiles := putAt {} c.tiles m.tile t }

/-- The handle of a matrix operand: valid, in the scratchpad, a tensor where one is needed (R243). -/
def mxHandle (r : Nat) (raw : Bool) : M Hnd := do
  let h := parseHnd r
  if !h.valid || !h.space || (!raw && h.kind ≠ 2) then throw (.code 1)
  return h

/-- Apply rows one after another to a tile. -/
def applyRows (t : Tile) (rows : List Nat) (f : Nat → TileRow → TileRow × Bool) : Tile :=
  rows.foldl (fun t r => let (x, s) := f r (t.row r); t.setRow r x s) t

/-- MMA and MMAS as one step (R239, R240). `sparse` for MMAS, `tr` for .t. Where several checks fail, the first in this order gives the code
(DESIGN CHOICE, LOG 42). -/
def runMma (m : MxOp) (sparse tr : Bool) : M Nat := do
  let t ← mxTile m
  let ra := m.ha.toNat
  let rb := m.hb.toNat
  let ha ← mxHandle ra false
  let hb ← mxHandle rb false
  let fa := tensorFmt ra
  let fb := tensorFmt rb
  if !mxPair fa fb || (sparse && fa = 18) then throw (.code 4)
  let k0 := m.k0.toNat
  let n := (mxK fa).getD 0
  if sparse && k0 % 4 ≠ 0 then throw (.code 4)
  let a0 := if sparse then k0 / 2 else k0
  if (isGroupFmt fa && a0 % 64 ≠ 0) || (isGroupFmt fb && tr && k0 % 64 ≠ 0) then throw (.code 4)
  if !m.rows.all (fun e => e.2 < tensorRows ra) then throw (.code 8)
  let position (r j : Nat) : Nat :=
    if sparse then 4 * (j / 2) + (Table.getD m.ix r 0).toNat / 4 ^ j % 4 else j
  let used := if sparse then ((m.rows.flatMap fun e => (List.range n).map (position e.1)).dedup) else List.range n
  let sizeA := (tensorSizes ra).getD 0 0
  let sizeB := (tensorSizes rb).getD 0 0
  if m.rows ≠ [] then
    if a0 + n > sizeA then throw (.code 2)
    if !(if tr then 128 ≤ tensorRows rb && used.all (fun k => k0 + k < sizeB)
         else 128 ≤ sizeB && used.all (fun k => k0 + k < tensorRows rb)) then throw (.code 2)
  let span := used.foldl (fun x k => max x (k + 1)) 0
  let spansB := if m.rows = [] then [] else if tr then (List.range 128).map fun c => (c, k0, span) else used.map fun k => (k0 + k, 0, 128)
  for e in m.rows do spanCheck ha ra m.sa.toNat e.2 a0 n
  for e in spansB do spanCheck hb rb m.sb.toNat e.1 e.2.1 e.2.2
  mxBarriers m
  let as ← m.rows.mapM fun e => do
    let (xs, bad) ← operandRow ha ra m.sa.toNat e.2 a0 n
    return (e.1, xs, bad)
  let bs ← spansB.mapM fun e => operandRow hb rb m.sb.toNat e.1 e.2.1 e.2.2
  if as.any (·.2.2) || bs.any (·.2) then throw (.code 5)
  if t.hurt (m.rows.map (·.1)) then throw (.code 6)
  let elemB (k c : Nat) : MxVal :=
    if tr then (bs.getD c ([], false)).1.getD k .nan
    else match used.findIdx? (· == k) with
      | some i => (bs.getD i ([], false)).1.getD c .nan
      | none => .nan
  putTile m (applyRows t (m.rows.map (·.1)) fun r row =>
    let xs := ((as.find? (fun e => e.1 == r)).map (fun e => e.2.1)).getD []
    row.accumulate fun c => xs.zipIdx.map fun (x, j) => product x (elemB (position r j) c) row.anchor.toInt)
  mxArrive m

/-- Formats that MLD and MST convert (R242). -/
def moveFmt (f : Nat) : Bool := (8 ≤ f && f ≤ 14) || (16 ≤ f && f ≤ 18)

/-- The checks of MLD and MST on their handle (R243). -/
def moveChecks (m : MxOp) (raw store : Bool) : M Hnd := do
  let r := m.ha.toNat
  let h ← mxHandle r raw
  if store && h.ro then throw (.code 3)
  if !raw && !moveFmt (tensorFmt r) then throw (.code 4)
  if !m.rows.all (fun e => if raw then (e.2 + 1) * 1344 ≤ h.extent else e.2 < tensorRows r) then throw (.code 8)
  if !raw && m.rows ≠ [] && (tensorSizes r).getD 0 0 < 128 then throw (.code 2)
  return h

/-- MLD as one step (R242). Of a raw row's 1,344 bytes only the 1,315 that hold the row are checked against the window and read; MST.raw writes,
and checks, all of them (DESIGN CHOICE, LOG 43). -/
def runMld (m : MxOp) (raw : Bool) : M Nat := do
  let t ← mxTile m
  let h ← moveChecks m raw false
  let r := m.ha.toNat
  let rows := m.rows.map (·.1)
  if raw then
    for e in m.rows do engInside h (e.2 * 1344) 1315
    mxBarriers m
    let xs ← m.rows.mapM fun e => do
      let (bs, bad) ← engLoad h (e.2 * 1344) 1315
      return (e.1, bs, bad)
    if xs.any (·.2.2) then throw (.code 5)
    putTile m ((xs.foldl (fun t e => let (x, s) := parseRaw e.2.1; t.setRow e.1 x s) t).mend rows 129)
  else
    for e in m.rows do spanCheck h r m.sa.toNat e.2 0 128
    mxBarriers m
    let xs ← m.rows.mapM fun e => do
      let (vs, bad) ← operandRow h r m.sa.toNat e.2 0 128
      return (e.1, vs, bad)
    if xs.any (·.2.2) then throw (.code 5)
    if t.hurt rows 128 then throw (.code 6)
    putTile m ((xs.foldl (fun t e =>
      let old := t.row e.1
      let es := e.2.1.map fun v => loadElem v old.anchor.toInt
      t.setRow e.1 { old with q := es.map (·.1), tags := es.map (·.2.1) } (es.any (·.2.2))) t).mend rows 128)
  mxArrive m

/-- The bytes that MST writes for a row, with the offset at which they start (R69, R242). -/
def mstBytes (m : MxOp) (raw : Bool) (rm : Nat) (t : Tile) (lane i : Nat) : M (List (Nat × List Byte) × Bool) := do
  let r := m.ha.toNat
  let row := t.row lane
  if raw then return ([(i * 1344, rawImage row t.ovf)], false)
  else
    let scales ← (List.range 4).mapM fun b => scaleAt r m.sa.toNat (32 * b) i
    let xs := (List.range 128).map fun n =>
      elemNum (row.qAt n) (row.tagAt n) (row.anchor.toInt - (scales.getD (n / 32) (0, false)).1)
    let bs := rowBytes (tensorFmt r) rm xs
    let parts := match fmtGroup (tensorFmt r) with
      | some g => (List.range 2).map fun k => (rowOffset r (64 * k) i, (bs.drop (g * k)).take g)
      | none => [(rowOffset r 0 i, bs)]
    return (parts, scales.any (·.2))

/-- The bytes of parts that each start at an offset, with the offset of each byte. -/
def placedBytes (parts : List (Nat × List Byte)) : List (Nat × Byte) :=
  parts.flatMap fun q => q.2.zipIdx.map fun (b, i) => (q.1 + i, b)

/-- The checks of MST, before it reads anything, and its handle (R243). -/
def mstChecks (m : MxOp) (raw : Bool) : M Hnd := do
  let h ← moveChecks m raw true
  for e in m.rows do
    if raw then engInside h (e.2 * 1344) 1344 else spanCheck h m.ha.toNat m.sa.toNat e.2 0 128
  mxBarriers m
  return h

/-- MST as one step (R242). -/
def runMst (m : MxOp) (raw : Bool) (rm : Nat) : M Nat := do
  let t ← mxTile m
  let h ← mstChecks m raw
  let parts ← m.rows.mapM fun e => mstBytes m raw rm t e.1 e.2
  let bytes := parts.flatMap fun p => placedBytes p.1
  let keyed ← bytes.mapM fun (a, b) => do return (← engKey h id .wr a, (none : Option Nat), b, false)
  if parts.any (·.2) then throw (.code 5)
  if t.hurt (m.rows.map (·.1)) then throw (.code 6)
  engStore keyed
  mxArrive m

/-- The bytes that an MST would have written, of the rows whose scales can be read, those of a poisoned scale or a damaged row as no good
data; none where its checks fail (R227, R243). -/
def mstLate (m : MxOp) : M (List EngByte) := do
  match m.kind with
  | .mst raw rm =>
    let ok ← tryM (do
      let t ← mxTile m
      return (t, ← mstChecks m raw))
    match ok with
    | none => return []
    | some (t, h) =>
      let rows ← m.rows.mapM fun e => tryM (do
        let (parts, bad) ← mstBytes m raw rm.toNat t e.1 e.2
        return (placedBytes parts).map fun (a, b) => (a, b, bad || t.hurt [e.1]))
      reachable h id (rows.filterMap id).flatten
  | _ => return []

/-- An operation of the matrix engine as one step: the code it ends with. -/
def mxBody (m : MxOp) : M Nat := do
  match m.kind with
  | .mma tr => runMma m false tr
  | .mmas tr => runMma m true tr
  | .mld raw => runMld m raw
  | .mst raw rm => runMst m raw rm.toNat
  | .mzero whole =>
    let t ← mxTile m
    let rows := if whole then List.range 128 else m.rows.map (·.1)
    let t' := applyRows t rows fun _ x => ({ x with q := [], tags := [] }, false)
    putTile m ((if whole then { t' with ovf := false } else t').mend rows 128)
    return 0
  | .manc =>
    let t ← mxTile m
    if t.hurt (m.rows.map (·.1)) then throw (.code 6)
    putTile m (applyRows t (m.rows.map (·.1)) fun r x => x.rescale (Table.getD m.anchors r 0))
    return 0

/-- The destination offsets of a store that failed, as far as its record gives them: of the rows that its handle has. -/
def mxTargets (m : MxOp) : List Nat :=
  match m.kind with
  | .mst raw _ =>
    let r := m.ha.toNat
    let h := parseHnd r
    if raw then
      (m.rows.filter fun e => (e.2 + 1) * 1344 ≤ h.extent).flatMap fun e => (List.range 1344).map (e.2 * 1344 + ·)
    else if h.kind = 2 && moveFmt (tensorFmt r) && 128 ≤ (tensorSizes r).getD 0 0 then
      (m.rows.filter fun e => e.2 < tensorRows r).flatMap fun e =>
        match fmtGroup (tensorFmt r) with
        | some g => (List.range 2).flatMap fun k => (List.range g).map (rowOffset r (64 * k) e.2 + ·)
        | none => (List.range (128 * fmtBytes (tensorFmt r))).map (rowOffset r 0 e.2 + ·)
    else []
  | _ => []

/-- A failed operation, which has written bytes at some keys: its granules are poisoned, and its arrival is made all the same (R227, R246). That holds
of an MST with a misused barrier as well, of which R227 says so in either case, while R246 has it do nothing else (DESIGN CHOICE, LOG 19). -/
def mxFail (m : MxOp) (written : List Nat) : M Unit := do
  if (parseHnd m.ha.toNat).valid then failGranules m.head (parseHnd m.ha.toNat) id (mxTargets m) written
  let _ ← asWho { ctx := m.head.ctx, core := m.head.core, slot := m.head.slot, uid := m.head.uid, direct := true } (mxArrive m)

/-- Must an operation wait for one ahead of it in the core's queue (R245-R247)? Under .c1 one that waits on its .after holds back later operations
of its stream, other packs' among them (R247 has the stream in order, R246 has only the pack wait). DESIGN CHOICE: LOG 18. -/
def mxBehind (m x : MxOp) : Bool :=
  x.head.result.isNone &&
    ((x.head.uid == m.head.uid && !x.ready) ||
      (if m.c1 then x.c1 && x.stream == m.stream else x.head.uid == m.head.uid && x.tile == m.tile))

/-- An operation ends with what `h` says. -/
def mxSettle (c n : Nat) (m : MxOp) (h : OpHead × Option (List Nat)) : M Unit := do
  if let some ks := h.2 then mxFail m ks
  modS fun s =>
    let x := s.core c
    s.setCore c { x with mxq := x.mxq.set n { m with head := h.1 } }

/-- MATRIX_OP_EXECUTE (R248): operation `n` of a core's matrix queue. -/
def execMatrixOpExecute (c n : Nat) (s : State) : Host.Outcome State Fault Refusal :=
  event s (do
    let q := ((← getS).core c).mxq
    match q[n]? with
    | none => notNow
    | some m =>
      if m.head.result.isSome || !m.ready || heldUp MxOp.head (q.take n) m.head || (q.take n).any (mxBehind m) then notNow
      let h ← engineRun m.head 4 (mxBody m) (mstLate m)
      mxSettle c n m h)

/-- MATRIX_AFTER_OBSERVE (R246): the .after wait of operation `n` is over; a misused object ends it at once. -/
def execMatrixAfterObserve (c n : Nat) (s : State) : Host.Outcome State Fault Refusal :=
  event s (do
    let q := ((← getS).core c).mxq
    match q[n]? with
    | none => notNow
    | some m =>
      if m.ready || (q.take n).any (fun x => x.head.uid == m.head.uid && !x.ready) then notNow
      let b ← asWho { ctx := m.head.ctx, core := c, slot := m.head.slot, uid := m.head.uid, direct := true } (engBarrier m.afterAddr)
      let misuse := match b with
        | some (_, x) => x.expect == 0 || x.reserved
        | none => true
      let come := match b with
        | some (_, x) => x.phase == m.afterParity
        | none => true
      if !misuse && !come then notNow
      modS fun s =>
        let x := s.core c
        s.setCore c { x with mxq := x.mxq.set n { m with ready := true, misuse } })

/-- MATRIX_BATCH_RETIRE (R244): the oldest closed batch of a pack retires once its operations are complete, with the code of the first of
them in queue order that has one (DESIGN CHOICE, LOG 42). -/
def execMatrixBatchRetire (c slot : Nat) (s : State) : Host.Outcome State Fault Refusal :=
  event s (do
    let s ← getS
    match s.pack? c slot with
    | none => notNow
    | some p =>
      if p.cnt.mx = 0 then notNow
      let b := p.issued.mx + 1 - p.cnt.mx
      let ops := (s.core c).mxq.filter (fun m => m.head.uid == p.id.uid && m.head.seq == b)
      if !ops.all (·.head.result.isSome) then notNow
      let x := s.core c
      setS (s.setCore c { x with mxq := x.mxq.filter (fun m => !(m.head.uid == p.id.uid && m.head.seq == b)) })
      retireOne .mx p.id.uid b (((ops.map fun m => m.head.result.getD 0).find? (· ≠ 0)).getD 0))

end Sys2Proof.Machine
end

