-- ==== Sys2Proof/Machine/LaneMem.lean ====
section
/-! DEFINITION. Lane loads, stores and atomics (spec/09_memory_instructions.md R204-R213). A load reads when it issues; its
values reach the registers later, by REGISTER_FILL (DESIGN CHOICE, LOG 20). -/

namespace Sys2Proof.Machine

/-! ### Offsets (R204) -/

/-- Bytes that each lane moves. -/
def laneBytes (t : BitVec 4) (o : Opnd) : Nat := 4 * dCount t o

/-- The displacement of IMM16 elements of a type, as a 64-bit value. -/
def laneDisp (t : BitVec 4) (o : Opnd) : Word := o.immW * BitVec.ofNat 64 (typeBytes t)

/-- Off(l): the lane's vector offset, or the literal. -/
def vectorOffset (o : Opnd) (ln : Lane) : Word :=
  match o.lit with
  | some y => y
  | none => BitVec.ofNat 64 (ln.readV o.vb (vOff.count o.x.wb))

/-- The lanes with their offsets, uniform plus the lane's position (VLD, VST). -/
def sweepOffsets (t : BitVec 4) (o : Opnd) (p : Pack) : List (Nat × Nat) :=
  (p.partList o).map fun l =>
    (l, (p.opB o + laneDisp t o + BitVec.ofNat 64 (l * laneBytes t o)).toNat)

/-- The lanes with their vector offsets (VLDX, VSTX, VATOM, XCHL). -/
def indexOffsets (t : BitVec 4) (o : Opnd) (p : Pack) : List (Nat × Nat) :=
  (p.partList o).map fun l => (l, (vectorOffset o (p.lane l) + laneDisp t o).toNat)

/-- The lanes with their cluster scratchpad addresses (LDS, STS). -/
def scratchOffsets (t : BitVec 4) (o : Opnd) (p : Pack) : List (Nat × Nat) :=
  (p.partList o).map fun l => (l, (p.readG o.a.toNat + vectorOffset o (p.lane l) + laneDisp t o).toNat)

/-! ### Delivery -/

/-- The registers of lanes become empty with a value due (R125). -/
def Pack.markDue (p : Pack) (ls : Lanes) (n c : Nat) : Pack :=
  p.onLanes ls fun _ ln =>
    (List.range c).foldl (fun ln i =>
      { ln with v := putAt {} ln.v (n + i) { ln.reg (n + i) with full := false, due := true, sc := false, bad := none } }) ln

/-- The registers of a value, low register first. -/
def valuesOf (c x : Nat) : List Half := (List.range c).map fun i => BitVec.ofNat 32 (x / 2 ^ (32 * i))

/-- Loaded values are on their way to the registers from `n` up: (lane, value, what it consumed). -/
def deliver (n c : Nat) (xs : List (Nat × Nat × Option Consumed)) : M Unit := do
  if xs ≠ [] then
    let op ← freshM
    modP fun p => { p with fills := p.fills ++ xs.map fun e =>
      { op, lane := e.1, reg := n, vals := valuesOf c e.2.1, bad := e.2.2, region := p.inRegion } }

/-- Read `n` bytes for a lane, with what it consumes. -/
def loadLane (inv : Bool) (a : LaneAcc) (n : Nat) : M (Nat × Nat × Option Consumed) := do
  let bs ← loadBytes inv a.key n
  let s ← getS
  return (a.lane, leNat bs, (consumes s a.key n).map fun ue => { ue, addr := BitVec.ofNat 64 a.va })

/-- Read `n` bytes for a lane's read-modify-write. -/
def loadLaneRmw (a : LaneAcc) (n : Nat) : M (Nat × Nat × Option Consumed) := do
  let bs ← loadRmw (← pageHa a.va) a.key n
  let s ← getS
  return (a.lane, leNat bs, (consumes s a.key n).map fun ue => { ue, addr := BitVec.ofNat 64 a.va })

/-! ### Loads and stores through handles (R206) -/

/-- The body of VLD and VLDX. An empty or poisoned register traps before a fault in reading the handle's record: the spec puts neither of the two
first (R178; DESIGN CHOICE, LOG 42). -/
def loadBody (i : Instr) (offs : Pack → List (Nat × Nat)) : M Unit := do
  let o := opndOf i
  checkOperands i
  let p ← getP
  let n := laneBytes o.f o
  let t ← laneAccess .rd true o.a.toNat n (p.part o) (offs p)
  modP fun p => p.markDue (p.part o) o.vd (dCount o.f o)
  let xs ← t.accs.mapM (fun a => loadLane o.x.inv a n)
  deliver o.vd (dCount o.f o) xs
  parkUnfinished .rd t

/-- One lane's store: held in the Heel for an ordered item whose slot has not completed (R104, R105), otherwise performed. -/
def storeLane (hld virtual full : Bool) (a : LaneAcc) (bs : List Byte) : M Unit := do
  let p ← getP
  let it := (p.lane a.lane).item
  let x ← getCtx
  let s ← getS
  let come := turnCome x it
  if hld && it.cls == .o && !it.done && !(come && !s.heldBefore p.id.ctx it) then
    holdStore it (!virtual) full come (BitVec.ofNat 64 a.va) bs
  else
    storeVirtual virtual a.va a.key bs
    if full then setGranules (granulesOf a.key bs.length) true true
  retireStore a.va bs

/-- The stores of lanes one after another; a lane that finds no Heel space is left out and waits, whatever the others do (R106). The
lanes that wait. -/
def storeLanes (store : LaneAcc → M Unit) : List LaneAcc → M (List Nat)
  | [] => return []
  | a :: r => do
    let waits ← tryCatch (do store a; return []) fun e =>
      match e with
      | .block .heel => return [a.lane]
      | e => throw e
    return waits ++ (← storeLanes store r)

/-- The lanes `waits` of a store wait for Heel space with those that are not mapped; the lanes that have stored have finished (R106, R184;
DEDUCED, LOG 29). -/
def waitHeel (all : Lanes) (waits unfinished : List Nat) : M Unit := do
  if waits ≠ [] then
    let left := maskOf (waits ++ unfinished)
    if left ≠ all then
      let i := (← get).instr
      modP fun p => { p with prog := { p.prog with left := some left, begun := some i } }
      keep
    blockM .heel

/-- The body of VST and VSTX. -/
def storeBody (i : Instr) (offs : Pack → List (Nat × Nat)) : M Unit := do
  let o := opndOf i
  checkOperands i
  let p ← getP
  let n := laneBytes o.f o
  let t ← laneAccess .wr true o.a.toNat n (p.part o) (offs p)
  let waits ← storeLanes (fun a =>
    storeLane o.x.hld t.virtual false a (leBytes n ((p.lane a.lane).readV o.vd (dCount o.f o)))) t.accs
  waitHeel (p.part o) waits t.unfinished
  parkUnfinished .wr t

/-- VLD as a part of a meaning. -/
def vldBody (o : Opnd) : M Unit := loadBody (.vld o) (sweepOffsets o.f o)
/-- VLD (R206). -/
def execVld (o : Opnd) (s : State) : Host.Outcome State Fault Refusal :=
  perform (.vld o) (do vldBody o; modP (·.next o)) s
/-- VLDX as a part of a meaning. -/
def vldxBody (o : Opnd) : M Unit := loadBody (.vldx o) (indexOffsets o.f o)
/-- VLDX (R206). -/
def execVldx (o : Opnd) (s : State) : Host.Outcome State Fault Refusal :=
  perform (.vldx o) (do vldxBody o; modP (·.next o)) s
/-- VST as a part of a meaning. -/
def vstBody (o : Opnd) : M Unit := storeBody (.vst o) (sweepOffsets o.f o)
/-- VST (R206). -/
def execVst (o : Opnd) (s : State) : Host.Outcome State Fault Refusal :=
  perform (.vst o) (do vstBody o; modP (·.next o)) s
/-- VSTX as a part of a meaning. -/
def vstxBody (o : Opnd) : M Unit := storeBody (.vstx o) (indexOffsets o.f o)
/-- VSTX (R206). -/
def execVstx (o : Opnd) (s : State) : Host.Outcome State Fault Refusal :=
  perform (.vstx o) (do vstxBody o; modP (·.next o)) s

/-! ### Scratchpad loads and stores (R208-R211) -/

/-- The checks of R209 for lanes with their addresses: bounds of all, then alignment of all. -/
def scratchAccess (n : Nat) (vs : List (Nat × Nat)) : M (List LaneAcc) := do
  let s ← getS
  let who ← getWho
  match firstFail (fun e => (scratchAt s who e.2 n).isSome) vs with
  | some e => trapM 0x05 (BitVec.ofNat 64 e.2)
  | none => pure ()
  match firstFail (fun e => e.2 % n == 0) vs with
  | some e => trapM 0x06 (BitVec.ofNat 64 e.2)
  | none => pure ()
  return vs.filterMap fun e => (scratchAt s who e.2 n).map fun k => { lane := e.1, va := e.2, key := k }

/-- LDS as a part of a meaning: C = 0 plain, 1 waits for full, 2 empties as well (R210), a granule with the poison marker aside (R211). -/
def ldsBody (o : Opnd) : M Unit := do
  checkOperands (.lds o)
  let p ← getP
  let n := laneBytes o.f o
  let accs ← scratchAccess n (scratchOffsets o.f o p)
  let gs := (accs.flatMap fun a => granulesOf a.key n).dedup
  if o.rc ≠ 0 && !(← getS).granulesFull gs then blockM (.granules gs)
  modP fun p => p.markDue (p.part o) o.vd (dCount o.f o)
  let xs ← accs.mapM (fun a => loadLane false a n)
  deliver o.vd (dCount o.f o) xs
  if o.rc = 2 then
    let s ← getS
    setGranules (gs.filter fun g => !s.granPoison.contains g) false false
/-- LDS (R208-R211). -/
def execLds (o : Opnd) (s : State) : Host.Outcome State Fault Refusal :=
  perform (.lds o) (do ldsBody o; modP (·.next o)) s

/-- STS as a part of a meaning: C = 1 sets the granules full once all bytes are written (R210). -/
def stsBody (o : Opnd) : M Unit := do
  checkOperands (.sts o)
  let p ← getP
  let n := laneBytes o.f o
  let accs ← scratchAccess n (scratchOffsets o.f o p)
  let waits ← storeLanes (fun a =>
    storeLane o.x.hld false (o.rc == 1) a (leBytes n ((p.lane a.lane).readV o.vd (dCount o.f o)))) accs
  waitHeel (p.part o) waits []
/-- STS (R208-R210). -/
def execSts (o : Opnd) (s : State) : Host.Outcome State Fault Refusal :=
  perform (.sts o) (do stsBody o; modP (·.next o)) s

/-! ### Atomics (R212, R213, R298) -/

/-- What the lanes of an atomic have come to: the performed ones with their old values, and the site at which the Leash holds
one. -/
structure AtomicRun where
  done : List (Nat × Nat × Option Consumed) := []
  held : Option Nat := none
deriving DecidableEq, Repr

/-- One lane's atomic; a lane that addresses a site waits behind a held one (R298). -/
def atomicLane (op : Nat) (t : BitVec 4) (virtual : Bool) (n : Nat) (operand expected : Nat → Nat) (r : AtomicRun)
    (a : LaneAcc) : M AtomicRun := do
  let site ← siteAtomic virtual a.va n
  let ok ← (match site with
    | some j => if r.held.isSome then pure false else leashAdmits j
    | none => pure true)
  if !ok then return { r with held := r.held.or site }
  else
    if r.done.isEmpty then closeRegion
    let (l, old, bad) ← loadLaneRmw a n
    match atomicOp op t old (operand l) (expected l) with
    | some x =>
      storeVirtual virtual a.va a.key (leBytes n x)
      retireStore a.va (leBytes n x)
    | none => pure ()
    match site with
    | some j => siteDone j
    | none => pure ()
    return { r with done := r.done ++ [(l, old, bad)] }

/-- The lanes that have been performed have finished; the others wait (R298), or come after other parties' accesses (R212, LOG 2). -/
def leaveLanes (rest : Lanes) (why : Wait) : M Unit := do
  let i := (← get).instr
  modP fun p => { p with prog := { p.prog with left := some rest, first := none, begun := some i } }
  keep
  blockM why

/-- The body of VATOM and XCHL: operation, type, and where operand and expected value stand. R212 and R213 mark vD empty in every participating
lane, but a replay reads it again as the expected value or the operand (R306): in the lanes that are left, on a page fault or behind the Leash, vD
stays as it is until they are performed, of every VATOM alike (DESIGN CHOICE, LOG 20). -/
def atomicBody (i : Instr) (op : Nat) (t : BitVec 4) (operand : Pack → Nat → Nat) : M Unit := do
  let o := opndOf i
  checkOperands i
  let p ← getP
  let c := (vOne t).count o.x.wd
  let n := 4 * c
  let all := p.part o
  let ts ← laneAccess .rmw (isAtomicOp op t) o.a.toNat n all (indexOffsets t o p)
  let now := match p.prog.first with
    | some k => ts.accs.take (max k 1)
    | none => ts.accs
  let later := (ts.accs.drop now.length).map (·.lane)
  let r ← now.foldlM
    (atomicLane op t ts.virtual n (operand p) (fun l => (p.lane l).readV o.vd c)) {}
  let done := maskOf (r.done.map (·.1))
  if r.done.isEmpty then
    match r.held with
    | some j => blockM (.leash j)
    | none => pure ()
  modP fun p => p.markDue done o.vd c
  deliver o.vd c r.done
  match r.held with
  | some j => leaveLanes (all &&& ~~~done) (.leash j)
  | none =>
    if later ≠ [] then leaveLanes (all &&& ~~~done) (.between ((← getS).readyOthers (← getWho).core (← getWho).slot))
    parkUnfinished .rmw ts

/-- VATOM as a part of a meaning. -/
def vatomBody (o : Opnd) : M Unit :=
  atomicBody (.vatom o) o.f.toNat o.x.ty2 fun p l => (p.lane l).readV o.vc ((vOne o.x.ty2).count o.x.wc)
/-- VATOM (R212). -/
def execVatom (o : Opnd) (s : State) : Host.Outcome State Fault Refusal :=
  perform (.vatom o) (do vatomBody o; modP (·.next o)) s
/-- XCHL as a part of a meaning. -/
def xchlBody (o : Opnd) : M Unit :=
  atomicBody (.xchl o) 0 o.f fun p l => (p.lane l).readV o.vd ((vOne o.f).count o.x.wd)
/-- XCHL (R213). -/
def execXchl (o : Opnd) (s : State) : Host.Outcome State Fault Refusal :=
  perform (.xchl o) (do xchlBody o; modP (·.next o)) s

end Sys2Proof.Machine
end

