-- ==== Sys2Proof/Machine/Scent.lean ====
section
/-! DEFINITION. Scent: sequences, the match, and the ten instructions with their serial points (spec/11_scent.md R253-R276). -/

namespace Sys2Proof.Machine

/-! ### Sequences (R253-R256) -/

/-- The generation of an identifier. -/
def scGen (id : Nat) : Nat := bits id 27 16

/-- The generation of a slot of a die. -/
def Die.gen (x : Die) (slot : Nat) : Nat := Table.getD x.gens slot 0

/-- The sequence that an identifier names now, for a context (R254). -/
def scFind (s : State) (ctx id : Nat) : Option ScSeq :=
  if id / 2 ^ 28 ≠ 0 then none
  else
    let x := s.die (scDie id)
    match Table.get? x.seqs (scSlot id) with
    | some q => if q.ctx == ctx && x.gen (scSlot id) == scGen id then some q else none
    | none => none

/-- Tokens of the index that a die's sequences hold (R255). -/
def Die.holdings (x : Die) : Nat := (x.seqs.map (fun e => e.2.cap)).sum

/-- Can the index of a die hold `c` more tokens (R255)? -/
def Die.holds (x : Die) (d c : Nat) : Bool := x.holdings + c ≤ Config.scentCapacity d

/-- WSTART moves up to `w`: the tokens below it are evicted (R256). -/
def ScSeq.evictTo (q : ScSeq) (w : Nat) : ScSeq :=
  if w ≤ q.wstart then q else { q with wstart := w, tokens := q.tokens.drop (w - q.wstart) }

/-- One token appended (R265). -/
def ScSeq.push (q : ScSeq) (t : Half) : ScSeq :=
  let q' := { q with tokens := q.tokens ++ [t], n := q.n + 1 }
  q'.evictTo (q'.n - q'.cap)

/-! ### The match (R257) -/

/-- The greatest candidate position below `c`, counted from the window start, at which the last `len` of `ts` stand. -/
def scAt (ts suffix : List Half) (len : Nat) : Nat → Option Nat
  | 0 => none
  | c + 1 => if (ts.drop c).take len = suffix then some c else scAt ts suffix len c

/-- The longest repeated suffix of at most `len` tokens: its length and its position. -/
def scSearch (ts : List Half) : Nat → Option (Nat × Nat)
  | 0 => none
  | len + 1 =>
    match scAt ts (ts.drop (ts.length - (len + 1))) (len + 1) (ts.length - 1 - len) with
    | some c => some (len + 1, c)
    | none => scSearch ts len

/-- SML, SMP and SDN of a query for `d` drafts, and the drafts. -/
def ScSeq.query (q : ScSeq) (d : Nat) : (Nat × Nat × Nat) × List Half :=
  match scSearch q.tokens (min 64 (q.tokens.length - 1)) with
  | none => ((0, 0, 0), [])
  | some (l, c) =>
    let p := q.wstart + c + l
    let k := min d (q.n - p)
    ((l, p, k), (q.tokens.drop (c + l)).take k)

/-! ### Freeing, detaching and evicting (R263, R271, R272) -/

/-- Change a sequence of a die. -/
def Die.modSeq (x : Die) (slot : Nat) (f : ScSeq → ScSeq) : Die :=
  { x with seqs := x.seqs.map fun e => if e.1 = slot then (e.1, f e.2) else e }

/-- The slot is released and its generation grows (R254, R263). -/
def Die.freeSeq (x : Die) (slot : Nat) : Die :=
  { x with seqs := Table.del x.seqs slot, gens := Table.set x.gens slot ((x.gen slot + 1) % 4096) }

/-- An attached sequence loses its link; a doomed entry that nothing is attached to any more is freed (R271). -/
def Die.unlink (x : Die) (slot : Nat) : Die :=
  match (Table.get? x.seqs slot).bind (·.link) with
  | none => x
  | some e =>
    let x := x.modSeq slot fun q => { q with link := none }
    let x := x.modSeq e fun q => { q with ref := q.ref - 1 }
    match Table.get? x.seqs e with
    | some q => if q.doomed && q.ref = 0 then x.freeSeq e else x
    | none => x

/-- The effect of SCFREE on a die (R263). -/
def Die.release (x : Die) (slot : Nat) : Die :=
  let x := x.unlink slot
  match Table.get? x.seqs slot with
  | some q => if q.pfx && q.ref > 0 then x.modSeq slot fun q => { q with doomed := true } else x.freeSeq slot
  | none => x

/-- A prefix entry of a die that eviction may take: the one whose latest attach or creation is oldest (R272). -/
def Die.victim (x : Die) : Option Nat :=
  (x.seqs.filter (fun e => e.2.pfx && e.2.ref == 0)).foldl (fun (b : Option (Nat × Nat)) e =>
    match b with
    | some (_, st) => if e.2.stamp < st then some (e.1, e.2.stamp) else b
    | none => some (e.1, e.2.stamp)) none |>.map (·.1)

/-- The lowest free slot of a die. -/
def Die.freeSlot (x : Die) : Option Nat :=
  (List.range (x.seqs.length + 1)).find? (fun i => i < Config.scentSlots && (Table.get? x.seqs i).isNone)

/-- Make room for a sequence of `c` tokens, evicting as often as needed; none where that does not suffice (R262, R272). -/
def Die.fit (x : Die) (d c : Nat) : Nat → Option Die
  | 0 => none
  | fuel + 1 =>
    if x.freeSlot.isSome && x.holds d c then some x
    else
      match x.victim with
      | some v => (x.freeSeq v).fit d c fuel
      | none => none

/-! ### Issue (R259, R260, R264, R265) -/

/-- What is due in a register of lanes comes from a Scent engine. -/
def Pack.fromScent (p : Pack) (ls : Lanes) (n : Nat) : Pack :=
  p.onLanes ls fun _ ln => { ln with v := putAt {} ln.v n { ln.reg n with sc := true } }

/-- The registers of some lanes, in vD, are checked and marked empty with a value due. -/
def scDest (o : Opnd) (ls : List Nat) : M Unit := do
  match regCheck (← getP) ls [] [o.vd] with
  | .stop e => throw e
  | _ => modP fun p => (p.markDue (maskOf ls) o.vd 1).fromScent (maskOf ls) o.vd

/-- R35 for the vector operands of a Scent instruction. -/
def scAllot (i : Instr) : M Unit := do
  match formOf i with
  | none => pure ()
  | some fm => if !allotOk fm (opndOf i) (← getP).allot then trapM 0x01 (BitVec.setWidth 64 (firstWord i))

/-- Issue a Scent operation to a die. -/
def issueSc (o : Opnd) (die : Nat) (op : OpHead → ScOp) : M Unit := do
  closeRegion
  let head ← issueOp .sc
  meet (dieOf head.core) die
  modS fun s =>
    let x := s.die die
    s.setDie die { x with scq := x.scq ++ [op head] }
  modP (·.next o)
  modS (·.accepted (fun _ => true) fun c => { c with scLast := putAt 0 c.scLast die c.cycle })

/-- Issue an operation on the sequence in g[A] with operand B. -/
def issueOn (o : Opnd) (kind : ScKind) (hrec : Nat) (d : Nat) (toks : List Half) : M Unit := do
  let p ← getP
  let a := p.readG o.a.toNat
  issueSc o (scDie (a.toNat % 2 ^ 32)) fun head =>
    { head, kind, a, b := p.opB o, hrec := BitVec.ofNat 512 hrec, vd := o.vd, d, toks, width := p.width }

/-- SCNEW (R262). -/
def execScnew (o : Opnd) (s : State) : Host.Outcome State Fault Refusal :=
  perform (.scnew o) (do
    scAllot (.scnew o)
    scDest o [0]
    let p ← getP
    let r ← readRecord o.a.toNat none
    issueSc o (dieOf (← getWho).core) fun head =>
      { head, kind := .new (o.f == 1), a := 0, b := p.opB o, hrec := BitVec.ofNat 512 r, vd := o.vd, d := 0, toks := []
        width := p.width }) s
/-- SCFREE (R263). -/
def execScfree (o : Opnd) (s : State) : Host.Outcome State Fault Refusal := perform (.scfree o) (issueOn o .free 0 0 []) s
/-- SCQRY (R264). -/
def execScqry (o : Opnd) (s : State) : Host.Outcome State Fault Refusal :=
  perform (.scqry o) (do
    scAllot (.scqry o)
    let d := min ((← getP).opB o).toNat 16
    scDest o (List.range d)
    issueOn o .qry 0 d []
    modP fun p => { p with queries := p.queries + 1 }) s
/-- SCAPP (R265): the tokens of lanes 0 to m - 1, as far as the pack has lanes. -/
def execScapp (o : Opnd) (s : State) : Host.Outcome State Fault Refusal :=
  perform (.scapp o) (do
    scAllot (.scapp o)
    let p ← getP
    let m := min (bits (p.readG o.a.toNat).toNat 47 32) p.width
    let src : List Src := if o.lit.isSome then [] else [{ which := 1, base := o.vb, count := 1, trap := o.x.eb }]
    match regCheck p (List.range m) src [] with
    | .go => pure ()
    | .stop e => throw e
    | .damaged => repairM (List.range m) src
    scDest o [0]
    let p ← getP
    issueOn o .app 0 0 ((List.range m).map fun k => BitVec.ofNat 32 (bValue o 1 (p.lane k)))) s
/-- SCSAVE (R273). -/
def execScsave (o : Opnd) (s : State) : Host.Outcome State Fault Refusal :=
  perform (.scsave o) (do issueOn o .save (← readRecord o.d.toNat none) 0 []) s
/-- SCLOAD (R274). -/
def execScload (o : Opnd) (s : State) : Host.Outcome State Fault Refusal :=
  perform (.scload o) (do issueOn o .load (← readRecord o.d.toNat none) 0 []) s
/-- SCATT (R271). -/
def execScatt (o : Opnd) (s : State) : Host.Outcome State Fault Refusal :=
  perform (.scatt o) (do
    scAllot (.scatt o)
    scDest o [0]
    issueOn o .att 0 0 []) s
/-- SCDET (R271). -/
def execScdet (o : Opnd) (s : State) : Host.Outcome State Fault Refusal := perform (.scdet o) (issueOn o .det 0 0 []) s
/-- SCCAP (R266). -/
def execSccap (o : Opnd) (s : State) : Host.Outcome State Fault Refusal := perform (.sccap o) (issueOn o .cap 0 0 []) s

/-! ### The match registers and the state word (R258, R267) -/

/-- The match registers as .all reads them. -/
def Pack.matchWord (p : Pack) : Word := p.smp ++ (0 : BitVec 3) ++ p.sdn ++ (0 : BitVec 1) ++ p.sml

/-- The match registers from a word. -/
def Pack.setMatch (p : Pack) (x : Word) : Pack :=
  { p with sml := x.extractLsb' 0 7, sdn := x.extractLsb' 8 5, smp := x.extractLsb' 16 48 }

/-- The state word of a sequence. -/
def scState (s : State) (ctx id : Nat) : Word :=
  match scFind s ctx id with
  | none => 0xFFFFFFFFFFFFFFFF
  | some q =>
    BitVec.ofNat 64 (q.n % 2 ^ 48 * 2 ^ 16 + (if q.doomed then 8 else 0) + (if q.pfx then 4 else 0) +
      (if q.link.isSome then 2 else 0) + (if q.cancel then 1 else 0))

/-- SCML (R267). -/
def execScml (o : Opnd) (s : State) : Host.Outcome State Fault Refusal :=
  perform (.scml o) (do
    closeRegion
    let p ← getP
    let f := o.f.toNat
    if f ≤ 3 && p.queries ≠ 0 then blockM .queries
    if f = 0 then setP (p.writeG o.d.toNat (p.sml.setWidth 64))
    else if f = 1 then setP (p.writeG o.d.toNat (p.smp.setWidth 64))
    else if f = 2 then setP (p.writeG o.d.toNat (p.sdn.setWidth 64))
    else if f = 3 then setP (p.writeG o.d.toNat p.matchWord)
    else if f = 4 then setP (p.setMatch (p.readG o.a.toNat))
    else
      let id := (p.readG o.a.toNat).toNat % 2 ^ 32
      let s ← getS
      if s.scActs p.id.uid id then blockM (.sequence id)
      meet (dieOf (← getWho).core) (scDie id)
      let s ← getS
      setP (p.writeG o.d.toNat (scState s p.id.ctx id))
    modP (·.next o)) s

/-! ### Performing an operation at its serial point (R262-R274) -/

/-- What a performed operation leaves: the status word for lane 0, or the drafts with the match registers. -/
structure ScResult where
  status : Nat := 0
  drafts : List Half := []
  found : Nat × Nat × Nat := (0, 0, 0)

/-- A status word (R260). -/
def statusWord (code id : Nat) : Nat := code * 2 ^ 28 + id % 2 ^ 28

/-- Is a capacity legal (R262)? -/
def capOk (c : Nat) : Bool := c % 64 == 0 && 64 ≤ c && c ≤ 4194304

/-- The sequence of an operation; code 10 when the identifier is not current. -/
def scTarget (q : ScOp) : M ScSeq := do
  match scFind (← getS) q.head.ctx (q.a.toNat % 2 ^ 32) with
  | some x => return x
  | none => throw (.code 10)

/-- Change the sequence of an operation. -/
def scPut (q : ScOp) (x : ScSeq) : M Unit :=
  modS fun s =>
    let id := q.a.toNat % 2 ^ 32
    s.setDie (scDie id) ((s.die (scDie id)).modSeq (scSlot id) fun _ => x)

/-- The bytes of tokens in the history buffer, with their virtual addresses: position and token (R255). -/
def bufferBytes (x : ScSeq) (ts : List (Nat × Half)) : List (Nat × Byte) :=
  ts.flatMap fun (i, t) => (List.range 4).map fun k =>
    ((x.base.toNat + 4 * (i % x.cap) + k) % 2 ^ 57, BitVec.ofNat 8 (t.toNat / 256 ^ k))

/-- Write tokens into the history buffer (R255). -/
def scBuffer (x : ScSeq) (ts : List (Nat × Half)) : M Unit := do
  engStore (← (bufferBytes x ts).mapM fun (va, b) => do return (← translate .wr va, some va, b, false))

/-- The retained own tokens of a sequence with their positions. -/
def ScSeq.ownTokens (x : ScSeq) : List (Nat × Half) :=
  (x.tokens.zipIdx.map fun (t, i) => (x.wstart + i, t)).filter (fun e => x.plen ≤ e.1)

/-- SCNEW at its serial point (R262). -/
def scNew (q : ScOp) (pfx : Bool) : M ScResult := do
  let c := q.b.toNat
  if !capOk c then throw (.code 10)
  let h := parseHnd q.hrec.toNat
  if !h.valid || h.kind ≠ 1 || h.space || h.ro then throw (.code 1)
  if h.base % 4 ≠ 0 then throw (.code 4)
  if h.extent < 4 * c then throw (.code 2)
  let d := dieOf q.head.core
  let x := (← getS).die d
  match x.fit d c (x.seqs.length + 1) with
  | none => return { status := statusWord 2 0 }
  | some y =>
    let slot := y.freeSlot.getD 0
    modS fun s => s.setDie d { y with
      stamps := y.stamps + 1
      seqs := y.seqs ++ [(slot, { ctx := q.head.ctx, pfx, cap := c, base := BitVec.ofNat 64 h.base, extent := h.extent
                                  stamp := y.stamps })] }
    return { status := statusWord 0 (y.gen slot * 2 ^ 16 + d * 2 ^ 14 + slot) }

/-- The tokens that SCAPP appends, with their positions (R265). -/
def appended (q : ScOp) (x : ScSeq) : List (Nat × Half) := q.toks.zipIdx.map fun (t, i) => (x.n + i, t)

/-- May the tokens of SCAPP be appended, cancellation aside (R265)? -/
def appendOk (q : ScOp) (x : ScSeq) : Bool := !(x.pfx && x.sealed) && x.n + bits q.a.toNat 47 32 ≤ 2 ^ 48 - 1

/-- SCAPP at its serial point (R265). -/
def scAppend (q : ScOp) : M ScResult := do
  let x ← scTarget q
  if bits q.a.toNat 47 32 > q.width then throw (.code 10)
  if x.cancel then return { status := statusWord 3 0 }
  if !appendOk q x then throw (.code 10)
  scBuffer x (appended q x)
  scPut q (q.toks.foldl ScSeq.push x)
  return { status := statusWord 0 0 }

/-- SCATT at its serial point (R271). DEDUCED: LOG 34. -/
def scAttach (q : ScOp) : M ScResult := do
  let x ← scTarget q
  if x.cancel then return { status := statusWord 3 0 }
  if x.pfx || x.link.isSome || x.n ≠ 0 then throw (.code 10)
  let id := q.b.toNat % 2 ^ 32
  match scFind (← getS) q.head.ctx id with
  | none => return { status := statusWord 1 0 }
  | some e =>
    if !e.pfx || e.doomed then return { status := statusWord 1 0 }
    let d := scDie (q.a.toNat % 2 ^ 32)
    if scDie id ≠ d then throw (.code 10)
    modS fun s =>
      let y := (s.die d).modSeq (scSlot id) fun e => { e with ref := e.ref + 1, sealed := true, stamp := (s.die d).stamps }
      s.setDie d { y with stamps := y.stamps + 1 }
    scPut q ({ x with link := some (scSlot id), plen := e.n, n := e.n, wstart := e.wstart, tokens := e.tokens }.evictTo (e.n - x.cap))
    return { status := statusWord 0 0 }

/-- The bytes of an image (R273). -/
def scImage (x : ScSeq) : List Byte :=
  leBytes 64 (x.wstart * 2 ^ 192 + x.cap * 2 ^ 128 + x.n * 2 ^ 64 + 2 ^ 32 + 0x544E4353) ++
    x.tokens.flatMap fun t => leBytes 4 t.toNat

/-- SCSAVE at its serial point (R273): an identifier that is not current gives code 10 before the checks that R273 lists (DESIGN CHOICE,
LOG 34). -/
def scSave (q : ScOp) : M ScResult := do
  let x ← scTarget q
  let b := q.b.toNat
  let h := parseHnd q.hrec.toNat
  if b % 4 ≠ 0 then throw (.code 4)
  if !h.valid then throw (.code 1)
  if h.ro then throw (.code 3)
  let bs := scImage x
  if !h.inBounds b bs.length then throw (.code 2)
  engStore (← bs.zipIdx.mapM fun (v, i) => do
    return (← engKey h id .wr (b + i), if h.space then none else some (h.addr (b + i)), v, false))
  return {}

/-- The sequence that SCLOAD leaves, after its checks (R274). DEDUCED: LOG 34. -/
def scLoaded (q : ScOp) : M ScSeq := do
  let x ← scTarget q
  if x.pfx || x.cancel || x.link.isSome || x.n ≠ 0 then throw (.code 10)
  let b := q.b.toNat
  let h := parseHnd q.hrec.toNat
  if b % 4 ≠ 0 then throw (.code 4)
  if !h.valid then throw (.code 1)
  if !h.inBounds b 64 then throw (.code 2)
  let (hd, bad) ← engLoad h b 64
  if bad then throw (.code 5)
  let v := leNat hd
  let n := bits v 127 64
  let w := bits v 255 192
  if bits v 63 0 ≠ 0x1544E4353 || bits v 511 256 ≠ 0 || bits v 191 160 ≠ 0 || n < w || n - w > 4194304 || n ≥ 2 ^ 48 then
    throw (.code 10)
  if !h.inBounds b (64 + 4 * (n - w)) then throw (.code 2)
  let (ts, bad) ← engLoad h (b + 64) (4 * (n - w))
  if bad then throw (.code 5)
  return { x with n, wstart := w, tokens := (elemsOf 4 ts).map (BitVec.ofNat 32) }.evictTo (n - x.cap)

/-- A sequence whose own tokens are written into its history buffer anew (R266, R274). -/
def scRewrite (q : ScOp) (y : ScSeq) : M ScResult := do
  scBuffer y y.ownTokens
  scPut q y
  return {}

/-- SCLOAD at its serial point (R274). -/
def scLoad (q : ScOp) : M ScResult := do scRewrite q (← scLoaded q)

/-- The sequence that SCCAP leaves, after its checks (R266). -/
def scCapped (q : ScOp) : M ScSeq := do
  let x ← scTarget q
  let c := q.b.toNat
  let d := scDie (q.a.toNat % 2 ^ 32)
  if !capOk c || 4 * c > x.extent then throw (.code 10)
  if c > x.cap && !((← getS).die d).holds d (c - x.cap) then throw (.code 10)
  if x.pfx && x.sealed then throw (.code 10)
  return { x with cap := c }.evictTo (x.n - c)

/-- SCCAP at its serial point (R266). -/
def scCap (q : ScOp) : M ScResult := do scRewrite q (← scCapped q)

/-- An operation at its serial point. -/
def scPerform (q : ScOp) : M ScResult := do
  let id := q.a.toNat % 2 ^ 32
  match q.kind with
  | .new pfx => scNew q pfx
  | .free =>
    let _ ← scTarget q
    modS fun s => s.setDie (scDie id) ((s.die (scDie id)).release (scSlot id))
    return {}
  | .qry =>
    let x ← scTarget q
    let (found, drafts) := x.query q.d
    return { found, drafts }
  | .app => scAppend q
  | .save => scSave q
  | .load => scLoad q
  | .att => scAttach q
  | .det =>
    let x ← scTarget q
    if x.pfx then throw (.code 10)
    modS fun s => s.setDie (scDie id) (((s.die (scDie id)).unlink (scSlot id)).modSeq (scSlot id) fun x =>
      { x with n := 0, wstart := 0, plen := 0, tokens := [] })
    return {}
  | .cap => scCap q

/-- The bytes of the history buffer that a failing SCAPP would have written (R265): none where it is cancelled (R275) or refused; any other
operation that fails writes none (R259). -/
def scLate (q : ScOp) : M (List EngByte) := do
  if q.kind = .app then
    match ← tryM (scTarget q) with
    | some x => do
      if bits q.a.toNat 47 32 > q.width || x.cancel || !appendOk q x then return []
      let l ← (bufferBytes x (appended q x)).mapM fun (va, b) => do return (← tryM (translate .wr va)).map fun k => (k, some va, b, false)
      return l.filterMap id
    | none => return []
  else return []

/-- A failed SCSAVE: the granules of its image are poisoned (R227). -/
def scFail (q : ScOp) (written : List Nat) : M Unit := do
  let h := parseHnd q.hrec.toNat
  match scFind (← getS) q.head.ctx (q.a.toNat % 2 ^ 32) with
  | some x =>
    if q.kind = .save && h.valid then
      failGranules q.head h id ((List.range (scImage x).length).map (q.b.toNat + ·)) written
  | none => pure ()

/-- A value arrives in a register of a lane of the pack with an identity; it is dropped where none is due any more (R219,
R325). -/
def scWrite (uid l n x : Nat) : M Unit :=
  modUid uid fun p => p.onLanes (1#1024 <<< l) fun _ ln => if (ln.reg n).due then ln.writeV n 1 x else ln

/-- The values of a performed operation reach the registers (R260, R264), but for those that a SHRINK has given up (R219). -/
def scDeliver (q : ScOp) (r : ScResult) : M Unit := do
  if !q.dead then match q.kind with
  | .new _ | .app | .att => scWrite q.head.uid 0 q.vd r.status
  | .qry => for k in List.range q.d do scWrite q.head.uid k q.vd (r.drafts.getD k 0).toNat
  | _ => pure ()

/-- The match registers of a query that retires (R264). -/
def scFound (q : ScOp) (p : Pack) : Pack :=
  if q.kind = .qry then
    { p with sml := BitVec.ofNat 7 q.found.1, smp := BitVec.ofNat 48 q.found.2.1, sdn := BitVec.ofNat 5 q.found.2.2
             queries := p.queries - 1 }
  else p

/-- The performed operation of a pack that retires next, with its die (R224). -/
def scNext (s : State) (uid : Nat) : Option (Nat × ScOp) :=
  let all := s.dies.flatMap fun d => (d.2.scq.filter (fun q => q.head.uid == uid)).map fun q => (d.1, q)
  match all.find? (fun e => all.all (fun f => e.2.head.seq ≤ f.2.head.seq)) with
  | some e => if e.2.head.result.isSome then some e else none
  | none => none

/-- Retire what Scent has performed for a pack, in issue order. -/
def retireScent (uid : Nat) : Nat → M Unit
  | 0 => pure ()
  | fuel + 1 => do
    match scNext (← getS) uid with
    | none => pure ()
    | some (d, q) =>
      modS fun s =>
        let x := s.die d
        s.setDie d { x with scq := x.scq.filter fun y => !(y.head.uid == uid && y.head.seq == q.head.seq) }
      modUid uid (scFound q)
      retireOne .sc uid q.head.seq (q.head.result.getD 0)
      retireScent uid fuel

/-- The sequences of its die that an operation touches: its own, the prefix entry it attaches to, the one it is attached to
(R268). -/
def scTouches (x : Die) (q : ScOp) : List Nat :=
  let own := scSlot (q.a.toNat % 2 ^ 32)
  match q.kind with
  | .new _ => []
  | .att => [own, scSlot (q.b.toNat % 2 ^ 32)]
  | .free | .det => own :: ((Table.get? x.seqs own).bind (·.link)).toList
  | _ => [own]

/-- Must operation `q` wait for one ahead of it: the same pack's on a sequence that both touch, or a held one on it (R265,
R269)? -/
def scBehind (x : Die) (q y : ScOp) : Bool :=
  y.head.result.isNone && (scTouches x q).any ((scTouches x y).contains ·) &&
    (y.head.uid == q.head.uid || y.head.heldOn.isSome || !y.head.asked.isEmpty)

/-- Is an operation held, or behind a held operation of its pack on any die (R228)? -/
def scHeld (s : State) (q : ScOp) : Bool :=
  let held (h : OpHead) : Bool := h.heldOn.isSome || !h.asked.isEmpty
  held q.head || s.dies.any fun d => d.2.scq.any fun y => y.head.uid == q.head.uid && y.head.seq < q.head.seq && held y.head

/-- An operation ends with what `h` and `r` say; its answer reaches the issuing die (R338). -/
def scSettle (d : Nat) (q : ScOp) (h : OpHead × Option (List Nat)) (r : ScResult) : M Unit := do
  if h.1.result.isSome then meet (dieOf q.head.core) d
  let r := if h.2.isSome then { status := statusWord 15 0 } else r
  if let some ks := h.2 then scFail q ks
  modS fun s =>
    let x := s.die d
    s.setDie d { x with scq := x.scq.map fun y =>
      if y.head.uid == q.head.uid && y.head.seq == q.head.seq then { y with head := h.1, found := r.found } else y }
  if h.1.result.isSome then scDeliver q r
  retireScent q.head.uid (((← getS).die d).scq.length + 256)

/-- SCENT_SERIAL_POINT (R268): operation `n` of a die's Scent engine. -/
def execScentSerialPoint (d n : Nat) (s : State) : Host.Outcome State Fault Refusal :=
  event s (do
    let s ← getS
    let x := s.die d
    match x.scq[n]? with
    | none => notNow
    | some q =>
      if q.head.result.isSome || scHeld s q || (x.scq.take n).any (scBehind x q) then notNow
      let w ← get
      let res := (scPerform q { w with who := { ctx := q.head.ctx, core := q.head.core, slot := q.head.slot, uid := q.head.uid
                                                direct := true, served := q.head.served, early := q.head.early } })
      let r : ScResult := match res with | .ok r _ => r | .error _ _ => {}
      let h ← engineRun q.head 6 (do let _ ← scPerform q; return 0) (scLate q)
      scSettle d q h r)

end Sys2Proof.Machine
end

