-- ==== Sys2Proof/Machine/Preempt.lean ====
section
/-! DEFINITION. Pre-emption and restore: abandoning a wait, the pack frame, vacating a slot, and reinstating a frame
(spec/13_faults_and_preemption.md R309-R316). -/

namespace Sys2Proof.Machine

/-- Change the pack of a slot. -/
def modSlot (core slot : Nat) (f : Pack → Pack) : M Unit :=
  modS fun s =>
    match s.pack? core slot with
    | some p => s.setPack core slot (f p)
    | none => s

/-- The word at a pack's PC, as far as it can be read. -/
def wordAt (core : Nat) (p : Pack) : M Nat := loadResident p.id.ctx core p.pc.toNat 4

/-- The length field of the instruction at a pack's PC (R22), or of the one there of which a part has been done. -/
def lenAt (core : Nat) (p : Pack) : M (BitVec 2) := do
  match p.prog.begun with
  | some i => return (opndOf i).l
  | none => return BitVec.ofNat 2 (← wordAt core p)

/-- Does an ISSV stand at a pack's PC? -/
def issvAt (core : Nat) (p : Pack) : M Bool := do
  match p.prog.begun with
  | some i => return match i with | .issv _ => true | _ => false
  | none => return bits (← wordAt core p) 9 2 == 0x94

/-- A repacking window without a slot. -/
def Repack.leave (w : Repack) (slot : Nat) : Option Repack :=
  let ms := w.members.filter (fun m => m.1 != slot)
  match ms with
  | [] => none
  | m :: _ => some { w with members := ms, first := if w.first = slot then m.1 else w.first }

/-- The requests that a blocking instruction of a pack has made are withdrawn, and it waits for nothing (R310 step 1, R215). -/
def withdraw (core slot uid : Nat) : M Unit := do
  modS fun s =>
    let c := s.core core
    let s := s.setCore core { c with
      repacks := c.repacks.filterMap (·.leave slot)
      growing := c.growing.filter (fun e => e.1 != slot) }
    { s with guardQ := s.guardQ.map fun e => (e.1, e.2.filter (fun r => r.uid != uid)) }
  modSlot core slot fun p => { p with prog := { p.prog with wait := none } }

/-- A blocking instruction of a pack is abandoned with no effect (R310 step 1). -/
def abandon (core slot uid : Nat) : M Unit := do
  withdraw core slot uid
  modSlot core slot fun p => { p with prog := {} }

/-! ### The frame (R312) -/

/-- Two bits per register per lane: full and poisoned. -/
def frameBits (p : Pack) : Nat :=
  (List.range p.width).foldl (fun n l =>
    n + (List.range p.allot).foldl (fun m r =>
      let v := (p.lane l).reg r
      m + ((if v.full then 1 else 0) + (if v.bad.isSome then 2 else 0)) * 4 ^ r) 0 * 4 ^ (l * p.allot)) 0

/-- The bytes of a stack entry. -/
def entryBytes (e : Entry) : List Byte :=
  leBytes 8 e.pc.toNat ++ leBytes 8 e.ra.toNat ++
    leBytes 16 (match e.kind with | .pending => 0 | .join => 1 | .exit => 2) ++ imageBytes e.mask

/-- The bytes of a lane's item. -/
def itemBytes (it : Item) : List Byte :=
  leBytes 8 it.wid.toNat ++ leBytes 4 it.label.toNat ++ leBytes 4 it.arr ++
    leBytes 16 ((match it.cls with | .u => 0 | .o => 1 | .a => 2) + (if it.done then 256 else 0))

/-- The system-state section. -/
def sysBytes (p : Pack) : List Byte :=
  let y := p.sys
  ([y.asyncerr, y.cki, y.rgnpc, y.rgnretry, y.shash, y.trlpos, y.mcstat, y.mcpc, y.mcword, y.mclane, y.fltaddr, y.fltmaskp].flatMap
    fun x => leBytes 8 x.toNat) ++ leBytes 32 p.rgnDepth ++ imageBytes p.rgnMask

/-- The header. -/
def frameHeader (f : Frame) : Nat :=
  let p := f.pack
  let b (x : Bool) (n : Nat) : Nat := if x then 2 ^ n else 0
  p.id.age % 2 ^ 48 * 2 ^ 128 + p.pc.toNat * 2 ^ 64 + p.cnt.cl * 2 ^ 48 + b f.selfSaved 47 + p.held.length * 2 ^ 43 +
    f.tl.toNat * 2 ^ 41 + p.stack.length * 2 ^ 32 + b f.stopped 31 + b f.issv 30 + b f.parked 29 + b p.id.mirr 28 +
    b (p.sys.rgnpc != 0) 27 + (p.allot / 8 - 1) * 2 ^ 22 + p.width / 32 * 2 ^ 16 + p.id.lpid.toNat

/-- The frame's bytes, up to the part that firmware lays down (DESIGN CHOICE, LOG 11). -/
def frameBytes (f : Frame) : List Byte :=
  let p := f.pack
  leBytes 64 (frameHeader f) ++ imageBytes p.occ ++ imageBytes f.image ++ leBytes (p.width * p.allot / 4) (frameBits p) ++
    p.stack.flatMap entryBytes ++ (List.range p.width).flatMap (fun l => itemBytes (p.lane l).item) ++
    p.held.flatMap (fun h => leBytes 8 h.addr.toNat ++ leBytes 8 (if h.excl then 0 else 1)) ++ sysBytes p

/-- Write a frame into the spill region of its context; its address. -/
def writeFrame (core : Nat) (f : Frame) : M Word := do
  let bs := frameBytes f
  let va ← allocSpill f.ctx bs.length 64
  storeResident f.ctx core va bs
  modS fun s => { s with frames := Table.set s.frames (f.ctx, va) f }
  return va

/-- TVAL of a pre-emption or restore entry (R310). -/
def preTval (f : Frame) (restore : Bool) : Word :=
  BitVec.ofNat 64 (f.seq % 2 ^ 32 * 2 ^ 32 + (if f.issv then 4 else 0) + (if restore then 2 else 0) + (if f.parked then 1 else 0))

/-! ### Vacating and returning (R310, R315) -/

/-- The pack of a slot vacates it. -/
def vacate (core slot : Nat) : M Unit := do
  match (← getS).pack? core slot with
  | some p =>
    modS fun s => (s.dropPack core slot).clearYields core p.id.uid
    leftCore p.id.ctx core
  | none => pure ()

/-- The counters of a pack and of its frame together. -/
def Counts.plus (a b : Counts) : Counts :=
  { cp := a.cp + b.cp, gt := a.gt + b.gt, mx := a.mx + b.mx, cl := a.cl + b.cl, sc := a.sc + b.sc }

/-- A lane with the full and poisoned bits that a frame recorded. -/
def Lane.reinstate (ln saved : Lane) (n : Nat) : Lane :=
  { ln with v := (List.range n).map fun r =>
      let v := saved.reg r
      { ln.reg r with full := v.full, due := v.due, sc := v.sc, bad := v.bad } }

/-- The frame's full and poisoned bits and the cl counter come back (R315 step 4), with a region restart that was due. -/
def Pack.reinstate (p saved : Pack) : Pack :=
  let q := p.onLanes (widthMask p.width) fun l ln => ln.reinstate (saved.lane l) p.allot
  { q with cnt := p.cnt.plus saved.cnt, queries := p.queries + saved.queries, restart := saved.restart
           pendingTrap := saved.pendingTrap, pre := none }

/-- The end of a handler between a pre-emption or restore entry and the return: it vacates, or it reinstates the frame and may
return (R310, R315). Whether it returns. -/
def leavePre : M Bool := do
  let p ← getP
  let who ← getWho
  match p.pre with
  | none => return true
  | some r =>
    if !r.restore then
      modS fun s => { s with frames := s.frames.map fun f =>
        if f.1 = (who.ctx, r.frame) then (f.1, { f.2 with pack := { f.2.pack with cnt := p.cnt, issued := p.issued } }) else f }
      vacate who.core who.slot
      return false
    else
      match Table.get? (← getS).frames (who.ctx, r.frame) with
      | some f =>
        modS fun s => { s with frames := Table.del s.frames (who.ctx, r.frame) }
        setP (p.reinstate f.pack)
      | none => setP { p with pre := none }
      return true

/-! ### Pre-emption entry (R309-R311) -/

/-- The sequence number of the pre-emption request that a pack has still to obey: of the one it waits for, or of the one it has entered the
handler for, once it has stopped there and is to be saved (R309). -/
def Pack.wanted (p : Pack) : Option Nat :=
  match p.preReq, p.status, p.pre with
  | some n, _, _ => some n
  | none, .stopped _ _ _ _, some r => if r.restore then none else some r.seq
  | none, _, _ => none

/-- Whether a pack is at a boundary at which it takes a pre-emption, or is saved (R302, R309); a region restart that is due after the answer
to a fault record comes first (R325; DEDUCED, LOG 44). -/
def Pack.takesPre (p : Pack) : Bool :=
  p.wanted.isSome &&
    (match p.status with
     | .running => p.id.walker.isNone && p.priv == 0 && p.restart.isNone && p.pendingTrap.isNone && p.owed == 0
     | .parked _ answer _ _ => answer.isNone || (p.restart.isNone && p.pendingTrap.isNone)
     | .stopped _ _ _ _ => true
     | .ended => false)

/-- Is the pack drained (R310 step 2)? -/
def Pack.drained (p : Pack) : Bool :=
  p.cnt.cp == 0 && p.cnt.gt == 0 && p.cnt.mx == 0 && p.cnt.sc == 0 && p.fills.isEmpty

/-- The frame of a pack as it stands. -/
def frameOf (core seq : Nat) (p : Pack) (self : Bool) : M Frame := do
  let parked := match p.status with | .parked _ _ _ _ => true | _ => false
  let stopped := match p.status with | .stopped _ _ _ _ => true | _ => false
  let p := p.hashed
  let issv ← issvAt core p
  let kept := p.prog.left.or p.prog.replay
  let image ← (if parked then do
      return BitVec.ofNat 1024 (← loadResident p.id.ctx core p.sys.fltmaskp.toNat 128)
    else return kept.getD 0)
  return { ctx := p.id.ctx, pack := { p with prog := {}, preReq := none }, image, selfSaved := self && !stopped, stopped
           parked := parked || (kept.isSome && !(issv && p.prog.left.isSome))
           issv := issv && (parked || kept.isSome), seq, tl := ← lenAt core p, before := p.issued }

/-- The frame that a pack stopped in a handler of R310 or R315 leaves behind is no frame of its own any more: its counters join the pack's,
which is saved as it stopped (R309). -/
def foldFrame (core slot : Nat) (p : Pack) : M Pack := do
  match p.pre with
  | none => return p
  | some r =>
    let old := Table.get? (← getS).frames (p.id.ctx, r.frame)
    modS fun s => { s with frames := Table.del s.frames (p.id.ctx, r.frame) }
    let q := match old with
      | some f => { p with pre := none, cnt := if r.restore then p.cnt.plus f.pack.cnt else p.cnt }
      | none => { p with pre := none }
    modSlot core slot fun _ => q
    return q

/-- PREEMPTION_ENTRY (R310, R311): a stopped walker's misses take their page-fault path first (R190); the open batch closes and the pack drains;
then its frame is written and it enters the handler, FLTMASKP naming the image of the lanes that an ISSV or an atomic has not finished (R165,
R298), or it is saved whole and vacates. -/
def preemptPack (core slot : Nat) : M Unit := do
  let s ← getS
  match s.pack? core slot with
  | none => notNow
  | some p =>
    if !p.takesPre || (p.id.walker.isSome && (s.core core).misses ≠ []) then notNow
    if p.openOps ≠ 0 then
      if p.cnt.mx ≥ 255 then notNow
      modSlot core slot fun p =>
        { p with cnt := p.cnt.put .mx (p.cnt.mx + 1), issued := p.issued.put .mx (p.issued.mx + 1), openOps := 0 }
    else
      if !p.drained then notNow
      let stopped := match p.status with | .stopped _ _ _ _ => true | _ => false
      let tvec := (s.ctx p.id.ctx).tvec &&& 0xFFFFFFFFFFFFFFFC
      let seq := p.wanted.getD 0
      let p ← foldFrame core slot p
      let f ← frameOf core seq p (tvec == 0)
      let va ← writeFrame core f
      abandon core slot p.id.uid
      if stopped || tvec = 0 then vacate core slot
      else
        let image ← (match p.prog.left.or p.prog.replay with
          | some m => putImage p.id.ctx core m
          | none => return p.sys.fltmaskp)
        modSlot core slot fun p =>
          let q := ({ p with status := .running, preReq := none }).enterHandler tvec 0x0F (preTval f false) f.tl
          { q with sys := { q.sys with tsave := va &&& 0x01FFFFFFFFFFFFC0, fltmaskp := image }
                   pre := some { frame := va, restore := false, seq := f.seq } }

/-- PREEMPTION_ENTRY (R310). -/
def execPreemptionEntry (core slot : Nat) (s : State) : Host.Outcome State Fault Refusal :=
  event s (preemptPack core slot)

/-- PREEMPTION_COMPLETE (R309, R313): no pack of the context is resident and its Heel entries are all in the area; the
pre-emption-complete record is posted. -/
def execPreemptionComplete (ctx : Nat) (s : State) : Host.Outcome State Fault Refusal :=
  event s (do
    let s ← getS
    match (s.ctx ctx).pre with
    | .requested seq =>
      if s.packs.any (fun e => e.2.id.ctx == ctx) then notNow
      for c in s.cores do spillAll ctx c.1 c.2.heel.length
      if (← getS).cores.any (fun c => c.2.heel.any (fun e => e.ctx == ctx && !e.spilled)) then notNow
      let n ← nextSeq ctx
      postRecord ctx (contextRecord 2 n 0 0 ctx 0 (BitVec.ofNat 64 seq))
      modS fun s => s.setCtx ctx { s.ctx ctx with pre := .complete seq }
    | _ => notNow)

/-! ### Restore (R315) -/

/-- The slots of a core that a context's packs may take: slot 47 is the walker's in programmable mode (R190). A pack of a context in standard
mode may take it on any core, and a walker of another context then waits until it leaves (DESIGN CHOICE, LOG 21). -/
def State.slotOk (s : State) (core slot ctx : Nat) : Bool :=
  slot < Config.numSlots && !((s.ctx ctx).programmable && slot == 47) && (s.pack? core slot).isNone

/-- Is there room for `n` more registers on a core (R218, R329)? -/
def State.roomFor (s : State) (core ctx n : Nat) (mirr : Bool) : Bool :=
  s.usedRegs core + n ≤ s.capacity core ctx && (!mirr || s.usedRegs core + n + s.walkerShare core ctx ≤ 65536)

/-- HOLDER follows the tokens that a pack's items hold (R315). -/
def followTokens (core : Nat) (p : Pack) : M Unit := do
  for l in lanesOf p.occ p.width do
    let it := (p.lane l).item
    if it.cls == .a && !it.done then
      modFlow p.id.ctx it.label fun f => if f.token then { f with holder := core } else f

/-- A pack as it starts from a frame with a handler: registers and predicates zero, the mask its occupancy. -/
def Frame.fresh (f : Frame) : Pack :=
  let p := f.pack
  { p with
    g := [], priv := 0, mask := p.occ, status := .running, sml := 0, smp := 0, sdn := 0, cnt := {}, queries := 0
    restart := none, pendingTrap := none
    lanes := (List.range p.width).map fun l => { item := (p.lane l).item }
    sys := { p.sys with tpc := 0, tcause := 0, tval := 0, tstat := 0, tsave := 0 } }

/-- RESTORE_ENTRY (R315): frame `n` that waits on a core starts in a slot; its watchdog starts anew there (R123). -/
def execRestoreEntry (core n slot : Nat) (s : State) : Host.Outcome State Fault Refusal :=
  event s (do
    let s ← getS
    let c := s.core core
    match c.waiting[n]? with
    | none => notNow
    | some w =>
      match Table.get? s.frames (w.ctx, w.frame) with
      | none => notNow
      | some f =>
        let p := { f.pack with lastIssue := c.cycle }
        if (s.ctx w.ctx).pre ≠ .none || !s.slotOk core slot w.ctx || !s.roomFor core w.ctx (p.width * p.allot) p.id.mirr then
          notNow
        setS (s.setCore core { c with waiting := c.waiting.eraseIdx n })
        let drop : M Unit := modS fun s => { s with frames := Table.del s.frames (w.ctx, w.frame) }
        let tvec := (s.ctx w.ctx).tvec &&& 0xFFFFFFFFFFFFFFFC
        match p.status with
        | .stopped cause val flt img =>
          modS fun s => s.setPack core slot { p with status := .running }
          drop
          asPack core slot (.nop {}) (takeTrap cause val f.tl flt img)
        | _ =>
          if f.selfSaved then
            modS fun s => s.setPack core slot { p with
              status := .running
              prog := { replay := if (f.parked || f.issv) && f.image &&& p.occ ≠ 0 then some f.image else none } }
            drop
          else
            modS fun s => s.setPack core slot { f.fresh with lastIssue := c.cycle, pre := some { frame := w.frame, restore := true, seq := f.seq } }
            asPack core slot (.nop {}) (do
              if tvec = 0 then stopPack 0x0F (preTval f true) none none
              else modP fun q =>
                let q := q.enterHandler tvec 0x0F (preTval f true) f.tl
                { q with sys := { q.sys with tsave := w.frame &&& 0x01FFFFFFFFFFFFC0 } })
        match (← getS).pack? core slot with
        | some q => followTokens core q
        | none => pure ())

end Sys2Proof.Machine
end

