-- ==== Sys2Proof/Machine/Special.lean ====
section
/-! DEFINITION. System registers, traps and returns, regions, translation instructions and SNAPT
(spec/01_sequential_machine.md R16-R24; spec/13_faults_and_preemption.md R302, R306-R308, R322, R323;
spec/14_dies_and_devices.md R337). -/

namespace Sys2Proof.Machine

/-! ### Privilege (R12, R16) -/

/-- Access to a system register at a level (R16). -/
def sysAt (n : Nat) (priv : BitVec 2) : Access :=
  match sysAccess n with
  | some (user, handler) => if priv = 0 then user else handler
  | none => .trap

/-- The privilege trap (R12). -/
def privTrap (i : Instr) : Stop := .trap 0x03 (BitVec.setWidth 64 (firstWord i)) none none

/-- An instruction that needs handler level (R12). -/
def needHandler (i : Instr) : M Unit := do if (← getP).priv = 0 then throw (privTrap i)

/-! ### NOP, SRD, SWR -/

/-- NOP (R21). -/
def execNop (o : Opnd) (s : State) : Host.Outcome State Fault Refusal := onPack s (·.next o)

/-- SRD (R20). -/
def execSrd (o : Opnd) (s : State) : Host.Outcome State Fault Refusal :=
  perform (.srd o) (do
    let p ← getP
    let who ← getWho
    if sysAt (srdNumber o) p.priv = .trap then throw (privTrap (.srd o))
    setP ((p.writeG o.d.toNat (sysRead (← getS) who.core who.slot p (srdNumber o))).next o)) s

/-- SWR (R20): a write to a register that is read-only at the level is discarded. -/
def execSwr (o : Opnd) (s : State) : Host.Outcome State Fault Refusal :=
  perform (.swr o) (do
    let p ← getP
    let n := swrNumber o
    if sysAt n p.priv = .trap then throw (privTrap (.swr o))
    let x := p.readG o.a.toNat
    if sysAt n p.priv = .rw then
      if sysPerCtx n then modCtx (·.write n x) else setP { p with sys := p.sys.write n x }
    modP (·.next o)) s

/-! ### Traps and returns -/

/-- TRAP (R302). -/
def execTrap (o : Opnd) (s : State) : Host.Outcome State Fault Refusal :=
  perform (.trap o) (do trapM 0x10 ((← getP).opB o)) s

/-- ERET (R24); after a pre-emption entry it vacates, after a restore entry it reinstates the frame first (R310, R315). -/
def execEret (o : Opnd) (s : State) : Host.Outcome State Fault Refusal :=
  perform (.eret o) (do
    needHandler (.eret o)
    if ← leavePre then modP (·.leaveHandler)) s

/-- FRESUME (R306): the pack returns to TPC with the image at FLTMASKP; the replay is the next thing that issues. -/
def execFresume (o : Opnd) (s : State) : Host.Outcome State Fault Refusal :=
  perform (.fresume o) (do
    needHandler (.fresume o)
    if ← leavePre then
      let p ← getP
      let (_, va, k) ← scalarAccess .rd 0 p.sys.fltmaskp 128
      let img := BitVec.ofNat 1024 (leNat (← loadKeys k 128))
      consumeScalar k 128 va
      modP fun p => { p.leaveHandler with prog := { replay := some img } }) s

/-! ### Regions (R322, R323) -/

/-- REGION. -/
def execRegion (o : Opnd) (s : State) : Host.Outcome State Fault Refusal :=
  perform (.region o) (do
    sealHeel
    modP fun p =>
      { p with sys := { p.sys with rgnpc := p.pc + 4, rgnretry := 0 }, rgnMask := p.mask, rgnDepth := p.stack.length }
    modP (·.next o)) s

/-- CHKERR. -/
def execChkerr (o : Opnd) (s : State) : Host.Outcome State Fault Refusal :=
  perform (.chkerr o) (do
    if (← getP).anyDue then blockM .producers
    closeRegion
    modP fun p => (p.writeG o.d.toNat p.sys.cki).next o) s

/-! ### Translation (R307, R308) -/

/-- Install a translation in a core's TLB (R188). -/
def installCore (core : Nat) (e : TlbEntry) : M Unit :=
  modS fun s => s.setCore core { s.core core with tlb := tlbInsert 128 (s.core core).tlb e }

/-- Install a translation in a cluster's TLB (R188). -/
def installCluster (k : Nat) (e : TlbEntry) : M Unit :=
  modS fun s => s.setCluster k { s.cluster k with tlb := tlbInsert 8192 (s.cluster k).tlb e }

/-- The pages that a pack waits for. -/
def Pack.waitPages (p : Pack) : List Nat :=
  match p.prog.wait with
  | some { why := .walk pages, .. } => pages
  | _ => []

/-- The pages of a list have been walked for a pack, with what `f` gives. -/
def Pack.served (p : Pack) (pages : List Nat) (f : Nat → Option TlbEntry) : Pack :=
  { p with prog := { p.prog with walked := pages.foldl (fun t g => Table.set t g (f g)) p.prog.walked } }

/-- What the TLBs that serve a core give for a page of a context. -/
def State.tlbEntry (s : State) (core ctx page : Nat) : Option TlbEntry :=
  (tlbFind (s.core core).tlb ctx (page * 4096)).or (tlbFind (s.cluster (clusterOf core)).tlb ctx (page * 4096))

/-- Is a core's walker serving this page for a pack (R190)? -/
def State.serves (s : State) (core : Nat) (p : Pack) (page : Nat) : Bool :=
  match s.pack? core 47 with
  | some w =>
    w.id.walker == some page && w.id.ctx == p.id.ctx &&
      (match (s.core core).misses.find? (fun m => m.ctx == p.id.ctx && m.page == page) with
       | some m => m.uid == p.id.uid
       | none => false)
  | none => false

/-- A pack whose access retranslates (R190, R307): the pages that the TLBs now give have been served, and so has the page that its walker is
serving, which takes the page-fault path where they miss it again; others wait on. -/
def State.retranslated (s : State) (core : Nat) (p : Pack) : Pack :=
  let e := s.tlbEntry core p.id.ctx
  p.served (p.waitPages.filter fun g => (e g).isSome || s.serves core p g) e

/-- TLBW (R307): with C not 0 the pack that C names, of the same context, looks its pages up again (DEDUCED, LOG 44). -/
def execTlbw (o : Opnd) (s : State) : Host.Outcome State Fault Refusal :=
  perform (.tlbw o) (do
    needHandler (.tlbw o)
    let p ← getP
    let who ← getWho
    let leaf := (p.readG o.b.toNat).toNat
    let s ← getS
    if !bit leaf 0 || !bit leaf 1 || malformed s.dev (leafLevel (bits leaf 11 9)) leaf then
      trapM 0x08 (p.readG o.b.toNat)
    let e := leafEntry who.ctx ((p.readG o.a.toNat).toNat % 2 ^ 57) leaf
    if o.f ≠ 1 then installCore who.core e
    if o.f ≠ 0 then installCluster (clusterOf who.core) e
    if o.x.c ≠ 0 then
      let id := bits (p.readG o.rc).toNat 21 0
      modS fun s => { s with packs := s.packs.map fun x =>
        if x.2.id.ctx = who.ctx && (packId x.1.1 x.1.2 x.2.width).toNat = id then (x.1, s.retranslated x.1.1 x.2) else x }
    modP (·.next o)) s

/-- Does an invalidation cover an entry: every entry of the context, or those that cover an address (R308)? -/
def invalidates (ctx : Nat) (page : Option Nat) (e : TlbEntry) : Bool :=
  e.ctx == ctx && (match page with | none => true | some a => e.page ≤ a && a < e.page + e.size)

/-- A pack forgets what was walked for it, covered translations and all missing ones, whose pages may be of any size by now, and looks them up
again (R186, R308). -/
def Pack.forget (p : Pack) (ctx : Nat) (page : Option Nat) : Pack :=
  if p.id.ctx ≠ ctx then p
  else
    let keeps (w : Nat × Option TlbEntry) : Bool :=
      match w.2 with
      | some e => !invalidates ctx page e
      | none => false
    if p.prog.walked.all keeps then p
    else { p with prog := { p.prog with
      walked := p.prog.walked.filter keeps, wait := if p.waitPages.isEmpty then p.prog.wait else none } }

/-- No TLB of the device holds a covered entry any more, and no walk uses a table entry read before (R308). -/
def invalidate (ctx : Nat) (page : Option Nat) : M Unit :=
  modS fun s =>
    let keeps (e : TlbEntry) : Bool := !invalidates ctx page e
    { s with
      cores := s.cores.map fun c => (c.1, { c.2 with tlb := c.2.tlb.filter keeps })
      clusters := s.clusters.map fun k => (k.1, { k.2 with
        tlb := k.2.tlb.filter keeps
        memo := k.2.memo.filter fun m => !(k.2.walks ++ k.2.queued).any fun w => w.batch == m.1 && w.ctx == ctx })
      packs := s.packs.map fun p => (p.1, p.2.forget ctx page) }

/-- TLBINV (R308): it waits for the pack's held stores; a walk that is still outstanding reads the tables afresh when it completes. -/
def execTlbinv (o : Opnd) (s : State) : Host.Outcome State Fault Refusal :=
  perform (.tlbinv o) (do
    needHandler (.tlbinv o)
    let p ← getP
    if (← getS).cores.any fun c => c.2.heel.any fun e => e.uid == p.id.uid then blockM .stores
    invalidate p.id.ctx (if o.f = 0 then some ((p.readG o.a.toNat).toNat % 2 ^ 57) else none)
    modP (·.next o)) s

/-- PAGER_INVALIDATION (R308): the pager's invalidation through the management path. -/
def execPagerInvalidation (ctx : Nat) (page : Option Word) (s : State) : Host.Outcome State Fault Refusal :=
  event s (invalidate ctx (page.map fun a => a.toNat % 2 ^ 57))

/-! ### SNAPT (R337) -/

/-- The trigger that a pack at SNAPT has raised: what SNAPT will write. -/
def Pack.raised (p : Pack) : Option Nat :=
  match p.prog.wait with
  | some { why := .latch x _, .. } => some x
  | _ => none

/-- SNAPT. -/
def execSnapt (o : Opnd) (s : State) : Host.Outcome State Fault Refusal :=
  perform (.snapt o) (do
    let p ← getP
    let who ← getWho
    if p.priv = 0 && !(← getCtx).snapok then throw (privTrap (.snapt o))
    match p.raised with
    | some x => setP ((p.writeG o.d.toNat (BitVec.ofNat 64 x)).next o)
    | none =>
      closeRegion
      let a := p.readG o.a.toNat
      let (seq, refused) ← whistle (a.setWidth 32) (a.getLsbD 32) 0 (packId who.core who.slot p.width)
      modP fun p => { p with prog := { p.prog with begun := some (.snapt o) } }
      keep
      blockM (.latch (seq + if refused then 2 ^ 63 else 0) (dieOf who.core))) s

end Sys2Proof.Machine
end

