-- ==== Sys2Proof/Machine/Guards.lean ====
section
/-! DEFINITION. Guards and bindings, fences, the allotment, hints and granule ranges (spec/08_memory_model.md R196-R201;
spec/09_memory_instructions.md R214-R222). -/

namespace Sys2Proof.Machine

/-! ### Guards (R197, R199, R215) -/

/-- A guard object. -/
structure GuardObj where
  shared : Nat
  excl : Bool
  owner : Nat
  epoch : Nat
  rest1 : Nat
  rest2 : Nat
deriving DecidableEq, Repr

/-- The object of 16 bytes; its reserved fields are kept. -/
def parseGuard (x : Nat) : GuardObj :=
  { shared := bits x 31 0, excl := bit x 32, owner := bits x 63 48, epoch := bits x 95 64, rest1 := bits x 47 33
    rest2 := bits x 127 96 }

/-- The 16 bytes of an object. -/
def GuardObj.bytes (g : GuardObj) : List Byte :=
  leBytes 16 (g.shared % 2 ^ 32 + (if g.excl then 2 ^ 32 else 0) + g.rest1 * 2 ^ 33 + g.owner * 2 ^ 48 +
    g.epoch % 2 ^ 32 * 2 ^ 64 + g.rest2 * 2 ^ 96)

/-- The object after a grant (R215). -/
def GuardObj.grant (g : GuardObj) (excl : Bool) (lpid : Nat) : GuardObj :=
  if excl then { g with excl := true, owner := lpid } else { g with shared := g.shared + 1 }

/-- The object after a release (R215). -/
def GuardObj.release (g : GuardObj) (excl : Bool) : GuardObj :=
  let g' := if excl then { g with excl := false, owner := 0 } else { g with shared := g.shared + 2 ^ 32 - 1 }
  { g' with epoch := g.epoch + 1 }

/-- May a request be granted (R199)? -/
def GuardObj.free (g : GuardObj) (excl : Bool) : Bool := !g.excl && (!excl || g.shared == 0)

/-- The displacement of ACQ, REL and FEMK: IMM16 units of 16 bytes. -/
def disp16 (o : Opnd) : Word := o.immW * 16

/-- The guard that ACQ or REL names: whether it is virtual, its address, its location (R215). -/
def guardAt (o : Opnd) : M (Bool × Nat × Nat) := do
  let p ← getP
  scalarAccess .rmw o.a.toNat (p.readG o.b.toNat + disp16 o) 16

/-- Does a pack hold the guard at an address? DEDUCED: LOG 33. -/
def Pack.holds (p : Pack) (va : Nat) : Option HeldGuard := p.held.find? (fun h => h.addr.toNat == va)

/-- The guard that ACQ or REL names, with the check of R177. -/
def guardChecked (o : Opnd) : M (Nat × Nat) := do
  let (virt, va, k) ← guardAt o
  checkHa virt va false
  return (va, k)

/-- ACQ (R215): the request is queued at the guard's home; the grant completes it. -/
def execAcq (o : Opnd) (s : State) : Host.Outcome State Fault Refusal :=
  perform (.acq o) (do
    let (va, k) ← guardChecked o
    let p ← getP
    let who ← getWho
    if (p.holds va).isSome || p.held.length ≥ 8 then trapM 0x0A (BitVec.ofNat 64 va)
    closeRegion
    let r : GuardReq := { core := who.core, slot := who.slot, uid := who.uid, excl := o.f == 0, addr := BitVec.ofNat 64 va }
    modS fun s =>
      let q := Table.getD s.guardQ k []
      if q.any (fun x => x.uid == who.uid) then s else { s with guardQ := Table.set s.guardQ k (q ++ [r]) }
    keep
    blockM (.guard k)) s

/-- Release a guard at its location (R201, R215). -/
def releaseGuard (h : HeldGuard) : M Unit := do
  let g := parseGuard (leNat (← loadRmw false h.loc 16))
  storeVirtual (h.loc < 2 ^ 52) h.addr.toNat h.loc (g.release h.excl).bytes

/-- REL (R215). -/
def execRel (o : Opnd) (s : State) : Host.Outcome State Fault Refusal :=
  perform (.rel o) (do
    let (va, k) ← guardChecked o
    match (← getP).holds va with
    | none => trapM 0x0A (BitVec.ofNat 64 va)
    | some h =>
      closeRegion
      releaseGuard { h with loc := k }
      modP fun p => { p with held := p.held.filter (fun x => x.addr.toNat != va) }
    modP (·.next o)) s

/-- A pack ends: its guards are released in order of acquisition (R201). -/
def releaseAll : List HeldGuard → M Unit
  | [] => pure ()
  | h :: r => do releaseGuard h; releaseAll r

/-- The instruction at which the pack of a request waits for a guard; none where it does not. -/
def State.acquirer (s : State) (loc : Nat) (r : GuardReq) : Option (Pack × Instr) :=
  match s.pack? r.core r.slot with
  | some p =>
    match p.prog.wait with
    | some { why := .guard k, instr } => if p.id.uid = r.uid && k = loc then some (p, instr) else none
    | _ => none
  | none => none

/-- A pack that has been granted a guard: ACQ is complete. -/
def Pack.granted (p : Pack) (h : HeldGuard) (i : Instr) : Pack := { p with held := p.held ++ [h] }.next (opndOf i)

/-- The slot that stands for a peer device's packs among guard requests is none of this device's cores (R333). -/
def GuardReq.fromPeer (r : GuardReq) : Bool := Config.numCores ≤ r.core

/-- Grant the requests at the head of a guard's queue that may be granted: one exclusive request, or a run of shared ones. A peer's request
names its pack by `slot` (R333). -/
def grantFrom (loc : Nat) (first : Bool) : List GuardReq → M (List GuardReq)
  | [] => return []
  | r :: rest => do
    let g := parseGuard (leNat (← loadRmw false loc 16))
    if !g.free r.excl || (r.excl && !first) then return r :: rest
    if r.fromPeer then
      putKeys none loc (g.grant r.excl r.slot).bytes
      if r.excl then return rest else grantFrom loc false rest
    else
      match (← getS).acquirer loc r with
      | none => grantFrom loc first rest
      | some (p, i) =>
        asWho { ctx := p.id.ctx, core := r.core, slot := r.slot, uid := r.uid }
          (storeVirtual (loc < 2 ^ 52) r.addr.toNat loc (g.grant r.excl p.id.lpid.toNat).bytes)
        modSlot r.core r.slot (·.granted { addr := r.addr, loc, excl := r.excl } i)
        if r.excl then return rest else grantFrom loc false rest

/-- GUARD_GRANT (R199). -/
def execGuardGrant (loc : Nat) (s : State) : Host.Outcome State Fault Refusal :=
  event s (do
    let q := Table.getD (← getS).guardQ loc []
    let q' ← grantFrom loc true q
    if q'.length = q.length then notNow
    modS fun s => { s with guardQ := if q'.isEmpty then Table.del s.guardQ loc else Table.set s.guardQ loc q' })

/-! ### Bindings (R198, R216) -/

/-- Swizzle, as a binding's record gives it (R180). -/
def Binding.swizzle (x : Binding) (a : Nat) : Nat := if x.swb = 0 then a else a ^^^ (a / 2 ^ x.sws % 2 ^ x.swb * 2 ^ x.swl)

/-- Does a binding cover an address: it is the swizzle, its own inverse, of an offset of the region (R198)? -/
def Binding.covers (x : Binding) (a : Nat) : Bool :=
  let i := x.swizzle ((a + 2 ^ 57 - x.base) % 2 ^ 57)
  x.start ≤ i && i < x.start + x.len

/-- Do two bindings join the same set of addresses to the same guard (R198, R216)? -/
def Binding.same (x y : Binding) : Bool :=
  x == y ||
    (x.space == y.space && x.len == y.len && x.guard == y.guard && !(x.swb == 0 && y.swb == 0) &&
      (List.range x.len).all fun i => y.covers ((x.base + x.swizzle (x.start + i)) % 2 ^ 57))

/-- The binding that BIND or UNBIND names, after the checks. BIND.all takes the extent as it is, a multiple of 128 or not (DESIGN CHOICE,
LOG 43). -/
def bindingOf (o : Opnd) (all : Bool) : M Binding := do
  let p ← getP
  let h ← readHandle o.a.toNat none
  let b := (p.opB o).toNat
  let start := if all then 0 else b % 2 ^ 32 * 128
  let len := if all then h.extent else b / 2 ^ 32 * 128
  if len = 0 || start + len > h.extent then trapM 0x05 (BitVec.ofNat 64 start)
  let (_, va, _) ← scalarAccess .rmw 0 (p.readG o.d.toNat) 16
  let flat := h.swb = 0
  return { base := if flat then (h.base + start) % 2 ^ 57 else h.base, start := if flat then 0 else start, len
           swb := h.swb, swl := h.swl, sws := h.sws, space := h.space, guard := BitVec.ofNat 64 va }

/-- BIND (R216). -/
def execBind (o : Opnd) (s : State) : Host.Outcome State Fault Refusal :=
  perform (.bind o) (do
    let x ← bindingOf o (o.f == 1)
    let c ← getCtx
    if !c.bindings.any x.same && c.bindings.length ≥ 256 then trapM 0x0A x.guard
    closeRegion
    if !c.bindings.any x.same then modCtx fun c => { c with bindings := c.bindings ++ [x] }
    modP (·.next o)) s

/-- UNBIND (R216). -/
def execUnbind (o : Opnd) (s : State) : Host.Outcome State Fault Refusal :=
  perform (.unbind o) (do
    let x ← bindingOf o false
    closeRegion
    modCtx fun c => { c with bindings := c.bindings.filter (!x.same ·) }
    modP (·.next o)) s

/-! ### Fences and hints (R217, R221) -/

/-- FENCE (R217): every earlier access of the pack has been performed already (DESIGN CHOICE, LOG 2), and its store hash takes the steps of
its retired stores. -/
def execFence (o : Opnd) (s : State) : Host.Outcome State Fault Refusal := onPack s (·.hashed.next o)

/-- The translation that PREF.tlb brings, if it finds one: from a TLB, or from the tables where they are walked by the hardware. Whatever
fails in it fails for nothing. -/
def prefEntry (o : Opnd) : M (Option TlbEntry) := do
  let p ← getP
  let who ← getWho
  let a := (p.readG o.b.toNat + o.immW * 128).toNat
  if who.phys then return none
  else tryM (asWho { who with direct := true } (do
    let h ← readHandle o.a.toNat none
    if h.space || !h.inBounds a 1 then notNow
    match lookup (← get) (h.addr a) with
    | .entry e => return e
    | _ => notNow))

/-- PREF (R221): a hint; PREF.tlb brings a translation that the tables give into the core's TLB. -/
def execPref (o : Opnd) (s : State) : Host.Outcome State Fault Refusal :=
  perform (.pref o) (do
    if o.f = 1 then
      match ← prefEntry o with
      | some e => installCore (← getWho).core e
      | none => pure ()
    modP (·.next o)) s

/-! ### The allotment (R218, R219) -/

/-- The count that GROW or SHRINK asks for: signed, rounded up to a multiple of 8. -/
def askedCount (p : Pack) (o : Opnd) (shrink : Bool) : Int :=
  let b := p.opB o
  let n := BitVec.ofNat 64 p.allot
  let x := if o.f = 0 then b else if shrink then n - b else n + b
  (x.toInt + 7) / 8 * 8

/-- GROW (R219): a request above the allotment closes the region and waits for GROW_GRANT, which completes it (R324). -/
def execGrow (o : Opnd) (s : State) : Host.Outcome State Fault Refusal :=
  perform (.grow o) (do
    let p ← getP
    let who ← getWho
    let c := askedCount p o false
    if c > Int.ofNat p.allot && (c > 256 || Int.ofNat p.width * c > Int.ofNat ((← getS).capacity who.core who.ctx)) then
      trapM 0x0D (BitVec.ofInt 64 c)
    closeRegion
    if c > Int.ofNat p.allot then
      modS fun s =>
        let x := s.core who.core
        if x.growing.any (fun e => e.1 == who.slot) then s
        else s.setCore who.core { x with growing := x.growing ++ [(who.slot, c.toNat)] }
      keep
      blockM (.grow c.toNat)
    modP (·.next o)) s

/-- The pack after a grant of `n` registers: the new ones read zero and are full. -/
def Pack.grown (p : Pack) (n : Nat) : Pack :=
  { p with allot := n, lanes := p.lanes.map fun ln => { ln with v := ln.v.take p.allot } }

/-- The instruction at which a pack waits in GROW. -/
def Pack.growsAt (p : Pack) : Option Instr :=
  match p.prog.wait with
  | some { why := .grow _, instr } => some instr
  | _ => none

/-- GROW_GRANT (R219): the oldest request of a core is granted when free registers cover it, and its GROW is complete. -/
def execGrowGrant (core slot : Nat) (s : State) : Host.Outcome State Fault Refusal :=
  event s (do
    let s ← getS
    let x := s.core core
    match x.growing.find? (fun e => e.1 == slot), s.pack? core slot with
    | some (_, n), some p =>
      let older := x.growing.any fun e => ((s.pack? core e.1).getD p).id.age < p.id.age
      match p.growsAt with
      | none => notNow
      | some i =>
        if older || s.usedRegs core + p.width * (n - p.allot) > s.capacity core p.id.ctx then notNow
        setS (s.setCore core { x with growing := x.growing.filter (fun e => e.1 != slot) })
        modSlot core slot fun p => (p.grown n).next (opndOf i)
    | _, _ => notNow)

/-- A value on its way without the registers at and above `n`. -/
def Fill.cut (f : Fill) (n : Nat) : Option Fill :=
  if f.reg ≥ n then none else some { f with vals := f.vals.take (n - f.reg) }

/-- The pack after SHRINK to `n` registers. -/
def Pack.shrunk (p : Pack) (n : Nat) : Pack :=
  { p with allot := n, fills := p.fills.filterMap (·.cut n), lanes := p.lanes.map fun ln => { ln with v := ln.v.take n } }

/-- A Scent operation of a pack whose vector destination is given up leaves nothing there (R219). -/
def ScOp.cut (q : ScOp) (uid n : Nat) : ScOp := if q.head.uid = uid && n ≤ q.vd then { q with dead := true } else q

/-- SHRINK (R219). -/
def execShrink (o : Opnd) (s : State) : Host.Outcome State Fault Refusal :=
  perform (.shrink o) (do
    closeRegion
    let p ← getP
    let c := askedCount p o true
    let n := if c < 8 then 8 else c.toNat
    if n < p.allot then
      setP (p.shrunk n)
      modS fun s => { s with dies := s.dies.map fun d => (d.1, { d.2 with scq := d.2.scq.map (·.cut p.id.uid n) }) }
    modP (·.next o)) s

/-! ### Granule ranges (R222) -/

/-- FEMK (R222). -/
def execFemk (o : Opnd) (s : State) : Host.Outcome State Fault Refusal :=
  perform (.femk o) (do
    let p ← getP
    let start := p.readG o.a.toNat + disp16 o
    let n := (p.opB o).toNat
    if n ≠ 0 then
      match scratchAt (← getS) (← getWho) start.toNat n with
      | none => trapM 0x05 start
      | some k =>
        if start.toNat % 16 ≠ 0 || n % 16 ≠ 0 then trapM 0x06 start
        setGranules (granulesOf k n) (o.f == 1) true
    modP (·.next o)) s

end Sys2Proof.Machine
end

