-- ==== Sys2Proof/Machine/Submit.lean ====
section
/-! DEFINITION. The submission instructions (spec/12_scheduling.md R292, R293, R295, R296). -/

namespace Sys2Proof.Machine

/-- Read a record or table of `n` bytes, aligned to `n`, at an address through h0 (R292): its address, its key and its value. -/
def readBlock (a : Word) (n : Nat) : M (Nat × Nat × Nat) := do
  let (_, va, k) ← scalarAccess .rd 0 a n
  let x ← loadKeys k n
  consumeScalar k n va
  return (va, k, leNat x)

/-- The bank and the issuer's context of a submission by the pack (R283, R277). -/
def submitter : M (Nat × Option Nat) := do
  let p ← getP
  return if p.priv = 0 then (1, some p.id.ctx) else (3, none)

/-- LAUNCH (R293). -/
def execLaunch (o : Opnd) (s : State) : Host.Outcome State Fault Refusal :=
  perform (.launch o) (do
    let p ← getP
    let gang := o.f == 1
    let (_, _, r) ← readBlock (p.readG o.a.toNat) (if gang then 128 else 64)
    closeRegion
    let (bank, issuer) ← submitter
    let (code, _) ← accept
      { cluster := clusterOf (← getWho).core, bank, task := r % 2 ^ 512, issuer, second := if gang then some (r / 2 ^ 512) else none }
    modP fun p => (p.writeG o.d.toNat (BitVec.ofNat 64 code)).next o) s

/-- The items of ENQ, in lane order: work identifier and label (R293). -/
def enqList (o : Opnd) (p : Pack) (label : BitVec 32) : List (Word × BitVec 32) :=
  (p.partList o).map fun l =>
    (BitVec.ofNat 64 (bValue o (2 ^ o.x.wb.toNat) (p.lane l)),
     if o.f = 1 then BitVec.ofNat 32 ((p.lane l).readV o.vc 1) else label)

/-- ENQ (R293). -/
def execEnq (o : Opnd) (s : State) : Host.Outcome State Fault Refusal :=
  perform (.enq o) (do
    checkOperands (.enq o)
    let p ← getP
    if p.part o = 0 then
      closeRegion
      modP fun p => (p.writeG o.d.toNat 0).next o
    else
      let (_, _, r) ← withImage (some (p.part o)) (readBlock (p.readG o.a.toNat) 64)
      closeRegion
      let (bank, issuer) ← submitter
      let (code, _) ← accept
        { cluster := clusterOf (← getWho).core, bank, task := r, issuer, items := some (enqList o p (parseTask r).label) }
      modP fun p => (p.writeG o.d.toNat (BitVec.ofNat 64 code)).next o) s

/-- The nodes without predecessors among the first `n` of a table are due to be submitted (R295). -/
def dueRoots (d id : Nat) : Nat → M Unit
  | 0 => pure ()
  | n + 1 => do
    dueRoots d id n
    match instOf (← getS) d id with
    | some g =>
      if ← checkNode d g n then if (← loadResident g.ctx (d * 144) (nodeAt g.table n + 72) 2) = 0 then
        modInst d id fun g => some { g with pending := g.pending ++ [n] }
    | none => pure ()

/-- Is a graph descriptor's every reserved bit zero (R294)? -/
def graphOk (x : Nat) : Bool := bits x 511 185 == 0 && bits x 127 115 == 0

/-- Is the header of a node table valid: no reserved bit set, and 1 to 65,536 nodes (R294)? -/
def tableOk (t : Nat) : Bool := bits t 511 32 == 0 && 1 ≤ bits t 31 0 && bits t 31 0 ≤ 65536

/-- GRUN (R295): an instance starts and its root nodes are submitted. On a descriptor with a reserved bit set nothing starts and g[D] is a
free value; a node table with an invalid header gives its instance error 1 (R7; DESIGN CHOICE, LOG 45). The read of the node table's first 128 bytes,
which the descriptor names and no operand does, takes the traps of a load at the GRUN itself (R292 names the traps of its operands' loads; DESIGN
CHOICE, LOG 45). -/
def execGrun (o : Opnd) (s : State) : Host.Outcome State Fault Refusal :=
  perform (.grun o) (do
    let p ← getP
    let who ← getWho
    let desc := p.readG o.a.toNat
    let (va, k, x) ← readBlock desc 64
    if !graphOk x then
      closeRegion
      let v ← freeM
      modP fun p => (p.writeG o.d.toNat v).next o
    else
      if !graphFree (← getS) k then blockM (.graph k)
      let table := BitVec.ofNat 64 (bits x 63 0)
      let (_, _, t) ← readBlock table 128
      closeRegion
      let gen := bits x 111 96
      storeVirtual true va (k + 12) (leBytes 2 (gen + 1) ++ leBytes 1 (bits x 119 112 + 1))
      let id ← freshM
      let d := homeDie k
      modS fun s =>
        let y := s.die d
        s.setDie d { y with graphs := y.graphs ++ [{
          id, ctx := who.ctx, loc := k, desc, gen, table, argp := p.readG o.b.toNat, running := [], arrived := []
          err := if tableOk t then none else some (1, 0), doneAt := BitVec.ofNat 64 (bits x 184 128) }] }
      modP fun p => (p.writeG o.d.toNat (BitVec.ofNat 64 gen)).next o
      if tableOk t then dueRoots d id (bits t 31 0)
      drainInst d id drainFuel) s

/-- GCOMMIT (R296); on a descriptor with a reserved bit set nothing is published and g[D] is a free value (R7; DESIGN CHOICE, LOG 45). -/
def execGcommit (o : Opnd) (s : State) : Host.Outcome State Fault Refusal :=
  perform (.gcommit o) (do
    let p ← getP
    let table := p.readG o.b.toNat
    let (va, k, x) ← readBlock (p.readG o.a.toNat) 64
    let _ ← readBlock table 128
    closeRegion
    if !graphOk x then
      let v ← freeM
      modP fun p => (p.writeG o.d.toNat v).next o
    else
      let v := (bits x 95 64 + 1) % 2 ^ 32
      storeVirtual true va k (leBytes 8 table.toNat ++ leBytes 4 v)
      modP fun p => (p.writeG o.d.toNat (BitVec.ofNat 64 v)).next o) s

end Sys2Proof.Machine
end

