-- ==== Sys2Proof/Machine/EndOps.lean ====
section
/-! DEFINITION. END and FRELAB (spec/05_packs_and_flows.md R109, R113, R115; spec/06_lane_instructions.md R151, R155;
spec/08_memory_model.md R190; spec/12_scheduling.md R300). -/

namespace Sys2Proof.Machine

/-! ### The end of a pack -/

/-- An engine operation for which the walker has served a page (R190). -/
def OpHead.serve (h : OpHead) (core uid page : Nat) : OpHead :=
  if h.core = core && h.uid = uid && h.asked.contains page then
    { h with asked := removeNat h.asked page, served := h.served ++ [page] }
  else h

/-- A miss of a core has been served: what asked for it looks it up again, and takes the page-fault path where it misses again
(R190). -/
def serveMiss (core uid page : Nat) : M Unit :=
  modS fun s =>
    { s with
      packs := s.packs.map fun e =>
        if e.1.1 == core && e.2.id.uid == uid && e.2.waitPages.contains page then (e.1, e.2.served [page] fun _ => none) else e
      cores := s.cores.map fun c =>
        if c.1 = core then (c.1, { c.2 with mxq := c.2.mxq.map fun m => { m with head := m.head.serve core uid page } }) else c
      clusters := s.clusters.map fun k =>
        if k.1 = clusterOf core then
          (k.1, { k.2 with
            cpq := k.2.cpq.map fun m => { m with head := m.head.serve core uid page }
            gtq := k.2.gtq.map fun m => { m with head := m.head.serve core uid page } })
        else k
      dies := s.dies.map fun d => (d.1, { d.2 with scq := d.2.scq.map fun m => { m with head := m.head.serve core uid page } })
      colls := s.colls.map fun m => { m with head := m.head.serve core uid page } }

/-- A miss of a core has been served, whoever asked: a pack or its engine operation, the core's Heel, or a launch (R190). -/
def settleMiss (core : Nat) (m : Miss) : M Unit :=
  match m.launch with
  | some id => modS fun s =>
    if (Table.get? s.launches id).isSome then s.setLaunch id { s.launch id with served := (s.launch id).served ++ [m.page] } else s
  | none => do
    if m.uid = 0 then
      modS fun s => s.setCore core { s.core core with heelServed := (s.core core).heelServed ++ [(m.ctx, m.page)] }
    else serveMiss core m.uid m.page

/-- The walker has ended: its miss is served (R190). -/
def walkerDone (core page : Nat) (ctx : Nat) : M Unit := do
  let c := (← getS).core core
  match c.misses.find? (fun m => m.ctx == ctx && m.page == page) with
  | some m =>
    modS fun s => s.setCore core { c with misses := c.misses.erase m }
    settleMiss core m
  | none => pure ()

/-- The pack has no lane occupied any more: it issues nothing further, its guards are released, and its slot is freed as soon as
its counters allow (R155, R201). -/
def packEnds : M Unit := do
  let p ← getP
  let who ← getWho
  releaseAll p.held
  modP fun p => { p with status := .ended, held := [], prog := {} }
  modS fun s => s.clearYields who.core who.uid
  match p.id.walker with
  | some page => walkerDone who.core page p.id.ctx
  | none => pure ()
  tryFree who.core who.slot

/-- Lanes leave the pack: their bits in occupancy, mask and stack are cleared. -/
def Pack.dropLanes (p : Pack) (ls : Lanes) : Pack :=
  { p with occ := p.occ &&& ~~~ls, mask := p.mask &&& ~~~ls
           stack := p.stack.map fun e => { e with mask := e.mask &&& ~~~ls } }

/-- Lanes have left the pack: it goes on after the instruction, takes up stacked work, or ends (R113). -/
def afterLeaving (o : Opnd) (ls : Lanes) : M Unit := do
  modP fun p => ((p.dropLanes ls).next o).resumeIfEmpty
  if (← getP).occ = 0 then packEnds

/-! ### END (R155, R300) -/

/-- The store hash at the END that leaves no lane occupied: stored when recording, compared in replay (R300). -/
def endHash (img : Lanes) : M Unit := do
  let p ← getP
  let x ← getCtx
  let at_ := x.trlbase + 512 + BitVec.ofNat 64 (8 * p.id.lpid.toNat)
  if x.trail.mode = 1 then
    let (virt, va, k) ← withImage (some img) (scalarAccess .wr 0 at_ 8)
    storeVirtual virt va k (leBytes 8 p.sys.shash.toNat)
  else
    let (_, va, k) ← withImage (some img) (scalarAccess .rd 0 at_ 8)
    let h := leNat (← loadKeys k 8)
    consumeScalar k 8 va
    if h ≠ p.sys.shash.toNat then trapM 0x14 (BitVec.ofNat 64 h)

/-- END as a part of a meaning. -/
def endBody (o : Opnd) : M Unit := do
  let p ← getP
  let ls := p.part o
  if p.occ &&& ~~~ls = 0 then
    if ← recording then
      modP (·.hashed)
      keep
      endHash ls
    closeBatch
  closeRegion
  completeLanes (lanesOf ls p.width)
  afterLeaving o ls

/-- END. -/
def execEndItems (o : Opnd) (s : State) : Host.Outcome State Fault Refusal := perform (.endItems o) (endBody o) s

/-! ### FRELAB (R109, R151) -/

/-- Registers below the allotment to which a value is due, in lanes. -/
def Pack.dueRegs (p : Pack) (ls : List Nat) : List (Nat × Nat) :=
  ls.flatMap fun l => ((List.range p.allot).filter (p.mustSettle l)).map fun n => (l, n)

/-- One lane moves to its new flow, and its resume record is queued (R109). Its saved state stands in `State.resumes`, and no byte of it in the
context's spill region, whose layout for it the spec does not give; so do spilled stack entries (R110) in the pack's stack (DESIGN CHOICE,
LOG 12). -/
def relabelLane (o : Opnd) (l : Nat) (label : BitVec 32) : M Unit := do
  let p ← getP
  let who ← getWho
  let it := (p.lane l).item
  completeSlot p.id.ctx it
  let cls := classOf o.f
  match flowReason ((← getS).ctx p.id.ctx) label cls 0 with
  | some n => trapM 0x0B (flowTval n l label)
  | none => pure ()
  let arr ← joinFlow p.id.ctx label cls 1
  let id ← freshM
  let it' := { it with label, cls, arr, done := false }
  modS fun s =>
    let n := s.launch it.launch
    let known := (Table.get? s.launches it.launch).isSome
    let n' := { n with left := if it.done then n.left + 1 else n.left, unplaced := n.unplaced + 1 }
    let s' := if known then s.setLaunch it.launch n' else s
    let r : Resume :=
      { lane := { p.lane l with item := it' }, g := p.g, id := p.id, width := p.width, allot := p.allot
        pc := p.pc + BitVec.ofNat 64 o.len }
    { s' with resumes := Table.set s'.resumes id r }
  pushRecord (clusterOf who.core) 1 it.launch p.id.ctx ((← getS).launch it.launch).task.prio (.resume id) 0

/-- Relabel lanes in ascending order. -/
def relabelAll (o : Opnd) : List (Nat × BitVec 32) → M Unit
  | [] => pure ()
  | (l, label) :: r => do relabelLane o l label; relabelAll o r

/-- The room that relabelling needs in a flow: the most by which its lanes, in ascending order, have at any time joined it beyond those that have
left it (R99, R109). -/
def Pack.roomNeeded (p : Pack) (label : BitVec 32) (ls : List (Nat × BitVec 32)) : Nat :=
  (ls.foldl (fun (a : Int × Nat) e =>
    let it := (p.lane e.1).item
    let n := if !it.done && it.label == label then a.1 - 1 else a.1
    if e.2 == label then (n + 1, max a.2 (n + 1).toNat) else (n, a.2)) (0, 0)).2

/-- FRELAB as a part of a meaning. -/
def frelabBody (o : Opnd) : M Unit := do
  checkOperands (.frelab o)
  let p ← getP
  let s ← getS
  let ls := labels p o
  let due := p.dueRegs (ls.map (·.1))
  if due ≠ [] then blockM (.settled due)
  for label in (ls.map (·.2)).dedup do
    let n := p.roomNeeded label ls
    if !s.flowRoom p.id.ctx label n then
      blockM (.flowRoom label n (((s.ctx p.id.ctx).flow? label).bind fun f => if f.room n then none else some f.turn))
  let k := clusterOf (← getWho).core
  if s.bankFull k 1 p.id.ctx ls.length false && ls ≠ [] then blockM (.bank k 1 p.id.ctx ls.length false)
  if ls ≠ [] && p.occ &&& ~~~(p.part o) = 0 then closeBatch
  closeRegion
  relabelAll o ls
  let gone := p.part o
  if gone = 0 then modP (·.next o) else afterLeaving o gone

/-- FRELAB. -/
def execFrelab (o : Opnd) (s : State) : Host.Outcome State Fault Refusal := perform (.frelab o) (frelabBody o) s

end Sys2Proof.Machine
end

