-- ==== Sys2Proof/Machine/ScalarAlu.lean ====
section
/-! DEFINITION. The scalar integer instructions (spec/04_scalar_instructions.md R76-R80). Each reads g registers and the
literal, writes gD and advances PC; none traps. -/

namespace Sys2Proof.Machine

/-- Run a scalar instruction that writes f(a, b) to gD. -/
def scalarAB (o : Opnd) (f : Word → Word → Word) (s : State) : Host.Outcome State Fault Refusal :=
  onPack s fun p => (p.writeG o.d.toNat (f (p.readG o.a.toNat) (p.opB o))).next o

/-- Run a scalar instruction that writes f(a) to gD. -/
def scalarA (o : Opnd) (f : Word → Word) (s : State) : Host.Outcome State Fault Refusal :=
  onPack s fun p => (p.writeG o.d.toNat (f (p.readG o.a.toNat))).next o

/-- Run a scalar instruction that writes f(a, b, c) to gD. -/
def scalarABC (o : Opnd) (f : Word → Word → Word → Word) (s : State) : Host.Outcome State Fault Refusal :=
  onPack s fun p =>
    (p.writeG o.d.toNat (f (p.readG o.a.toNat) (p.opB o) (p.readG o.x.c.toNat))).next o

/-! ### Values -/

/-- The high half of the 128-bit product, signed for F = 1 (R76). -/
def mulHigh (signed : Bool) (a b : Word) : Word :=
  if signed then BitVec.ofInt 64 (a.toInt * b.toInt / 2 ^ 64) else BitVec.ofNat 64 (a.toNat * b.toNat / 2 ^ 64)
/-- The quotient (R49). -/
def divWord (signed : Bool) (a b : Word) : Word :=
  if signed then BitVec.ofInt 64 (divInt true a.toInt b.toInt) else BitVec.ofInt 64 (divInt false a.toNat b.toNat)
/-- The remainder (R49). -/
def remWord (signed : Bool) (a b : Word) : Word :=
  if signed then BitVec.ofInt 64 (remInt a.toInt b.toInt) else BitVec.ofInt 64 (remInt a.toNat b.toNat)
/-- The smaller, or the larger, of two registers (R76). -/
def pickWord (signed wantMax : Bool) (a b : Word) : Word :=
  let less := if signed then a.toInt < b.toInt else a.toNat < b.toNat
  if less == wantMax then b else a
/-- The shift count b[5:0] (R77). -/
def shiftCount (b : Word) : Nat := b.toNat % 64
/-- The number of leading zeros among the low `n` bits. -/
def leadingZeros (x : Nat) : Nat → Nat
  | 0 => 0
  | n + 1 => if x.testBit n then 0 else 1 + leadingZeros x n
/-- The number of trailing zeros, at most `n` bits from bit `i` up. -/
def trailingZeros (x : Nat) : Nat → Nat → Nat
  | 0, _ => 0
  | n + 1, i => if x.testBit i then 0 else 1 + trailingZeros x n (i + 1)
/-- The number of one bits among the low `n` bits. -/
def popCount (x : Nat) : Nat → Nat
  | 0 => 0
  | n + 1 => (if x.testBit n then 1 else 0) + popCount x n
/-- The low `n` bits in reverse order. -/
def bitReverse (x : Nat) : Nat → Nat
  | 0 => 0
  | n + 1 => (if x.testBit n then 1 else 0) + 2 * bitReverse x n
/-- The width that F names on SEXT and ZEXT (R78). -/
def extWidth (f : BitVec 4) : Nat := match f.toNat with | 0 => 8 | 1 => 16 | _ => 32
/-- Bit reversal of 64 bits (R78): bit i moves to bit 63 − i. -/
def brevWord (a : Word) : Word := BitVec.ofNat 64 (bitReverse a.toNat 64)
/-- The field length of a control value: ctl[12:6], at most `n` (R79, R128). -/
def fieldLen (n ctl : Nat) : Nat := Nat.min (ctl / 64 % 128) n
/-- The field that BFX extracts from `n` bits (R79, R128). -/
def bfxBits (n a ctl : Nat) : Nat := a % 2 ^ n / 2 ^ (ctl % 64) % 2 ^ fieldLen n ctl
/-- The mask of the field that a control value describes in `n` bits (R79, R128). -/
def bfiMask (n ctl : Nat) : Nat := (2 ^ fieldLen n ctl - 1) * 2 ^ (ctl % 64) % 2 ^ n
/-- The value with the field inserted (R79, R128). -/
def bfiBits (n a ctl c : Nat) : Nat :=
  (a % 2 ^ n ^^^ (a % 2 ^ n &&& bfiMask n ctl)) ||| (c * 2 ^ (ctl % 64) &&& bfiMask n ctl)

/-! ### Meanings -/

/-- ADD (R76). -/
def execAdd (o : Opnd) (s : State) : Host.Outcome State Fault Refusal := scalarAB o (fun a b => a + b) s
/-- SUB (R76). -/
def execSub (o : Opnd) (s : State) : Host.Outcome State Fault Refusal := scalarAB o (fun a b => a - b) s
/-- MUL (R76). -/
def execMul (o : Opnd) (s : State) : Host.Outcome State Fault Refusal := scalarAB o (fun a b => a * b) s
/-- MULH (R76). -/
def execMulh (o : Opnd) (s : State) : Host.Outcome State Fault Refusal := scalarAB o (mulHigh (o.f == 1)) s
/-- DIV (R76, R49). -/
def execDiv (o : Opnd) (s : State) : Host.Outcome State Fault Refusal := scalarAB o (divWord (o.f == 1)) s
/-- REM (R76, R49). -/
def execRem (o : Opnd) (s : State) : Host.Outcome State Fault Refusal := scalarAB o (remWord (o.f == 1)) s
/-- MIN (R76). -/
def execMin (o : Opnd) (s : State) : Host.Outcome State Fault Refusal := scalarAB o (pickWord (o.f == 1) false) s
/-- MAX (R76). -/
def execMax (o : Opnd) (s : State) : Host.Outcome State Fault Refusal := scalarAB o (pickWord (o.f == 1) true) s
/-- AND (R77). -/
def execAnd (o : Opnd) (s : State) : Host.Outcome State Fault Refusal := scalarAB o (fun a b => a &&& b) s
/-- OR (R77). -/
def execOr (o : Opnd) (s : State) : Host.Outcome State Fault Refusal := scalarAB o (fun a b => a ||| b) s
/-- XOR (R77). -/
def execXor (o : Opnd) (s : State) : Host.Outcome State Fault Refusal := scalarAB o (fun a b => a ^^^ b) s
/-- ANDN (R77). -/
def execAndn (o : Opnd) (s : State) : Host.Outcome State Fault Refusal := scalarAB o (fun a b => a &&& ~~~b) s
/-- SHL (R77). -/
def execShl (o : Opnd) (s : State) : Host.Outcome State Fault Refusal := scalarAB o (fun a b => a <<< shiftCount b) s
/-- SHR (R77). -/
def execShr (o : Opnd) (s : State) : Host.Outcome State Fault Refusal := scalarAB o (fun a b => a >>> shiftCount b) s
/-- SAR (R77). -/
def execSar (o : Opnd) (s : State) : Host.Outcome State Fault Refusal :=
  scalarAB o (fun a b => a.sshiftRight (shiftCount b)) s
/-- ROL (R77). -/
def execRol (o : Opnd) (s : State) : Host.Outcome State Fault Refusal :=
  scalarAB o (fun a b => a.rotateLeft (shiftCount b)) s
/-- CLZ (R78). -/
def execClz (o : Opnd) (s : State) : Host.Outcome State Fault Refusal :=
  scalarA o (fun a => BitVec.ofNat 64 (leadingZeros a.toNat 64)) s
/-- CTZ (R78). -/
def execCtz (o : Opnd) (s : State) : Host.Outcome State Fault Refusal :=
  scalarA o (fun a => BitVec.ofNat 64 (trailingZeros a.toNat 64 0)) s
/-- POPC (R78). -/
def execPopc (o : Opnd) (s : State) : Host.Outcome State Fault Refusal :=
  scalarA o (fun a => BitVec.ofNat 64 (popCount a.toNat 64)) s
/-- BREV (R78). -/
def execBrev (o : Opnd) (s : State) : Host.Outcome State Fault Refusal := scalarA o brevWord s
/-- SEXT (R78). -/
def execSext (o : Opnd) (s : State) : Host.Outcome State Fault Refusal :=
  scalarA o (fun a => (a.setWidth (extWidth o.f)).signExtend 64) s
/-- ZEXT (R78). -/
def execZext (o : Opnd) (s : State) : Host.Outcome State Fault Refusal :=
  scalarA o (fun a => (a.setWidth (extWidth o.f)).setWidth 64) s
/-- BFX (R79). -/
def execBfx (o : Opnd) (s : State) : Host.Outcome State Fault Refusal :=
  scalarAB o (fun a b => BitVec.ofNat 64 (bfxBits 64 a.toNat b.toNat)) s
/-- BFI (R79). -/
def execBfi (o : Opnd) (s : State) : Host.Outcome State Fault Refusal :=
  scalarABC o (fun a b c => BitVec.ofNat 64 (bfiBits 64 a.toNat b.toNat c.toNat)) s
/-- SETC (R80). -/
def execSetc (o : Opnd) (s : State) : Host.Outcome State Fault Refusal :=
  scalarAB o (fun a b => if wordCond o.f a b then 1 else 0) s
/-- SEL (R80). -/
def execSel (o : Opnd) (s : State) : Host.Outcome State Fault Refusal :=
  scalarABC o (fun a b c => if c ≠ 0 then a else b) s
/-- LEA (R80). -/
def execLea (o : Opnd) (s : State) : Host.Outcome State Fault Refusal := scalarAB o (fun a b => a + b <<< o.f.toNat) s
/-- MOV (R80). -/
def execMov (o : Opnd) (s : State) : Host.Outcome State Fault Refusal := scalarAB o (fun _ b => b) s

end Sys2Proof.Machine
end

