-- ==== Sys2Proof/Machine/LaneInt.lean ====
section
/-! DEFINITION. Integer lane instructions (spec/06_lane_instructions.md R127-R131). Each effect is a function of the pack
(`<mnemonic>Lanes`), so that an ISSV can apply it to a group of lanes; the meaning adds the operand checks and the advance
of PC. -/

namespace Sys2Proof.Machine

/-- Element by element over two sources of an integer type (R124, R127). -/
def intLanes2 (o : Opnd) (f : Nat → Nat → Nat) (p : Pack) : Pack :=
  p.onLanes (p.part o) fun _ ln => mapElems2 (typeBits o.f) (dCount o.f o) o f ln

/-- Element by element over one source of an integer type. -/
def intLanes1 (o : Opnd) (f : Nat → Nat) (p : Pack) : Pack :=
  p.onLanes (p.part o) fun _ ln => mapElems1 (typeBits o.f) (dCount o.f o) o f ln

/-- Element by element over three sources of an integer type. -/
def intLanes3 (o : Opnd) (f : Nat → Nat → Nat → Nat) (p : Pack) : Pack :=
  p.onLanes (p.part o) fun _ ln => mapElems3 (typeBits o.f) (dCount o.f o) o f ln

/-- An exact integer function of two elements, wrapped or saturated once (R124). -/
def exact2 (o : Opnd) (f : Int → Int → Int) (a b : Nat) : Nat := intBits o.f o.x.sat (f (intVal o.f a) (intVal o.f b))

/-- The count of a lane shift: b[log₂n−1:0] (R127). -/
def laneShift (o : Opnd) (b : Nat) : Nat := b % typeBits o.f

/-- Complement within n bits. -/
def notBits (n a : Nat) : Nat := 2 ^ n - 1 - a % 2 ^ n

/-- The effect of VADD (R127). -/
def vaddLanes (o : Opnd) : Pack → Pack := intLanes2 o (exact2 o (· + ·))
/-- VADD (R127). -/
def execVadd (o : Opnd) (s : State) : Host.Outcome State Fault Refusal :=
  laneOp (.vadd o) (fun p => (vaddLanes o p).next o) s

/-- The effect of VSUB (R127). -/
def vsubLanes (o : Opnd) : Pack → Pack := intLanes2 o (exact2 o (· - ·))
/-- VSUB (R127). -/
def execVsub (o : Opnd) (s : State) : Host.Outcome State Fault Refusal :=
  laneOp (.vsub o) (fun p => (vsubLanes o p).next o) s

/-- The effect of VMUL (R127). -/
def vmulLanes (o : Opnd) : Pack → Pack := intLanes2 o (exact2 o (· * ·))
/-- VMUL (R127). -/
def execVmul (o : Opnd) (s : State) : Host.Outcome State Fault Refusal :=
  laneOp (.vmul o) (fun p => (vmulLanes o p).next o) s

/-- The effect of VMULH (R127). -/
def vmulhLanes (o : Opnd) : Pack → Pack := intLanes2 o fun a b => wrapBits (typeBits o.f) (intVal o.f a * intVal o.f b / 2 ^ typeBits o.f)
/-- VMULH (R127). -/
def execVmulh (o : Opnd) (s : State) : Host.Outcome State Fault Refusal :=
  laneOp (.vmulh o) (fun p => (vmulhLanes o p).next o) s

/-- The effect of VMAD (R127). -/
def vmadLanes (o : Opnd) : Pack → Pack := intLanes3 o fun a b c => intBits o.f o.x.sat (intVal o.f a * intVal o.f b + intVal o.f c)
/-- VMAD (R127). -/
def execVmad (o : Opnd) (s : State) : Host.Outcome State Fault Refusal :=
  laneOp (.vmad o) (fun p => (vmadLanes o p).next o) s

/-- The effect of VMIN (R127). -/
def vminLanes (o : Opnd) : Pack → Pack := intLanes2 o fun a b => if intVal o.f b < intVal o.f a then b else a
/-- VMIN (R127). -/
def execVmin (o : Opnd) (s : State) : Host.Outcome State Fault Refusal :=
  laneOp (.vmin o) (fun p => (vminLanes o p).next o) s

/-- The effect of VMAX (R127). -/
def vmaxLanes (o : Opnd) : Pack → Pack := intLanes2 o fun a b => if intVal o.f a < intVal o.f b then b else a
/-- VMAX (R127). -/
def execVmax (o : Opnd) (s : State) : Host.Outcome State Fault Refusal :=
  laneOp (.vmax o) (fun p => (vmaxLanes o p).next o) s

/-- The effect of VABS (R127). -/
def vabsLanes (o : Opnd) : Pack → Pack := intLanes1 o fun a => wrapBits (typeBits o.f) (intVal o.f a).natAbs
/-- VABS (R127). -/
def execVabs (o : Opnd) (s : State) : Host.Outcome State Fault Refusal :=
  laneOp (.vabs o) (fun p => (vabsLanes o p).next o) s

/-- The effect of VNEG (R127). -/
def vnegLanes (o : Opnd) : Pack → Pack := intLanes1 o fun a => wrapBits (typeBits o.f) (-(intVal o.f a))
/-- VNEG (R127). -/
def execVneg (o : Opnd) (s : State) : Host.Outcome State Fault Refusal :=
  laneOp (.vneg o) (fun p => (vnegLanes o p).next o) s

/-- The effect of VAND (R127). -/
def vandLanes (o : Opnd) : Pack → Pack := intLanes2 o (· &&& ·)
/-- VAND (R127). -/
def execVand (o : Opnd) (s : State) : Host.Outcome State Fault Refusal :=
  laneOp (.vand o) (fun p => (vandLanes o p).next o) s

/-- The effect of VOR (R127). -/
def vorLanes (o : Opnd) : Pack → Pack := intLanes2 o (· ||| ·)
/-- VOR (R127). -/
def execVor (o : Opnd) (s : State) : Host.Outcome State Fault Refusal :=
  laneOp (.vor o) (fun p => (vorLanes o p).next o) s

/-- The effect of VXOR (R127). -/
def vxorLanes (o : Opnd) : Pack → Pack := intLanes2 o (· ^^^ ·)
/-- VXOR (R127). -/
def execVxor (o : Opnd) (s : State) : Host.Outcome State Fault Refusal :=
  laneOp (.vxor o) (fun p => (vxorLanes o p).next o) s

/-- The effect of VNOT (R127). -/
def vnotLanes (o : Opnd) : Pack → Pack := intLanes1 o (notBits (typeBits o.f))
/-- VNOT (R127). -/
def execVnot (o : Opnd) (s : State) : Host.Outcome State Fault Refusal :=
  laneOp (.vnot o) (fun p => (vnotLanes o p).next o) s

/-- The effect of VSHL (R127). -/
def vshlLanes (o : Opnd) : Pack → Pack := intLanes2 o fun a b => intBits o.f o.x.sat (intVal o.f a * 2 ^ laneShift o b)
/-- VSHL (R127). -/
def execVshl (o : Opnd) (s : State) : Host.Outcome State Fault Refusal :=
  laneOp (.vshl o) (fun p => (vshlLanes o p).next o) s

/-- The effect of VSHR (R127). -/
def vshrLanes (o : Opnd) : Pack → Pack := intLanes2 o fun a b => a / 2 ^ laneShift o b
/-- VSHR (R127). -/
def execVshr (o : Opnd) (s : State) : Host.Outcome State Fault Refusal :=
  laneOp (.vshr o) (fun p => (vshrLanes o p).next o) s

/-- The effect of VSAR (R127). -/
def vsarLanes (o : Opnd) : Pack → Pack := intLanes2 o fun a b => wrapBits (typeBits o.f) ((BitVec.ofNat (typeBits o.f) a).toInt / 2 ^ laneShift o b)
/-- VSAR (R127). -/
def execVsar (o : Opnd) (s : State) : Host.Outcome State Fault Refusal :=
  laneOp (.vsar o) (fun p => (vsarLanes o p).next o) s

/-- The effect of VCLZ (R127). -/
def vclzLanes (o : Opnd) : Pack → Pack := intLanes1 o fun a => leadingZeros a (typeBits o.f)
/-- VCLZ (R127). -/
def execVclz (o : Opnd) (s : State) : Host.Outcome State Fault Refusal :=
  laneOp (.vclz o) (fun p => (vclzLanes o p).next o) s

/-- The effect of VPOPC (R127). -/
def vpopcLanes (o : Opnd) : Pack → Pack := intLanes1 o fun a => popCount a (typeBits o.f)
/-- VPOPC (R127). -/
def execVpopc (o : Opnd) (s : State) : Host.Outcome State Fault Refusal :=
  laneOp (.vpopc o) (fun p => (vpopcLanes o p).next o) s

/-- The control value of VBFX and VBFI: the low 32 bits of element b (R128). -/
def fieldCtl (b : Nat) : Nat := b % 2 ^ 32

/-- The extracted field, sign-extended for i types (R128). -/
def vbfxElem (o : Opnd) (a b : Nat) : Nat :=
  let n := typeBits o.f
  let m := fieldLen n (fieldCtl b)
  let x := bfxBits n a (fieldCtl b)
  if isSignedType o.f && m ≠ 0 && x.testBit (m - 1) then x + 2 ^ n - 2 ^ m else x

/-- The effect of VBFX (R128). -/
def vbfxLanes (o : Opnd) : Pack → Pack := intLanes2 o (vbfxElem o)
/-- VBFX (R128). -/
def execVbfx (o : Opnd) (s : State) : Host.Outcome State Fault Refusal :=
  laneOp (.vbfx o) (fun p => (vbfxLanes o p).next o) s

/-- The effect of VBFI (R128). -/
def vbfiLanes (o : Opnd) : Pack → Pack := intLanes3 o fun a b c => bfiBits (typeBits o.f) a (fieldCtl b) c
/-- VBFI (R128). -/
def execVbfi (o : Opnd) (s : State) : Host.Outcome State Fault Refusal :=
  laneOp (.vbfi o) (fun p => (vbfiLanes o p).next o) s

/-- Does a condition hold for every element of A and B, for the type and the count of registers of A (R129, R134)? -/
def allElems (n c : Nat) (o : Opnd) (f : Nat → Nat → Bool) (ln : Lane) : Bool :=
  (List.range (32 * c / n)).all fun e => f (elem n (ln.readV o.va c) e) (elem n (bValue o c ln) e)

/-- The effect of VSETC (R129). -/
def vsetcLanes (o : Opnd) : Pack → Pack := fun p =>
  let t := o.ty2D 0
  p.onLanes (p.part o) fun _ ln =>
    ln.setPred o.d.toNat (allElems (typeBits t) ((vOne t).count o.x.wa) o (fun a b => intCond o.f.toNat (typeBits t) a b) ln)
/-- VSETC (R129). -/
def execVsetc (o : Opnd) (s : State) : Host.Outcome State Fault Refusal :=
  laneOp (.vsetc o) (fun p => (vsetcLanes o p).next o) s

/-- The effect of VSEL (R129). -/
def vselLanes (o : Opnd) : Pack → Pack := fun p =>
  let c := vAny.count o.x.wd
  p.onLanes (p.part o) fun _ ln =>
    ln.writeV o.vd c (if ln.pred o.rc then ln.readV o.va c else bValue o c ln)
/-- VSEL (R129). -/
def execVsel (o : Opnd) (s : State) : Host.Outcome State Fault Refusal :=
  laneOp (.vsel o) (fun p => (vselLanes o p).next o) s

/-- The effect of VSAT (R129). -/
def vsatLanes (o : Opnd) : Pack → Pack := fun p =>
  let k := elemCount o.f o.x.wd
  let ns := typeBits o.x.ty2
  p.onLanes (p.part o) fun _ ln =>
    let es := elems ns k (ln.readV o.va ((vType o.x.ty2).count o.x.wa))
    ln.writeV o.vd (dCount o.f o) (joinElems (typeBits o.f) (es.map fun a =>
      let v := intVal o.x.ty2 a
      wrapBits (typeBits o.f) (sat o.f (roundToInt o.rm (decide (v < 0)) v.natAbs (2 ^ (o.x.imm16.toNat % 64))))))
/-- VSAT (R129). -/
def execVsat (o : Opnd) (s : State) : Host.Outcome State Fault Refusal :=
  laneOp (.vsat o) (fun p => (vsatLanes o p).next o) s

/-- The effect of VMOV (R129). -/
def vmovLanes (o : Opnd) : Pack → Pack := fun p =>
  let c := vAny.count o.x.wd
  p.onLanes (p.part o) fun _ ln => ln.writeV o.vd c (bValue o c ln)
/-- VMOV (R129). -/
def execVmov (o : Opnd) (s : State) : Host.Outcome State Fault Refusal :=
  laneOp (.vmov o) (fun p => (vmovLanes o p).next o) s

/-- The register that VMOVX or VMOVXW names in a lane (R130), for a moved operand of `w` registers; negative values are
possible. -/
def movxIndex (o : Opnd) (w : Nat) (ln : Lane) : Int :=
  let idx := (ln.reg o.va).val.toNat % 256
  o.imm + (if o.f == 0 then idx else idx * w : Nat)

/-- Does the named register lie outside the allotment or off its multiple (R130)? -/
def movxBad (p : Pack) (w : Nat) (n : Int) : Bool := n < 0 || n + w > p.allot || n % w ≠ 0

/-- The bounds trap of the lowest lane that names no register (R130). -/
def movxTrap (o : Opnd) (w : Nat) (p : Pack) : List Nat → Option Stop
  | [] => none
  | l :: r =>
    let n := movxIndex o w (p.lane l)
    if movxBad p w n then
      some (.trap 0x05 (BitVec.ofNat 64 (2 ^ 63 + l * 2 ^ 16) ||| (BitVec.ofInt 16 n).setWidth 64) none none)
    else movxTrap o w p r

/-- The checks on the registers named at run time: bounds, then the rules of a source under A's empty action, or of a
destination (R130, R125). -/
def movxCheck (o : Opnd) (w : Nat) (write : Bool) : M Unit := do
  let p ← getP
  let ls := p.partList o
  match movxTrap o w p ls with
  | some e => throw e
  | none =>
    let named (l : Nat) : Src := { which := 0, base := (movxIndex o w (p.lane l)).toNat, count := w, trap := o.x.ea && !write }
    for l in ls do
      if write then
        match regCheck p [l] [] ((named l).regs) with
        | .stop (.block _) => blockM (.settled (ls.flatMap fun l => ((named l).regs.filter (p.mustSettle l)).map (fun n => (l, n))))
        | _ => pure ()
      else
        match regCheck p [l] [named l] [] with
        | .stop (.block _) =>
          blockM (.full (ls.flatMap fun l => emptyRegs p [l] [named l]))
        | .stop e => throw e
        | .damaged => repairM [l] [named l]
        | .go => pure ()

/-- The effect of VMOVX (R130). -/
def vmovxLanes (o : Opnd) (p : Pack) : Pack :=
  let w := vAny.count o.x.wd
  p.onLanes (p.part o) fun _ ln => ln.writeV o.vd w (ln.readV (movxIndex o w ln).toNat w)
/-- VMOVX with its checks, as a part of a meaning. -/
def vmovxBody (o : Opnd) : M Unit := do
  checkOperands (.vmovx o)
  movxCheck o (vAny.count o.x.wd) false
  modP (vmovxLanes o)
/-- VMOVX (R130). -/
def execVmovx (o : Opnd) (s : State) : Host.Outcome State Fault Refusal :=
  perform (.vmovx o) (do vmovxBody o; modP (·.next o)) s

/-- The effect of VMOVXW (R130). -/
def vmovxwLanes (o : Opnd) (p : Pack) : Pack :=
  let w := vAny.count o.x.wb
  p.onLanes (p.part o) fun _ ln => ln.writeV (movxIndex o w ln).toNat w (ln.readV o.vb w)
/-- VMOVXW with its checks, as a part of a meaning. -/
def vmovxwBody (o : Opnd) : M Unit := do
  checkOperands (.vmovxw o)
  movxCheck o (vAny.count o.x.wb) true
  modP (vmovxwLanes o)
/-- VMOVXW (R130). -/
def execVmovxw (o : Opnd) (s : State) : Host.Outcome State Fault Refusal :=
  perform (.vmovxw o) (do vmovxwBody o; modP (·.next o)) s

/-- A byte of VBYTP's result (R131). -/
def vbytpByte (a sel : Nat) : Nat :=
  let b := elem 8 a (sel % 4)
  if sel.testBit 7 then 0 else if sel.testBit 6 then (if b.testBit 7 then 0xFF else 0) else b

/-- The effect of VBYTP (R131). -/
def vbytpLanes (o : Opnd) : Pack → Pack := fun p =>
  p.onLanes (p.part o) fun _ ln =>
    let a := ln.readV o.va 1
    let b := bValue o 1 ln
    ln.writeV o.vd 1 (joinElems 8 ((elems 8 4 b).map (vbytpByte a)))
/-- VBYTP (R131). -/
def execVbytp (o : Opnd) (s : State) : Host.Outcome State Fault Refusal :=
  laneOp (.vbytp o) (fun p => (vbytpLanes o p).next o) s

end Sys2Proof.Machine
end

