-- ==== Sys2Proof/Machine/LaneFloat.lean ====
section
/-! DEFINITION. Floating lane instructions (spec/06_lane_instructions.md R132-R134): element by element as their scalar
counterparts. -/

namespace Sys2Proof.Machine

/-- Element by element over two sources of a floating type (R132). -/
def floatLanes2 (o : Opnd) (f : Fmt → Nat → Nat → Nat) (p : Pack) : Pack :=
  p.onLanes (p.part o) fun _ ln => mapElems2 (typeBits o.f) (dCount o.f o) o (f (fmtOf o.f)) ln

/-- Element by element over one source of a floating type (R132, R133). -/
def floatLanes1 (o : Opnd) (f : Fmt → Nat → Nat) (p : Pack) : Pack :=
  p.onLanes (p.part o) fun _ ln => mapElems1 (typeBits o.f) (dCount o.f o) o (f (fmtOf o.f)) ln

/-- The effect of VFADD (R132). -/
def vfaddLanes (o : Opnd) : Pack → Pack := floatLanes2 o fun f a b => f.add o.rm a b
/-- VFADD (R132). -/
def execVfadd (o : Opnd) (s : State) : Host.Outcome State Fault Refusal :=
  laneOp (.vfadd o) (fun p => (vfaddLanes o p).next o) s

/-- The effect of VFSUB (R132). -/
def vfsubLanes (o : Opnd) : Pack → Pack := floatLanes2 o fun f a b => f.sub o.rm a b
/-- VFSUB (R132). -/
def execVfsub (o : Opnd) (s : State) : Host.Outcome State Fault Refusal :=
  laneOp (.vfsub o) (fun p => (vfsubLanes o p).next o) s

/-- The effect of VFMUL (R132). -/
def vfmulLanes (o : Opnd) : Pack → Pack := floatLanes2 o fun f a b => f.mul o.rm a b
/-- VFMUL (R132). -/
def execVfmul (o : Opnd) (s : State) : Host.Outcome State Fault Refusal :=
  laneOp (.vfmul o) (fun p => (vfmulLanes o p).next o) s

/-- The effect of VFFMA (R132). -/
def vffmaLanes (o : Opnd) : Pack → Pack := fun p =>
  p.onLanes (p.part o) fun _ ln =>
    mapElems3 (typeBits o.f) (dCount o.f o) o (fun a b c => (fmtOf o.f).fma o.rm a b c) ln
/-- VFFMA (R132). -/
def execVffma (o : Opnd) (s : State) : Host.Outcome State Fault Refusal :=
  laneOp (.vffma o) (fun p => (vffmaLanes o p).next o) s

/-- The effect of VFMIN (R132, R56). -/
def vfminLanes (o : Opnd) : Pack → Pack := floatLanes2 o fun f a b => f.pick false a b
/-- VFMIN (R132, R56). -/
def execVfmin (o : Opnd) (s : State) : Host.Outcome State Fault Refusal :=
  laneOp (.vfmin o) (fun p => (vfminLanes o p).next o) s

/-- The effect of VFMAX (R132, R56). -/
def vfmaxLanes (o : Opnd) : Pack → Pack := floatLanes2 o fun f a b => f.pick true a b
/-- VFMAX (R132, R56). -/
def execVfmax (o : Opnd) (s : State) : Host.Outcome State Fault Refusal :=
  laneOp (.vfmax o) (fun p => (vfmaxLanes o p).next o) s

/-- The effect of VFSETC (R134). -/
def vfsetcLanes (o : Opnd) : Pack → Pack := fun p =>
  let t := o.ty2D 8
  p.onLanes (p.part o) fun _ ln =>
    ln.setPred o.d.toNat (allElems (typeBits t) ((vOne t).count o.x.wa) o (fun a b => floatCond o.f.toNat (fmtOf t) a b) ln)
/-- VFSETC (R134). -/
def execVfsetc (o : Opnd) (s : State) : Host.Outcome State Fault Refusal :=
  laneOp (.vfsetc o) (fun p => (vfsetcLanes o p).next o) s

/-- The effect of VFDIV (R132). -/
def vfdivLanes (o : Opnd) : Pack → Pack := floatLanes2 o fun f a b => f.div o.rm a b
/-- VFDIV (R132). -/
def execVfdiv (o : Opnd) (s : State) : Host.Outcome State Fault Refusal :=
  laneOp (.vfdiv o) (fun p => (vfdivLanes o p).next o) s

/-- The effect of VFSQRT (R132). -/
def vfsqrtLanes (o : Opnd) : Pack → Pack := floatLanes1 o fun f a => f.sqrt o.rm a
/-- VFSQRT (R132). -/
def execVfsqrt (o : Opnd) (s : State) : Host.Outcome State Fault Refusal :=
  laneOp (.vfsqrt o) (fun p => (vfsqrtLanes o p).next o) s

/-- The effect of VRCP (R133). -/
def vrcpLanes (o : Opnd) : Pack → Pack := floatLanes1 o fun f a => f.rcp o.rm a
/-- VRCP (R133). -/
def execVrcp (o : Opnd) (s : State) : Host.Outcome State Fault Refusal :=
  laneOp (.vrcp o) (fun p => (vrcpLanes o p).next o) s

/-- The effect of VRSQ (R133). -/
def vrsqLanes (o : Opnd) : Pack → Pack := floatLanes1 o fun f a => f.rsq o.rm a
/-- VRSQ (R133). -/
def execVrsq (o : Opnd) (s : State) : Host.Outcome State Fault Refusal :=
  laneOp (.vrsq o) (fun p => (vrsqLanes o p).next o) s

/-- The effect of VEXP2 (R133). -/
def vexp2Lanes (o : Opnd) : Pack → Pack := floatLanes1 o fun f a => f.special o.rm .exp2 a
/-- VEXP2 (R133). -/
def execVexp2 (o : Opnd) (s : State) : Host.Outcome State Fault Refusal :=
  laneOp (.vexp2 o) (fun p => (vexp2Lanes o p).next o) s

/-- The effect of VLOG2 (R133). -/
def vlog2Lanes (o : Opnd) : Pack → Pack := floatLanes1 o fun f a => f.special o.rm .log2 a
/-- VLOG2 (R133). -/
def execVlog2 (o : Opnd) (s : State) : Host.Outcome State Fault Refusal :=
  laneOp (.vlog2 o) (fun p => (vlog2Lanes o p).next o) s

/-- The effect of VSIN (R133). -/
def vsinLanes (o : Opnd) : Pack → Pack := floatLanes1 o fun f a => f.special o.rm .sin a
/-- VSIN (R133). -/
def execVsin (o : Opnd) (s : State) : Host.Outcome State Fault Refusal :=
  laneOp (.vsin o) (fun p => (vsinLanes o p).next o) s

/-- The effect of VCOS (R133). -/
def vcosLanes (o : Opnd) : Pack → Pack := floatLanes1 o fun f a => f.special o.rm .cos a
/-- VCOS (R133). -/
def execVcos (o : Opnd) (s : State) : Host.Outcome State Fault Refusal :=
  laneOp (.vcos o) (fun p => (vcosLanes o p).next o) s

/-- The effect of VTANH (R133). -/
def vtanhLanes (o : Opnd) : Pack → Pack := floatLanes1 o fun f a => f.special o.rm .tanh a
/-- VTANH (R133). -/
def execVtanh (o : Opnd) (s : State) : Host.Outcome State Fault Refusal :=
  laneOp (.vtanh o) (fun p => (vtanhLanes o p).next o) s

/-- The effect of VFCLASS (R134). -/
def vfclassLanes (o : Opnd) : Pack → Pack := floatLanes1 o fun f a => f.classOf a
/-- VFCLASS (R134). -/
def execVfclass (o : Opnd) (s : State) : Host.Outcome State Fault Refusal :=
  laneOp (.vfclass o) (fun p => (vfclassLanes o p).next o) s

end Sys2Proof.Machine
end

