-- ==== Sys2Proof/Machine/Mask.lean ====
section
/-! DEFINITION. Masks, predicates and identity (spec/06_lane_instructions.md R144-R148). -/

namespace Sys2Proof.Machine

/-- The effect of KMOV (R145); whether Resume() follows is decided after PC has advanced. -/
def kmovLanes (o : Opnd) (p : Pack) : Pack :=
  match o.f.toNat with
  | 0 => p.writeG o.d.toNat (BitVec.ofNat 64 (if o.a == 32 then summary (p.part o) else (maskWord (p.part o) o.a.toNat).toNat))
  | 1 =>
    if o.d == 32 then p
    else { p with mask := p.newMask o (setWord p.mask o.d.toNat ((p.opB o).setWidth 32)) }
  | _ => p.writeG o.d.toNat (BitVec.ofNat 64 (if o.a == 32 then summary p.occ else (maskWord p.occ o.a.toNat).toNat))
/-- KMOV (R145): a write that leaves the mask empty calls Resume(). -/
def execKmov (o : Opnd) (s : State) : Host.Outcome State Fault Refusal :=
  laneOp (.kmov o) (fun p =>
    let q := (kmovLanes o p).next o
    if o.f == 1 && o.d != 32 then q.resumeIfEmpty else q) s

/-- The effect of KOP (R146). -/
def kopLanes (o : Opnd) (p : Pack) : Pack :=
  let t := p.predLanes o.a.toNat
  { p with mask := p.newMask o (match o.f.toNat with
      | 0 => p.mask &&& t
      | 1 => p.mask &&& ~~~t
      | 2 => p.mask ||| (p.occ &&& t)
      | _ => p.occ) }
/-- KOP (R146): an empty result calls Resume(). -/
def execKop (o : Opnd) (s : State) : Host.Outcome State Fault Refusal :=
  laneOp (.kop o) (fun p => ((kopLanes o p).next o).resumeIfEmpty) s

/-- The effect of KPOP (R147). -/
def kpopLanes (o : Opnd) : Pack → Pack := fun p =>
  let ls := p.partList o
  let all1 : Word := 0xFFFFFFFFFFFFFFFF
  p.writeG o.d.toNat (match o.f.toNat with
    | 0 => BitVec.ofNat 64 ls.length
    | 1 => BitVec.ofNat 64 (laneCount p.occ p.width)
    | 2 => (ls.head?.map (BitVec.ofNat 64)).getD all1
    | _ => (ls.getLast?.map (BitVec.ofNat 64)).getD all1)
/-- KPOP (R147). -/
def execKpop (o : Opnd) (s : State) : Host.Outcome State Fault Refusal :=
  laneOp (.kpop o) (fun p => (kpopLanes o p).next o) s

/-- The effect of PMOV (R147). -/
def pmovLanes (o : Opnd) : Pack → Pack := fun p =>
  p.onLanes (p.part o) fun _ ln =>
    match o.f.toNat with
    | 0 => ln.setPred o.d.toNat (ln.pred o.a.toNat)
    | 1 => ln.setPred o.d.toNat (bValue o 1 ln != 0)
    | 2 => ln.writeV o.vd 1 (if ln.pred o.a.toNat then 1 else 0)
    | 3 => ln.writeV o.vd 1 ln.p.toNat
    | 4 => { ln with p := BitVec.ofNat 8 (bValue o 1 ln) }
    | _ => ln.setPred o.d.toNat (!ln.pred o.a.toNat)
/-- PMOV (R147). -/
def execPmov (o : Opnd) (s : State) : Host.Outcome State Fault Refusal :=
  laneOp (.pmov o) (fun p => (pmovLanes o p).next o) s

/-- The effect of POP (R147). -/
def popLanes (o : Opnd) : Pack → Pack := fun p =>
  p.onLanes (p.part o) fun _ ln =>
    let a := ln.pred o.a.toNat
    let b := ln.pred o.b.toNat
    ln.setPred o.d.toNat (match o.f.toNat with
      | 0 => a && b
      | 1 => a || b
      | 2 => a != b
      | 3 => a && !b
      | 4 => !a
      | 5 => true
      | _ => false)
/-- POP (R147). -/
def execPop (o : Opnd) (s : State) : Host.Outcome State Fault Refusal :=
  laneOp (.pop o) (fun p => (popLanes o p).next o) s

/-- Field `f` of a work identifier cut by the widths of its task record (R92); a field without a width reads as 0. -/
def widField (widths : List Nat) (f : Nat) (wid : Word) : Nat :=
  wid.toNat / 2 ^ (widths.take f).sum % 2 ^ widths.getD f 0

/-- What WID writes for a lane's item (R148). -/
def widValue (o : Opnd) (widths : Nat → List Nat) (it : Item) : Nat :=
  match o.f.toNat with
  | 6 => it.wid.toNat
  | 7 => it.label.toNat
  | 8 => it.arr % 2 ^ 32
  | 9 => (match it.cls with | .u => 0 | .o => 1 | .a => 2)
  | f => widField (widths it.launch) f it.wid

/-- The effect of WID (R148); `widths` gives the field widths of a launch. A single destination takes the low 32 bits. -/
def widLanes (o : Opnd) (widths : Nat → List Nat) (p : Pack) : Pack :=
  let c := vAny.count o.x.wd
  p.onLanes (p.part o) fun _ ln => ln.writeV o.vd c (widValue o widths ln.item)
/-- The field widths of each launch (R92). -/
def State.widths (s : State) (n : Nat) : List Nat := (s.launch n).task.widths
/-- WID (R148). -/
def execWid (o : Opnd) (s : State) : Host.Outcome State Fault Refusal :=
  laneOp (.wid o) (fun p => (widLanes o s.widths p).next o) s

/-- The effect of LANEID (R148). -/
def laneidLanes (o : Opnd) : Pack → Pack := fun p =>
  p.onLanes (p.part o) fun l ln =>
    ln.writeV o.vd 1 (match o.f.toNat with | 0 => l | 1 => l % 32 | 2 => l / 32 | _ => p.width)
/-- LANEID (R148). -/
def execLaneid (o : Opnd) (s : State) : Host.Outcome State Fault Refusal :=
  laneOp (.laneid o) (fun p => (laneidLanes o p).next o) s

end Sys2Proof.Machine
end

