-- ==== Sys2Proof/Machine/Issv.lean ====
section
/-! DEFINITION. Issue cycles, residue machine checks, and ISSV (spec/05_packs_and_flows.md R95;
spec/07_issue_register.md R156-R168; spec/13_faults_and_preemption.md R317, R318). -/

namespace Sys2Proof.Machine

/-! ### Issue cycles (R18, R95, R168) -/

/-- Nonzero words of a mask: the passes that they take (R95). -/
def passes (m : Lanes) : Nat := ((List.range 32).filter (fun j => maskWord m j ≠ 0)).length

/-- A core has used issue cycles. -/
def State.spend (s : State) (core n : Nat) : State :=
  let c := s.core core
  s.setCore core { c with cycle := c.cycle + n, issueCycles := c.issueCycles + n }

/-- The instruction of the pack owes issue cycles, which its core counts as they pass (R95, R168). -/
def owe (n : Nat) : M Unit := modP fun p => { p with owed := p.owed + n }

/-- Does a stop come of an instruction that has issued: a trap, a page fault or a restart, not a wait (R18, R168)? -/
def Stop.issues : Stop → Bool
  | .block _ | .miss _ _ => false
  | _ => true

/-! ### Residue machine checks (R317, R318) -/

/-- The machine check registers after a check at an address, in a word, a lane (none for a scalar datapath) and a datapath, at an
ISSV depth. OVER, once set, stays set until software clears it (R6, R318). -/
def PackSys.check (y : PackSys) (pc word : Word) (lane : Option Nat) (kind : BitVec 4) (depth : Nat) (inRegion : Bool) : PackSys :=
  if y.mcstat.getLsbD 0 then { y with mcstat := y.mcstat ||| 8 }
  else
    let restarts := inRegion && y.rgnretry.toNat < 2
    { y with
      mcpc := pc
      mcword := word
      mclane := BitVec.ofNat 64 (match lane with | some l => l % 1024 | none => 1024)
      mcstat := BitVec.ofNat 64 (kind.toNat * 4096 + depth * 1024 + y.rgnretry.toNat % 16 * 16 +
        (if inRegion then 4 else 0) + (if restarts then 2 else 0) + 1) ||| (y.mcstat &&& 8) }

/-- A residue mismatch stops the instruction: the check is recorded; inside a region the region restarts, outside the trap is taken
(R318). -/
def machineCheck (m : Mismatch) (word : Word) (depth : Nat) : M Unit := do
  modS fun s => { s with mismatches := s.mismatches.erase m }
  let p ← getP
  setP { p with sys := p.sys.check p.pc word m.lane m.kind depth p.inRegion }
  keep
  if p.inRegion then throw (.restart 0x20) else trapM 0x20 (← getP).sys.mcstat

/-- The residue mismatch that a pack's next instruction meets: one in a scalar datapath, or in one of the lanes. -/
def mismatchFor (s : State) (core slot : Nat) (hit : Option Nat → Bool) : Option Mismatch :=
  s.mismatches.find? fun m => m.core == core && m.slot == slot && hit m.lane

/-! ### Words a lane may hold (R158, R159) -/

/-- A lane word that only touches registers, predicates and masks. -/
def laneWord (i : Instr) (eff : Pack → Pack) : M Unit := do
  checkOperands i
  modP eff

/-- The effect of a lane word of its own entry on the lanes of the group, PC apart; an ISSV is run by `runGroups`. -/
def laneBody (i : Instr) : M Unit :=
  match i with
  | .vadd o => laneWord (.vadd o) (vaddLanes o)
  | .vsub o => laneWord (.vsub o) (vsubLanes o)
  | .vmul o => laneWord (.vmul o) (vmulLanes o)
  | .vmulh o => laneWord (.vmulh o) (vmulhLanes o)
  | .vmin o => laneWord (.vmin o) (vminLanes o)
  | .vmax o => laneWord (.vmax o) (vmaxLanes o)
  | .vabs o => laneWord (.vabs o) (vabsLanes o)
  | .vneg o => laneWord (.vneg o) (vnegLanes o)
  | .vand o => laneWord (.vand o) (vandLanes o)
  | .vor o => laneWord (.vor o) (vorLanes o)
  | .vxor o => laneWord (.vxor o) (vxorLanes o)
  | .vnot o => laneWord (.vnot o) (vnotLanes o)
  | .vshl o => laneWord (.vshl o) (vshlLanes o)
  | .vshr o => laneWord (.vshr o) (vshrLanes o)
  | .vsar o => laneWord (.vsar o) (vsarLanes o)
  | .vclz o => laneWord (.vclz o) (vclzLanes o)
  | .vpopc o => laneWord (.vpopc o) (vpopcLanes o)
  | .vbfx o => laneWord (.vbfx o) (vbfxLanes o)
  | .vsetc o => laneWord (.vsetc o) (vsetcLanes o)
  | .vmov o => laneWord (.vmov o) (vmovLanes o)
  | .vmovx o => vmovxBody o
  | .vmovxw o => vmovxwBody o
  | .vbytp o => laneWord (.vbytp o) (vbytpLanes o)
  | .vfadd o => laneWord (.vfadd o) (vfaddLanes o)
  | .vfsub o => laneWord (.vfsub o) (vfsubLanes o)
  | .vfmul o => laneWord (.vfmul o) (vfmulLanes o)
  | .vfmin o => laneWord (.vfmin o) (vfminLanes o)
  | .vfmax o => laneWord (.vfmax o) (vfmaxLanes o)
  | .vfsetc o => laneWord (.vfsetc o) (vfsetcLanes o)
  | .vfdiv o => laneWord (.vfdiv o) (vfdivLanes o)
  | .vfsqrt o => laneWord (.vfsqrt o) (vfsqrtLanes o)
  | .vrcp o => laneWord (.vrcp o) (vrcpLanes o)
  | .vrsq o => laneWord (.vrsq o) (vrsqLanes o)
  | .vexp2 o => laneWord (.vexp2 o) (vexp2Lanes o)
  | .vlog2 o => laneWord (.vlog2 o) (vlog2Lanes o)
  | .vsin o => laneWord (.vsin o) (vsinLanes o)
  | .vcos o => laneWord (.vcos o) (vcosLanes o)
  | .vtanh o => laneWord (.vtanh o) (vtanhLanes o)
  | .vfclass o => laneWord (.vfclass o) (vfclassLanes o)
  | .venc o => laneWord (.venc o) (vencLanes o)
  | .vdec o => laneWord (.vdec o) (vdecLanes o)
  | .vbpt o => laneWord (.vbpt o) (vbptLanes o)
  | .vperm o => laneWord (.vperm o) (vpermLanes o)
  | .vshfx o => laneWord (.vshfx o) (vshfxLanes o)
  | .vbcast o => laneWord (.vbcast o) (vbcastLanes o)
  | .vballot o => laneWord (.vballot o) (vballotLanes o)
  | .velect o => laneWord (.velect o) (velectLanes o)
  | .vrnd o => laneWord (.vrnd o) (vrndLanes o)
  | .kmov o => laneWord (.kmov o) (kmovLanes o)
  | .kpop o => laneWord (.kpop o) (kpopLanes o)
  | .pmov o => laneWord (.pmov o) (pmovLanes o)
  | .pop o => laneWord (.pop o) (popLanes o)
  | .wid o => do laneWord (.wid o) (widLanes o (← getS).widths)
  | .laneid o => laneWord (.laneid o) (laneidLanes o)
  | .vld o => vldBody o
  | .vst o => vstBody o
  | .vldx o => vldxBody o
  | .vstx o => vstxBody o
  | .lds o => ldsBody o
  | .sts o => stsBody o
  | _ => pure ()

/-- May a lane word carry an opcode (R158)? -/
def laneOpcode (i : Instr) (depth : Nat) : Bool :=
  match wordOf i with
  | some (op, o) =>
    ((0x40 ≤ op && op ≤ 0x87) && op != 0x81 && !(op == 0x80 && o.f == 1)) || (0xA0 ≤ op && op ≤ 0xA5) ||
      (op == 0x94 && depth == 1)
  | none => false

/-- The instruction of a legal lane word at a depth (R158). -/
def laneInstr (p : Pack) (w : Half) (depth : Nat) : Option Instr :=
  if lOf w ≠ 0 then none
  else
    match decodeWords w 0 0 with
    | .ok i =>
      match formOf i with
      | some fm => if laneOpcode i depth && allotOk fm (opndOf i) p.allot then some i else none
      | none => none
    | .error _ => none

/-! ### Groups (R157, R160-R162, R164, R165) -/

/-- An offending lane: its depth and its word. -/
structure Offender where
  lane : Nat
  depth : Nat
  word : Half
deriving DecidableEq, Repr

/-- What stands of the pack when a group stops: its own mask, and the lanes not finished. -/
def Pack.outside (p : Pack) (mask left : Lanes) : Pack := { p with mask, prog := { p.prog with left := some left } }

/-- A stop of a group as a stop of the ISSV (R165): a trap or a page fault carries the image of the unfinished lanes. -/
def groupStop (p : Pack) (g left : Lanes) : Stop → Stop × Lanes
  | .trap c v f _ => (.trap c v f (some left), left)
  | .pageFault va src kind img =>
    let rest := left &&& ~~~(g &&& ~~~(img.getD g))
    (.pageFault va src kind (some rest), rest)
  | .restart c => (if p.sys.rgnretry.toNat ≥ 2 then .trap 0x12 (BitVec.ofNat 64 c) none (some left) else .restart c, left)
  | e => (e, left)

/-- Carry out the word of a group under its mask; a group that traps or parks has issued too. -/
def runGroup (i : Instr) (w : Half) (g : Lanes) (depth : Nat) : M Unit := do
  let p0 ← getP
  let who ← getWho
  let left := p0.prog.left.getD 0
  tryCatch (do
    match mismatchFor (← getS) who.core who.slot (fun l => l.any (fun l => g.getLsbD l)) with
    | some m => machineCheck m (w.setWidth 64) depth
    | none => pure ()
    modP (·.outside g g)
    laneBody i
    modP (·.outside p0.mask (left &&& ~~~g))
    owe (passes g)
    keep)
    fun e => do
      modify kept
      let (e', rest) := groupStop p0 g left e
      modP (·.outside p0.mask rest)
      if e.issues then owe (passes g)
      keep
      throw e'

/-- The offending lanes that groups have found, and how many further groups may run before other parties' accesses (R160; LOG 2). -/
abbrev Found : Type := List Offender × Nat

/-- One more offending lane. -/
def Found.also (x : Offender) (f : Found) : Found := (x :: f.1, f.2)

/-- Run up to `b` groups at depth 2 (R161), of a list of lanes with their words. -/
def runInner : Nat → Nat → List (Nat × Half) → M Found
  | 0, b, _ => return ([], b)
  | _, b, [] => return ([], b)
  | n + 1, b, (l, w) :: r => do
    match laneInstr (← getP) w 2 with
    | none => return (← runInner n b r).also { lane := l, depth := 2, word := w }
    | some i =>
      if b = 0 then return ([], 0)
      runGroup i w (maskOf (l :: (r.filter (fun e => e.2 == w)).map (·.1))) 2
      runInner n (b - 1) (r.filter (fun e => e.2 != w))

/-- The words of lanes in a register. -/
def laneWords (p : Pack) (ls : List Nat) (reg : Nat) : List (Nat × Half) := ls.map fun l => (l, ((p.lane l).reg reg).val)

/-- Have the words of a group been read for its nested run (R161, R168)? -/
def Progress.nested (q : Progress) (g : Lanes) : Bool := g &&& ~~~q.read == 0

/-- Run a nested ISSV over a group (R161): its source blocks on empty. Its words are read once, whatever its groups come to (R168). -/
def runNested (i : Instr) (g : Lanes) (b : Nat) : M Found := do
  let p ← getP
  let ls := lanesOf g p.width
  let reg := (opndOf i).va
  let src : List Src := [{ which := 0, base := reg, count := 1, trap := false }]
  tryCatch (match regCheck p ls src [] with
    | .go => pure ()
    | .stop e => throw e
    | .damaged => repairM ls src)
    fun e => do
      modify kept
      if e.issues then
        owe (passes g)
        keep
      throw (groupStop p g (p.prog.left.getD 0) e).1
  if !p.prog.nested g then owe (passes g)
  modP fun p => { p with prog := { p.prog with inner := some g, read := p.prog.read ||| g } }
  keep
  let p ← getP
  let (off, b') ← runInner 1024 b (laneWords p ls reg)
  if (← getP).prog.left.getD 0 &&& g &&& ~~~(maskOf (off.map (·.lane))) = 0 then
    modP fun p => { p with prog := { p.prog with inner := none } }
  keep
  return (off, b')

/-- Run up to `b` groups, those of nested runs counted, at depth 1. -/
def runGroups : Nat → Nat → List (Nat × Half) → M Found
  | 0, b, _ => return ([], b)
  | _, b, [] => return ([], b)
  | n + 1, b, (l, w) :: r => do
    match laneInstr (← getP) w 1 with
    | none => return (← runGroups n b r).also { lane := l, depth := 1, word := w }
    | some i =>
      if b = 0 then return ([], 0)
      let g := maskOf (l :: (r.filter (fun e => e.2 == w)).map (·.1))
      let (off, b') ← (match i with
        | .issv _ => runNested i g b
        | _ => do
          runGroup i w g 1
          return ([], b - 1))
      let (off', b'') ← runGroups n b' (r.filter (fun e => e.2 != w))
      return (off ++ off', b'')

/-- TVAL of the illegal lane word trap (R162). -/
def Offender.tval (x : Offender) : Word := BitVec.ofNat 64 (x.depth * 2 ^ 42 + x.lane * 2 ^ 32 + x.word.toNat)

/-- The offender with the lowest lane. -/
def lowestOffender : List Offender → Option Offender
  | [] => none
  | x :: r =>
    match lowestOffender r with
    | some y => some (if y.lane < x.lane then y else x)
    | none => some x

/-- The lanes at which a nested run that was interrupted goes on, ahead of the other groups (R161). -/
def Pack.innerFirst (p : Pack) (ls : List Nat) : List Nat :=
  match p.prog.inner with
  | some g => ls.filter g.getLsbD ++ ls.filter (fun l => !g.getLsbD l)
  | none => ls

/-- The checks of an ISSV on its own source. One that goes on with unfinished lanes stops with their image, whatever it stops for (R165); of the
first reading the cycles are owed where it traps (R168). -/
def issvCheck (o : Opnd) : M Unit := do
  let p ← getP
  tryCatch (checkOperands (.issv o)) fun e => do
    modify kept
    match p.prog.left with
    | some left => throw (groupStop p left left e).1
    | none => do
      if e.issues then
        owe (max 1 (passes (p.part o)))
        keep
      throw e

/-- ISSV as a part of a meaning, but for PC (R157). The reading of the words stands whatever the groups come to (R168). A turn of the agenda
may let only some groups run, at either depth, before other parties' accesses, and before a pre-emption (R160, R166; LOG 2). -/
def issvBody (o : Opnd) : M Unit := do
  issvCheck o
  let p ← getP
  let who ← getWho
  let ls := p.partList o
  let first := p.prog.first
  if p.prog.left.isNone then owe (max 1 (passes (p.part o)))
  modP fun p => { p with prog := { p.prog with left := some (maskOf ls), first := none, begun := some (.issv o) } }
  keep
  let (off, _) ← runGroups 1024 ((first.map (max 1)).getD 4096) (laneWords p (p.innerFirst ls) o.va)
  if (← getP).prog.left.getD 0 &&& ~~~(maskOf (off.map (·.lane))) ≠ 0 then
    blockM (.between ((← getS).readyOthers who.core who.slot))
  match lowestOffender off with
  | some x => throw (.trap 0x09 x.tval none (some (maskOf (off.map (·.lane)))))
  | none => pure ()

/-- ISSV (R157). -/
def execIssv (o : Opnd) (s : State) : Host.Outcome State Fault Refusal :=
  perform (.issv o) (do issvBody o; modP (·.next o)) s

end Sys2Proof.Machine
end

