-- ==== Sys2Proof/Machine/Releases.lean ====
section
/-! DEFINITION. What ends a wait: BARW, LDS.fe, WAIT and the Leash; the delivery of values to registers; the Kennel's way out of a
core on which every pack waits in GROW; releases from the Heel (spec/05_packs_and_flows.md R105, R120;
spec/09_memory_instructions.md R206, R210, R220; spec/10_engines.md R225; spec/12_scheduling.md R298;
spec/13_faults_and_preemption.md R321, R326). -/

namespace Sys2Proof.Machine

/-! ### Issue of an instruction that has waited -/

/-- Is an instruction a lane instruction: does its encoding take the guard (R40, R95)? -/
def isLane (i : Instr) : Bool := ((formOf i).map (·.guarded)).getD false

/-- Issue cycles of an instruction under a mask; an ISSV counts its own (R95, R168). -/
def issueCost (i : Instr) (mask : Lanes) : Nat :=
  match i with
  | .issv _ => 0
  | _ => if isLane i then max 1 (passes mask) else 1

/-- A pack has issued: its core's cycles pass, with a free number of further ones (DESIGN CHOICE, LOG 6), its watchdog starts again, and it holds
no yielding pack back any more (R123, R154). -/
def State.account (s : State) (core slot uid cost : Nat) : State :=
  let s := s.spend core cost
  let c := s.core core
  let now := c.cycle + Config.stall s.free
  let s := { (s.setCore core { c with cycle := now }) with free := s.free + 1 }
  let d := dieOf core
  let s := s.setDie d { s.die d with dcycle := max (s.die d).dcycle now }
  let s := match s.pack? core slot with
    | some p => s.setPack core slot { p with lastIssue := now }
    | none => s
  s.clearYields core uid

/-- The issue cycles in a row of a pack while another is ready (R289). -/
def runCycles : Nat := 16

/-- Waits that follow the issue of their instruction: of YIELD, and of ACQ and GROW, which their grants complete. -/
def Wait.afterIssue : Wait → Bool
  | .yielded _ | .guard _ | .grow _ => true
  | _ => false

/-- Has a pack issued the instruction that it came to, rather than waited at it, or exchanged there, which is no issue (R120, R122)? -/
def State.issued (s : State) (core slot uid : Nat) : Bool :=
  match s.pack? core slot with
  | some q =>
    q.id.uid != uid || (!q.prog.exchanged && (match q.prog.wait with | none => true | some b => b.why.afterIssue))
  | none => true

/-- The issue cycles of an instruction of a pack pass: what it takes itself and what it owes (R95, R168), up to a limit while the pack goes on; the
rest it owes, and takes when the pack is chosen again (R289). -/
def State.charge (s : State) (core slot uid own : Nat) (limit : Option Nat) : State :=
  match s.pack? core slot with
  | some q =>
    if q.id.uid = uid then
      let due := own + q.owed
      let now := if q.status = .running then min due (limit.getD due) else due
      (s.setPack core slot { q with owed := due - now }).account core slot uid now
    else s.account core slot uid own
  | none => s.account core slot uid own

/-- Issue cycles that a pack owes. -/
def State.owes (s : State) (core slot uid : Nat) : Nat :=
  match s.pack? core slot with
  | some q => if q.id.uid = uid then q.owed else 0
  | none => 0

/-- The cycles of an instruction that a pack came to, if it has issued or owes any. -/
def State.settled (s : State) (core slot uid own : Nat) (limit : Option Nat) : State :=
  if s.issued core slot uid then s.charge core slot uid own limit
  else if s.owes core slot uid ≠ 0 then s.charge core slot uid 0 limit
  else s

/-- The exchange of a pack has been taken note of. -/
def State.clearExchange (s : State) (core slot : Nat) : State :=
  match s.pack? core slot with
  | some q => if q.prog.exchanged then s.setPack core slot { q with prog := { q.prog with exchanged := false } } else s
  | none => s

/-- The part of a meaning for each instruction at which a pack waits for an event of its own. -/
def waitedBody (i : Instr) : M Unit :=
  match i with
  | .barw o => do if ← barwBody o then modP (·.next o)
  | .lds o => do ldsBody o; modP (·.next o)
  | .wait o => do waitBody o; modP (·.next o)
  | .issv o => do issvBody o; modP (·.next o)
  | .amo o => do amoBody o; modP (·.next o)
  | .vatom o => do vatomBody o; modP (·.next o)
  | .xchl o => do xchlBody o; modP (·.next o)
  | _ => pure ()

/-- The pack of a slot issues the instruction at which it waits, if it waits for what `kind` names and the wait is over. -/
def reissue (core slot : Nat) (kind : Wait → Bool) : M Unit := do
  let s ← getS
  match s.pack? core slot with
  | none => notNow
  | some p =>
    match p.prog.wait with
    | none => notNow
    | some b =>
      if p.owed ≠ 0 || !p.mayIssue || !kind b.why || !waitOver s core slot p b.why then notNow
      asPack core slot b.instr (waitedBody b.instr)
      modS fun s => (s.settled core slot p.id.uid (issueCost b.instr p.mask) (some runCycles)).clearExchange core slot

/-- BARRIER_WAIT_RELEASE (R120). -/
def execBarrierWaitRelease (core slot : Nat) (s : State) : Host.Outcome State Fault Refusal :=
  event s (reissue core slot fun w => match w with | .barrier _ _ => true | _ => false)
/-- FULL_GRANULE_WAIT_RELEASE (R210). -/
def execFullGranuleWaitRelease (core slot : Nat) (s : State) : Host.Outcome State Fault Refusal :=
  event s (reissue core slot fun w => match w with | .granules _ => true | _ => false)
/-- ENGINE_WAIT_RELEASE (R225): of a pack that waits at WAIT. -/
def execEngineWaitRelease (core slot : Nat) (s : State) : Host.Outcome State Fault Refusal :=
  event s (do
    match ((← getS).pack? core slot).bind (·.prog.wait) with
    | some { instr := .wait _, .. } => reissue core slot fun w => match w with | .count _ _ => true | _ => false
    | _ => notNow)
/-- LEASH_ADMIT (R298). -/
def execLeashAdmit (core slot : Nat) (s : State) : Host.Outcome State Fault Refusal :=
  event s (reissue core slot fun w => match w with | .leash _ => true | _ => false)

/-! ### Values that arrive (R125, R321, R326) -/

/-- Does a register take a value that arrives? Not once the value is no longer due (R219, R325). -/
def Lane.takes (ln : Lane) (n : Nat) (v : VReg) : Lane :=
  if (ln.reg n).due then { ln with v := putAt {} ln.v n v } else ln

/-- A value in a lane's registers: `f` gives what each register becomes. -/
def Fill.into (x : Fill) (f : Half → VReg → VReg) (p : Pack) : Pack :=
  p.onLanes (1#1024 <<< x.lane) fun _ ln =>
    x.vals.zipIdx.foldl (fun ln e => ln.takes (x.reg + e.2) (f e.1 (ln.reg (x.reg + e.2)))) ln

/-- Registers filled, and full. -/
def fillGood (v : Half) (_ : VReg) : VReg := { val := v }
/-- Registers left empty and marked poisoned (R321). -/
def fillBad (b : Consumed) (_ : Half) (r : VReg) : VReg := { r with full := false, due := false, bad := some b }
/-- Registers marked full with their present bits (R325). -/
def fillKeep (_ : Half) (r : VReg) : VReg := { r with full := true, due := false }

/-- CKI after a load that consumed: one more consumption, and a sticky bit for each kind (R321). -/
def ckiLoad (cki : Word) (kinds : List Bool) : Word :=
  let c := ckiConsume cki (kinds.headD false)
  kinds.foldl (fun c ue => c ||| (if ue then 2 else 1)) c

/-- The pack after the values of one load have arrived. -/
def Pack.fill (p : Pack) (fs : List Fill) : Pack :=
  let kinds := (fs.filterMap fun f => f.bad.map (·.ue)).dedup
  let inside := p.sys.rgnpc != 0 && fs.any (fun f => f.bad.isSome && f.region)
  let cause : Nat := if kinds.contains true then 0x21 else 0x11
  if kinds = [] then fs.foldl (fun p f => f.into fillGood p) p
  else if inside && p.sys.rgnretry.toNat ≥ 2 then
    let q := fs.foldl (fun p f => f.into (match f.bad with | some b => fillBad b | none => fillGood) p) p
    { q with pendingTrap := q.pendingTrap.or (some (0x12, BitVec.ofNat 64 cause)) }
  else if inside then
    let q := fs.foldl (fun p f => f.into (match f.bad with | some _ => fillKeep | none => fillGood) p) p
    { q with restart := q.restart.or (some cause) }
  else
    let q := fs.foldl (fun p f => f.into (match f.bad with
      | some b => if ckiTraps p.sys.cki b.ue then fillBad b else fillGood
      | none => fillGood) p) p
    { q with sys := { q.sys with cki := ckiLoad q.sys.cki kinds } }

/-- REGISTER_FILL (R125): the values of the load that the `n`th value on its way belongs to. -/
def execRegisterFill (core slot n : Nat) (s : State) : Host.Outcome State Fault Refusal :=
  event s (do
    match ((← getS).pack? core slot).bind fun p => (p.fills[n]?).map fun f => (p, f.op) with
    | none => notNow
    | some (p, op) =>
      let fs := p.fills.filter (fun f => f.op == op)
      modSlot core slot fun p => { p with fills := p.fills.filter (fun f => f.op != op) }.fill fs
      tryFree core slot)

/-! ### GROW on a full core (R220) -/

/-- Does a pack of a core wait in GROW? -/
def Core.grows (c : Core) (slot : Nat) : Bool := c.growing.any (fun e => e.1 == slot)

/-- Of packs with their slots, the oldest that waits in GROW and the youngest. -/
def byAge (younger : Bool) (ps : List (Nat × Pack)) : Option (Nat × Pack) :=
  ps.find? fun e => ps.all fun f => if younger then f.2.id.age ≤ e.2.id.age else e.2.id.age ≤ f.2.id.age

/-- Do the free registers of a core cover the oldest of its requests (R219)? -/
def State.growable (s : State) (core : Nat) : Bool :=
  match byAge false ((s.packsOf core).filter fun e => (s.core core).grows e.1) with
  | some (slot, p) =>
    match (s.core core).growing.find? (fun e => e.1 == slot) with
    | some (_, n) => decide (s.usedRegs core + p.width * (n - p.allot) ≤ s.capacity core p.id.ctx)
    | none => false
  | none => false

/-- GROW_DEADLOCK_PREEMPT (R220): the youngest of the packs that all wait in GROW is saved, once its engine operations are complete, unless
the oldest request can be granted. DEDUCED: LOG 32. -/
def execGrowDeadlockPreempt (core : Nat) (s : State) : Host.Outcome State Fault Refusal :=
  event s (do
    let s ← getS
    let c := s.core core
    let ps := (s.packsOf core).filter fun e => match e.2.status with | .parked _ _ _ _ => false | _ => true
    if ps.isEmpty || !ps.all (fun e => c.grows e.1) || s.growable core then notNow
    match byAge true ps with
    | none => notNow
    | some (slot, p) =>
      let ops := c.mxq.filter (fun m => m.head.uid == p.id.uid)
      if !p.cnt.allZero || !p.fills.isEmpty || !ops.all (·.head.result.isSome) then notNow
      abandon core slot p.id.uid
      modS fun s =>
        let c := s.core core
        let s := s.setCore core { c with saved := c.saved ++ [{ p with prog := {} }] }
        (s.dropPack core slot).clearYields core p.id.uid)

/-- KENNEL_PACK_RESTORE (R220): the oldest saved pack of a core comes back when its allotment fits and no older request waits. -/
def execKennelPackRestore (core slot : Nat) (s : State) : Host.Outcome State Fault Refusal :=
  event s (do
    let s ← getS
    let c := s.core core
    match byAge false (c.saved.map fun p => (0, p)) with
    | none => notNow
    | some (_, p) =>
      let older := c.growing.any fun e => ((s.pack? core e.1).getD {}).id.age < p.id.age
      if older || (s.ctx p.id.ctx).pre ≠ .none || !s.slotOk core slot p.id.ctx ||
          !s.roomFor core p.id.ctx (p.width * p.allot) p.id.mirr then notNow
      setS ((s.setCore core { c with saved := c.saved.filter (fun q => q.id.uid != p.id.uid) }).setPack core slot
        { p with lastIssue := c.cycle }))

/-! ### Releases from the Heel (R105, R206, R305) -/

/-- May entry `n` of a core's Heel be released now? -/
def State.releasable (s : State) (core n : Nat) : Bool :=
  let h := (s.core core).heel
  match h[n]? with
  | none => false
  | some e =>
    !s.heelStopped core e.ctx && earlierDone (s.ctx e.ctx) e.label e.arr &&
      !s.cores.any (fun c => c.2.heel.any fun f => e.after f) &&
      !(h.take n).any (fun f => f.ctx == e.ctx && f.item == e.item && f.stamp == e.stamp)

/-- Are two entries parts of one held store (R104)? -/
def HeelEntry.same (e f : HeelEntry) : Bool := e.ctx == f.ctx && e.item == f.item && e.stamp == f.stamp

/-- The key of a held store's part (R206): translation and write permission are checked again. -/
def heldKey (core : Nat) (e : HeelEntry) : M Nat := do
  let s ← getS
  let served := ((s.core core).heelServed.filter (fun x => x.1 == e.ctx)).map (·.2)
  asWho { ctx := e.ctx, core, slot := 0, uid := 0, direct := true, served } (do
    if e.scratch then
      match scratchAt (← getS) (← getWho) e.addr.toNat e.bytes.length with
      | some k => return k
      | none => trapM 0x08 e.addr
    else translate .wr e.addr.toNat)

/-- Perform a held store, all its parts: the granules of STS.full become full once all its bytes are written (R206, R210). -/
def performHeld (core : Nat) (es : List HeelEntry) : M Unit := do
  let ks ← es.mapM (heldKey core)
  for x in es.zip ks do
    asWho { ctx := x.1.ctx, core, slot := 0, uid := 0, direct := true } (storeVirtual (!x.1.scratch) x.1.addr.toNat x.2 x.1.bytes)
  for x in es.zip ks do
    if x.1.full then setGranules (granulesOf x.2 x.1.bytes.length) true true

/-- A release that fails stops the core's releases for the context, and a fault record is posted (R206, R305). -/
def stopHeel (core : Nat) (e : HeelEntry) (cause : Nat) : M Unit := do
  let seq ← nextSeq e.ctx
  modS fun s =>
    let c := s.core core
    let s := s.setCore core { c with
      heelStop := Table.set c.heelStop e.ctx (some seq), heelServed := c.heelServed.filter (fun x => x.1 != e.ctx) }
    s.setCtx e.ctx { s.ctx e.ctx with faults := Table.set (s.ctx e.ctx).faults seq { src := .heel core cause e.addr } }
  postRecord e.ctx (faultRecord seq 0 core 0 e.ctx 7 2 (lineOf e.addr).toNat)

/-- HEEL_RELEASE (R105): the held store of which entry `n` of a core's Heel is the first part is performed; packs of any die may see by HLD that it
is (R223, R338). -/
def execHeelRelease (core n : Nat) (s : State) : Host.Outcome State Fault Refusal :=
  event s (do
    let s ← getS
    if !s.releasable core n then notNow
    match (s.core core).heel[n]? with
    | none => notNow
    | some e =>
      let r ← tryCatch (do performHeld core ((s.core core).heel.filter e.same); return none) (fun x => do return some x)
      match r with
      | none =>
        modS fun s =>
          let c := s.core core
          s.setCore core { c with heel := c.heel.filter (!e.same ·), heelServed := c.heelServed.filter (fun x => x.1 != e.ctx) }
        sweepFlow e.ctx e.label
        spread (dieOf core)
      | some (.pageFault _ _ _ _) => stopHeel core e 0x07
      | some (.trap _ _ _ _) => stopHeel core e 0x08
      | some (.miss vas kind) =>
        let c := (← getS).core core
        let new := ((vas.map (· / 4096)).dedup).filter fun pg =>
          !c.misses.any (fun m => m.uid == 0 && m.launch.isNone && m.ctx == e.ctx && m.page == pg)
        if new = [] then notNow
        modS fun s => s.setCore core { s.core core with misses := c.misses ++ new.map fun pg =>
          { ctx := e.ctx, page := pg, kind, slot := 0, uid := 0, packid := 0 } }
      | some _ => notNow)

end Sys2Proof.Machine
end

