-- ==== Sys2Proof/Machine/Repacking.lean ====
section
/-! DEFINITION. Repacking (spec/05_packs_and_flows.md R117; where inactive lanes go, LOG 22). -/

namespace Sys2Proof.Machine

/-- A participant of a window: its slot, its pack and its branch. -/
structure Participant where
  slot : Nat
  pack : Pack
  instr : Instr

/-- A lane that moves: the participant and its position there, and its position in the resulting pack. -/
structure Move where
  src : Nat
  lane : Nat
  pos : Nat
deriving DecidableEq, Repr

/-- The participants in ascending order of slot. -/
def bySlot : List Participant → List Participant
  | [] => []
  | x :: r =>
    let t := bySlot r
    t.filter (fun y => y.slot < x.slot) ++ x :: t.filter (fun y => x.slot ≤ y.slot)

/-- Take up to `k` lanes of each home lane, in order, at positions h, h + 32, …: the moves and the lanes left over. -/
def fillPack (k : Nat) : List (Nat × Nat) → List Move → List Move × List (Nat × Nat)
  | [], ms => (ms, [])
  | (s, l) :: r, ms =>
    let n := (ms.filter (fun m => m.pos % 32 == l % 32)).length
    if n < k then fillPack k r (ms ++ [{ src := s, lane := l, pos := l % 32 + 32 * n }])
    else
      let (ms', left) := fillPack k r ms
      (ms', (s, l) :: left)

/-- Place a group on the next unused participants; none when they run out. -/
def placeGroup : List Participant → List (Nat × Nat) → Option (List (Participant × List Move) × List Participant)
  | ps, [] => some ([], ps)
  | [], _ :: _ => none
  | p :: ps, ls =>
    let (ms, left) := fillPack (p.pack.width / 32) ls []
    (placeGroup ps left).map fun e => ((p, ms) :: e.1, e.2)

/-- The active lanes of the participants on one side of the branch. -/
def sideOf (ps : List Participant) (taken : Bool) : List (Nat × Nat) :=
  ps.flatMap fun p =>
    let t := p.pack.taken (opndOf p.instr)
    (lanesOf (if taken then t else p.pack.mask &&& ~~~t) p.pack.width).map fun l => (p.slot, l)

/-- A resulting pack: the participant whose slot it takes, whether it is a taken group, and its lanes. -/
structure Regrouped where
  host : Participant
  taken : Bool
  moves : List Move

/-- A free position for a lane in a resulting pack: its own, or the lowest of its home lane. -/
def Regrouped.free (r : Regrouped) (l : Nat) : Option Nat :=
  let ok (n : Nat) : Bool := n < r.host.pack.width && !r.moves.any (fun m => m.pos == n)
  (l :: (List.range (r.host.pack.width / 32)).map (fun j => l % 32 + 32 * j)).find? ok

/-- Put an inactive lane of a participant into the first of the packs, in an order of preference, that has a position for it. -/
def placeInactive (s l : Nat) : List Nat → List Regrouped → Option (List Regrouped)
  | [], _ => none
  | i :: is, rs =>
    match rs[i]? with
    | none => placeInactive s l is rs
    | some r =>
      match r.free l with
      | some n => some (rs.set i { r with moves := r.moves ++ [{ src := s, lane := l, pos := n }] })
      | none => placeInactive s l is rs

/-- The order in which resulting packs are tried for the inactive lanes of a participant: the lowest that one of its active lanes
went to, its own slot's, the others (DEDUCED, LOG 22). -/
def preference (p : Participant) (rs : List Regrouped) : List Nat :=
  let is := List.range rs.length
  let went := is.filter fun i => (rs[i]?.map fun r => r.moves.any (fun m => m.src == p.slot)).getD false
  let own := is.filter fun i => (rs[i]?.map fun r => r.host.slot == p.slot).getD false
  went.take 1 ++ own ++ is

/-- Place the inactive occupied lanes of a participant. -/
def placeRest (p : Participant) : List Nat → List Regrouped → Option (List Regrouped)
  | [], rs => some rs
  | l :: r, rs => (placeInactive p.slot l (preference p rs) rs).bind (placeRest p r)

/-- Place the inactive occupied lanes of all participants. -/
def placeAllRest : List Participant → List Regrouped → Option (List Regrouped)
  | [], rs => some rs
  | p :: ps, rs => (placeRest p (lanesOf (p.pack.occ &&& ~~~p.pack.mask) p.pack.width) rs).bind (placeAllRest ps)

/-- The resulting packs of a window; none when they would need more participants than there are (R117 step 4), or when an inactive occupied lane
finds no free position of its home lane in any of them (DESIGN CHOICE, LOG 22): each participant then branches as VBR. -/
def regroup (ps : List Participant) : Option (List Regrouped) :=
  match placeGroup ps (sideOf ps false) with
  | none => none
  | some (fall, rest) =>
    match placeGroup rest (sideOf ps true) with
    | none => none
    | some (taken, _) =>
      placeAllRest ps ((fall.map fun e => { host := e.1, taken := false, moves := e.2 }) ++
        taken.map fun e => { host := e.1, taken := true, moves := e.2 })

/-- The pack of a participant's slot before the window closed. -/
def packIn (ps : List Participant) (slot : Nat) : Pack := ((ps.find? (fun p => p.slot == slot)).map (·.pack)).getD {}

/-- A resulting pack (R117 steps 5 to 7). -/
def Regrouped.pack (r : Regrouped) (ps : List Participant) : Pack :=
  let p := r.host.pack
  let o := opndOf r.host.instr
  let masked (f : Pack → Lanes) : Lanes :=
    maskOf ((r.moves.filter fun m => (f (packIn ps m.src)).getLsbD m.lane).map (·.pos))
  let giver := (ps.find? fun q => r.moves.any (fun m => m.src == q.slot)).getD r.host
  { p with
    occ := maskOf (r.moves.map (·.pos))
    mask := masked (·.mask)
    stack := p.stack.zipIdx.map fun (e, i) => { e with mask := masked fun q => ((q.stack[i]?).map (·.mask)).getD 0 }
    lanes := (List.range p.width).map fun n =>
      match r.moves.find? (fun m => m.pos == n) with
      | some m => (packIn ps m.src).lane m.lane
      | none => {}
    fills := ps.flatMap fun q => q.pack.fills.filterMap fun f =>
      (r.moves.find? (fun m => m.src == q.slot && m.lane == f.lane)).map fun m => { f with lane := m.pos }
    g := giver.pack.g
    pc := if r.taken then vbrTarget p.pc o else p.pc + BitVec.ofNat 64 o.len
    prog := {} }

/-- The participants of a window: members that still wait at the branch. -/
def participants (s : State) (core : Nat) (w : Repack) : List Participant :=
  bySlot (w.members.filterMap fun m =>
    match s.pack? core m.1 with
    | some p =>
      match p.prog.wait with
      | some { why := .repack, .. } => some { slot := m.1, pack := p, instr := m.2 }
      | _ => none
    | none => none)

/-- A participant executes the VBRD as a VBR. -/
def branchAlone (core : Nat) (p : Participant) : M Unit := do
  asPack core p.slot p.instr (vbrBody (opndOf p.instr))
  modS fun s => s.charge core p.slot p.pack.id.uid (issueCost p.instr p.pack.mask) (some runCycles)

/-- Each participant executes the VBRD as a VBR. -/
def branchAll (core : Nat) : List Participant → M Unit
  | [] => pure ()
  | p :: r => do branchAlone core p; branchAll core r

/-- Put the resulting packs into their slots; a slot that receives no group is freed. -/
def putRegrouped (core : Nat) (ps : List Participant) (rs : List Regrouped) : List Participant → M Unit
  | [] => pure ()
  | p :: r => do
    match rs.find? (fun x => x.host.slot == p.slot) with
    | some x => modS fun s => s.setPack core p.slot (x.pack ps)
    | none =>
      modSlot core p.slot fun q => { q with occ := 0, mask := 0, lanes := [], fills := [], stack := [], prog := {}, status := .ended }
      tryFree core p.slot
    modS fun s => s.charge core p.slot p.pack.id.uid (issueCost p.instr p.pack.mask) (some runCycles)
    putRegrouped core ps rs r

/-- REPACK_WINDOW_CLOSE (R117): window `n` of a core. -/
def execRepackWindowClose (core n : Nat) (s : State) : Host.Outcome State Fault Refusal :=
  event s (do
    let s ← getS
    let c := s.core core
    match c.repacks[n]? with
    | none => notNow
    | some w =>
      setS (s.setCore core { c with repacks := c.repacks.eraseIdx n })
      let ps := participants s core w
      match (if ps.length ≤ 1 then none else regroup ps) with
      | none => branchAll core ps
      | some rs => putRegrouped core ps rs ps)

end Sys2Proof.Machine
end

