-- ==== Sys2Proof/Machine/Kennel.lean ====
section
/-! DEFINITION. The Kennel: submissions from the host, spill and refill of banks, taking records, argument blocks, the start of packs
and gangs, the completion of launches; table walks and the walker (spec/05_packs_and_flows.md R101, R102, R109;
spec/08_memory_model.md R189, R190; spec/12_scheduling.md R278-R287, R291). -/

namespace Sys2Proof.Machine

/-! ### Submissions and banks (R283-R285) -/

/-- HOST_SUBMISSION (R283): a write of `size` bytes at offset `off` of a cluster's window for bank 0. The host may act at any port after it (R338; LOG
46). -/
def execHostSubmission (k off size : Nat) (data : BitVec 512) (s : State) : Host.Outcome State Fault Refusal :=
  event s (do
    let s ← getS
    let b := s.bank k 0
    if s.dev.tripped || s.dev.service == .boot || k ≥ Config.numClusters then notNow
    if s.dev.service ≠ .full then modDev fun d => { d with discarded := d.discarded + 1 }
    else if size ≠ 64 || off % 64 ≠ 0 || off ≥ 4096 then setS (s.setBank k 0 { b with errors := b.errors + 1 })
    else
      match b.gangFirst with
      | some first =>
        setS (s.setBank k 0 { b with gangFirst := none })
        let _ ← accept { cluster := k, bank := 0, task := first.toNat, second := some data.toNat }
        spread (k / 6)
      | none =>
        if data.getLsbD 357 then setS (s.setBank k 0 { b with gangFirst := some data })
        else
          let _ ← accept { cluster := k, bank := 0, task := data.toNat }
          spread (k / 6))

/-- BANK_SPILL (R284, R285): a bank of 960 records moves its newest one to its context's segment; nodes that wait for room are submitted. -/
def execBankSpill (k b : Nat) (s : State) : Host.Outcome State Fault Refusal :=
  event s (do
    let s ← getS
    let x := s.bank k b
    if recWeight x.recs < 960 then notNow
    match spillable s k b with
    | none => notNow
    | some r => setS (s.setBank k b (x.spill r))
    if b = 2 then drainAll)

/-- Put a record into its place by acceptance number. -/
def insertRec (r : QRec) : List QRec → List QRec
  | [] => [r]
  | q :: l => if r.acc < q.acc then r :: q :: l else q :: insertRec r l

/-- The record with the lowest acceptance number. -/
def oldestRec (l : List QRec) : Option QRec := l.find? fun r => l.all fun q => r.acc ≤ q.acc

/-- The head of a bank: the record accepted first, on chip or in a ring (R283). -/
def Bank.head (x : Bank) : Option QRec := oldestRec (x.recs ++ x.spilled)

/-- BANK_REFILL (R285): the spilled record with the lowest acceptance number comes back, once it leaves the bank below the 960
records at which it spills (DESIGN CHOICE, LOG 2). -/
def execBankRefill (k b : Nat) (s : State) : Host.Outcome State Fault Refusal :=
  event s (do
    let s ← getS
    let x := s.bank k b
    match oldestRec x.spilled with
    | none => notNow
    | some r =>
      if recWeight x.recs + r.weight ≥ 960 then notNow
      setS (s.setBank k b { x with recs := insertRec r x.recs, spilled := x.spilled.filter (fun q => q.acc != r.acc) }))

/-! ### Taking records (R99, R282, R287) -/

/-- Change every record of a launch, queued or taken. -/
def State.mapRecords (s : State) (id : Nat) (f : QRec → QRec) : State :=
  let g (r : QRec) : QRec := if r.launch = id then f r else r
  { s with clusters := s.clusters.map fun k => (k.1, { k.2 with
      banks := k.2.banks.map fun b => { b with recs := b.recs.map g, spilled := b.spilled.map g }
      taken := k.2.taken.map fun t => { t with q := g t.q } }) }

/-- A launch that was held back joins its flows (R99). -/
def joinLate (id : Nat) : M Unit := do
  let s ← getS
  let n := s.launch id
  match s.enqOf id with
  | some all =>
    let first ← joinAll n.task.ctx n.task.cls all (all.map (·.label)).dedup
    modS fun s => (s.mapRecords id fun r => { r with src := match r.src with | .items l => .items (l.map (Item.arrive first all)) | x => x })
    modS fun s => s.setLaunch id { s.launch id with arr := some 0 }
  | none =>
    let arr ← joinFlow n.task.ctx n.task.label n.task.cls n.task.count
    modS fun s => s.setLaunch id { s.launch id with arr := some arr }

/-- May the Kennel take a record: its context is not pre-empted, and its flow has room, and has gone on where it had none (R99, R309)? -/
def takeable (s : State) (r : QRec) : Bool :=
  let n := s.launch r.launch
  (s.ctx r.ctx).pre == .none &&
    (n.arr.isSome ||
      (launchRoom (s.ctx r.ctx) n.task n.task.count (s.enqOf r.launch) && (s.ctx r.ctx).turnsMoved n.heldAt && !s.heldBack r.ctx r.launch (s.labelsOf r.launch n)))

/-- The record of a bank that the Kennel may take now: it holds at most 16 taken records of a bank (R282). -/
def State.takes (s : State) (k b : Nat) : Option QRec :=
  let c := s.cluster k
  if (c.taken.filter (fun t => t.bank == b)).length ≥ 16 then none
  else
    match (s.bank k b).head with
    | some r => if takeable s r then some r else none
    | none => none

/-- The bank that the Kennel takes from next, with its record: the highest priority, ties in rotation (R287). -/
def State.nextBank (s : State) (k : Nat) : Option (Nat × QRec) :=
  let order := (List.range 4).map fun i => ((s.cluster k).lastBank + 1 + i) % 4
  let heads := order.filterMap fun b => (s.takes k b).map fun r => (b, r)
  heads.find? fun e => heads.all fun f => f.2.prio ≤ e.2.prio

/-- A bank that a record has left; one at the head that stands in a ring leaves from there (DESIGN CHOICE, LOG 2). -/
def Bank.without (x : Bank) (r : QRec) : Bank :=
  { x with recs := x.recs.filter (fun q => q.acc != r.acc), spilled := x.spilled.filter (fun q => q.acc != r.acc) }

/-- KENNEL_TAKE_RECORD (R287). -/
def execKennelTakeRecord (k : Nat) (s : State) : Host.Outcome State Fault Refusal :=
  event s (do
    let s ← getS
    match s.nextBank k with
    | none => notNow
    | some (b, r) =>
      let x := s.bank k b
      let s := s.setBank k b (x.without r)
      let c := s.cluster k
      setS (s.setCluster k { c with lastBank := b, taken := c.taken ++ [{ q := r, bank := b, placed := 0 }] })
      if ((← getS).launch r.launch).arr.isNone && (Table.get? (← getS).launches r.launch).isSome then joinLate r.launch
      if b = 2 then drainAll)

/-! ### Argument blocks (R10, R281) -/

/-- The arrival numbers of a launch's unplaced items, by label, in a record. -/
def QRec.numbers (r : QRec) (n : Launch) : List (BitVec 32 × Nat × Nat) :=
  let arr := n.arr.getD 0
  match r.src with
  | .run _ off m => [(n.task.label, arr + off, m)]
  | .items l => l.map fun it => (it.label, it.arr, 1)
  | .gang => [(n.task.label, arr, n.task.count)]
  | .resume _ => []

/-- Take a run of numbers out of the runs. -/
def cutRange (l : List (Nat × Nat)) (a n : Nat) : List (Nat × Nat) :=
  l.flatMap fun (b, m) =>
    [(b, min m (a - b)), (max b (a + n), b + m - max b (a + n))].filter (fun e => e.2 ≠ 0)

/-- Drop the records that satisfy `f`, queued and taken. -/
def State.dropRecords (s : State) (f : QRec → Bool) : State :=
  let keeps (r : QRec) : Bool := !f r
  { s with clusters := s.clusters.map fun k => (k.1, { k.2 with
      banks := k.2.banks.map fun b => { b with recs := b.recs.filter keeps, spilled := b.spilled.filter keeps }
      taken := k.2.taken.filter fun t => keeps t.q }) }

/-- Items complete without running: their numbers leave the flows (R281). -/
def completeUnrun (ctx : Nat) : List (BitVec 32 × Nat × Nat) → M Unit
  | [] => pure ()
  | (label, a, n) :: r => do
    modFlow ctx label fun f => { f with incomplete := cutRange f.incomplete a n }
    sweepFlow ctx label
    completeUnrun ctx r

/-- The core whose Kennel reads the argument blocks of a context's launches: the first one with a window for the context, whose TLB, cluster's TLB
and, in programmable mode, walker serve the read, under the PACKID 0; the spec names no core (DESIGN CHOICE, LOG 12). -/
def State.argCore (s : State) (ctx : Nat) : Nat :=
  ((List.range Config.numCores).find? fun c => (Table.get? (s.core c).wins ctx).isSome).getD 0

/-- Read 8 words of an argument block on behalf of a core, or the trap cause that its read meets (R10). A miss in programmable mode goes to the
core's walker, unless it has been there (R190). -/
def readArgs (ctx core : Nat) (served : List Nat) (argp : Word) : M (Except Nat (List Word)) := do
  if argp = 0 then return .ok []
  else if argp.toNat + 64 > 2 ^ 57 then return .error 0x05
  else
    let old ← getWho
    let r ← tryCatch (do
      let bs ← asWho { ctx, core, slot := 0, uid := 0, direct := true, served }
        ((List.range 64).mapM fun i => do loadKey (← translate .rd (argp.toNat + i)))
      return Except.ok (elemsOf 8 bs)) (fun e => do
        modify fun w => { w with who := old }
        match e with
        | .miss vas kind => throw (.miss vas kind)
        | .trap c _ _ _ => return Except.error c
        | _ => return Except.error 0x07)
    return r.map fun xs => xs.map (BitVec.ofNat 64)

/-- A miss of an argument block waits for the walker of a core, once for each launch and page (R190). -/
def askFor (core ctx id : Nat) (vas : List Nat) (kind : BitVec 3) : M Unit := do
  let c := (← getS).core core
  let new := ((vas.map (· / 4096)).dedup).filter fun pg => !c.misses.any (fun m => m.launch == some id && m.page == pg)
  if new = [] then notNow
  modS fun s => s.setCore core { c with misses := c.misses ++ new.map fun pg =>
    { ctx, page := pg, kind, slot := 0, uid := 0, packid := 0, launch := some id } }

/-- ARGUMENT_BLOCK_READ (R10): the block of a launch, whose items then complete without running where the read fails; what that leaves room for in a
bank is submitted (R295). -/
def execArgumentBlockRead (id : Nat) (s : State) : Host.Outcome State Fault Refusal :=
  event s (do
    let s ← getS
    match Table.get? s.launches id with
    | none => notNow
    | some n =>
      if n.args.isSome || n.failed || n.arr.isNone then notNow
      let core := s.argCore n.task.ctx
      let r ← tryCatch (do return some (← readArgs n.task.ctx core n.served n.task.argp)) (fun e =>
        match e with
        | .miss vas kind => do askFor core n.task.ctx id vas kind; return none
        | e => throw e)
      match r with
      | none => pure ()
      | some (.ok xs) => modS fun s => s.setLaunch id { s.launch id with args := some xs }
      | some (.error cause) =>
        let rs := s.recordsOf id
        modS fun s => (s.dropRecords fun r => r.launch == id).setLaunch id
          { n with failed := true, err := n.err.or (some (4, cause)), left := 0, unplaced := 0 }
        completeUnrun n.task.ctx (rs.flatMap (·.numbers n))
        drainAll)

/-! ### Assembling packs (R91, R101, R102, R109) -/

/-- What the items of one pack have in common: kernel, modes, the launch in deterministic mode, and for resumed items where they
resume (R101, R109; DEDUCED, LOG 10). -/
structure KernelKey where
  ctx : Nat
  entry : Word
  argp : Word
  width : Nat
  regs : Nat
  mirr : Bool
  records : Bool
  c1 : Bool
  det : Option Nat
  resume : Option (Word × Nat)
deriving DecidableEq, Repr

/-- The key of a record's items. -/
def keyOf (s : State) (r : QRec) : KernelKey :=
  let t := (s.launch r.launch).task
  match r.src with
  | .resume id =>
    match Table.get? s.resumes id with
    | some x =>
      { ctx := r.ctx, entry := x.id.entry, argp := x.id.argp, width := x.width, regs := x.id.regs0, mirr := x.id.mirr
        records := x.id.records, c1 := x.id.c1, det := if x.id.det then some r.launch else none
        resume := some (x.pc, x.allot) }
    | none =>
      { ctx := r.ctx, entry := 0, argp := 0, width := 0, regs := 0, mirr := false, records := false, c1 := false, det := none
        resume := none }
  | _ =>
    { ctx := r.ctx, entry := t.entry, argp := t.argp, width := t.width, regs := t.regs, mirr := t.mirr, records := t.records
      c1 := t.c1, det := if t.det then some r.launch else none, resume := none }

/-- Registers per lane of a pack of a key. -/
def KernelKey.allot (k : KernelKey) : Nat := match k.resume with | some (_, n) => n | none => k.regs

/-- The next items of a taken record that may come next, in order: the next of a run; of explicit items the first of each label, in
deterministic mode the first (R291). -/
def nextItems (s : State) (t : Taken) : List Item :=
  let n := s.launch t.q.launch
  match t.q.src with
  | .run wid off m =>
    if t.placed < m then
      [{ wid := wid + BitVec.ofNat 64 t.placed, label := n.task.label, cls := n.task.cls
         arr := n.arr.getD 0 + off + t.placed, launch := t.q.launch }]
    else []
  | .items l => if n.task.det then l.take 1 else l.filter fun it => !l.any fun j => j.label == it.label && precedes j.arr it.arr
  | .resume id => ((Table.get? s.resumes id).map (·.lane.item)).toList
  | .gang => []

/-- May an item start: an atomic one needs its flow's token, as the lowest that remains, and its pack has no other item of the flow
(R102). -/
def startable (x : Ctx) (placed : List Item) (it : Item) : Bool :=
  it.cls != .a ||
    (!placed.any (fun j => j.label == it.label) &&
      (match x.flow? it.label with
       | some f => !f.token && f.turn == it.arr
       | none => true))

/-- A taken record without an item that has been placed. -/
def Taken.without (t : Taken) (it : Item) : Option Taken :=
  match t.q.src with
  | .run _ _ m => if t.placed + 1 < m then some { t with placed := t.placed + 1 } else none
  | .items l =>
    let l' := l.filter (fun j => !(j.label == it.label && j.arr == it.arr))
    if l'.isEmpty then none else some { t with q := { t.q with src := .items l' }, placed := t.placed + 1 }
  | _ => none

/-- The first item that may be placed next, with the index of its record: in the order of the taken records, and of a flow only in arrival order; in
deterministic mode the one with the lowest work identifier (R101, R291). -/
def pickItem (s : State) (x : Ctx) (placed : List Item) (ts : List Taken) : Option (Nat × Item) :=
  let all := ts.zipIdx.flatMap fun (t, i) => (nextItems s t).map fun it => (i, it)
  let may := all.filter fun e => startable x placed e.2
  may.find? fun e =>
    if (s.launch e.2.launch).task.det then may.all fun f => e.2.wid.toNat ≤ f.2.wid.toNat
    else !all.any (fun f => f.2.label == e.2.label && precedes f.2.arr e.2.arr)

/-- Fill up to `n` lanes: the items placed with their launches' resume identities, and the taken records that remain. -/
def fillLanes (s : State) (x : Ctx) : Nat → List Taken → List (Item × Option Nat) → List (Item × Option Nat) × List Taken
  | 0, ts, acc => (acc, ts)
  | n + 1, ts, acc =>
    match pickItem s x (acc.map (·.1)) ts with
    | none => (acc, ts)
    | some (i, it) =>
      match ts[i]? with
      | none => (acc, ts)
      | some t =>
        let id := match t.q.src with | .resume r => some r | _ => none
        let ts' := match t.without it with
          | some t' => ts.set i t'
          | none => ts.eraseIdx i
        fillLanes s x n ts' (acc ++ [(it, id)])

/-- Do the cluster's banks hold a further item for a pack of a key that the Kennel can take (R101)? DEDUCED: LOG 32. -/
def State.moreFor (s : State) (k : Nat) (key : KernelKey) : Bool :=
  (List.range 4).any fun b =>
    (s.takes k b).isSome && ((s.bank k b).recs ++ (s.bank k b).spilled).any fun r => decide (keyOf s r = key)

/-- Do a tenant's three budgets allow a new pack on a core (R288)? What of the share and of the power limit is used is a free
value at each cycle (DESIGN CHOICE, LOG 23); a tenant that was given no budget has none to keep (DESIGN CHOICE, LOG 24). -/
def State.budgetOk (s : State) (core ctx : Nat) : Bool :=
  let tenant := (s.ctx ctx).tenant
  let cores := ((s.packs.filter (fun e => (s.ctx e.2.id.ctx).tenant == tenant)).map (fun e => e.1.1)).dedup
  let now := (s.die 0).dcycle
  match Table.get? s.dev.budgets tenant.toNat with
  | some b => (cores.contains core || decide (cores.length < b.cores)) &&
      Config.trafficWithin tenant.toNat now b.share && Config.powerWithin tenant.toNat now b.watts
  | none => true

/-- The cores of a cluster that have a window for a context, ascending. -/
def State.coresFor (s : State) (k ctx : Nat) : List Nat :=
  ((List.range 24).map (k * 24 + ·)).filter fun c => (Table.get? (s.core c).wins ctx).isSome

/-- May new packs of a context start on a core of a cluster (R101, R171, R282, R309)? -/
def State.coreOpen (s : State) (k core ctx : Nat) : Bool :=
  (s.coresFor k ctx).contains core && (s.ctx ctx).pre == .none && s.budgetOk core ctx

/-- The pack identity that a launch gives. -/
def identity (uid ctx launch : Nat) (n : Launch) (entry argp : Word) (regs : Nat) (lpid : Nat) (gang : Bool) : PackId :=
  { ctx, entry, argp, regs0 := regs, launch, lpid := BitVec.ofNat 16 lpid, uid, age := uid, mirr := n.task.mirr
    records := n.task.records, det := n.task.det, c1 := n.task.c1, gang }

/-- Items have been placed: their launches count them, and atomic ones take their tokens (R102). -/
def notePlaced (ctx core : Nat) : List Item → M Unit
  | [] => pure ()
  | it :: r => do
    modS fun s =>
      let n := s.launch it.launch
      if (Table.get? s.launches it.launch).isSome then s.setLaunch it.launch { n with unplaced := n.unplaced - 1 } else s
    if it.cls = .a then modFlow ctx it.label fun f => { f with token := true, holder := core }
    notePlaced ctx core r

/-- The items of a pack with identities of their own. -/
def nameItems : List (Item × Option Nat) → M (List (Item × Option Nat))
  | [] => return []
  | (it, r) :: l => do
    let id ← freshM
    return (if it.id = 0 then { it with id := id + 1 } else it, r) :: (← nameItems l)

/-- The first pack of a launch starts: a recorded one reads the Trail's registers and descriptors (R297, R368). -/
def firstPack (core id : Nat) : M Unit := do
  let n := (← getS).launch id
  if n.task.records && !n.started then loadTrail n.task.ctx core
  modS fun s => s.setLaunch id { s.launch id with started := true }

/-- The logical id of the next pack of a taken record: in deterministic mode what the record alone gives (R291), otherwise, and for resumed
items, the next number of the launch. -/
def nextLpid (l : Launch) (t : Taken) : Nat :=
  match t.q.src with
  | .resume _ => l.lpid
  | _ => if l.task.det then t.q.before + t.packs else l.lpid

/-- How many items the next pack of a taken record takes in deterministic mode (R291). -/
def detChunk (l : Launch) (t : Taken) (width : Nat) : Nat :=
  match t.q.src with
  | .run _ _ m => if l.task.cls = .a then min 1 (m - t.placed) else min width (m - t.placed)
  | .items is => chunkLen (l.task.cls == .a) width [] is
  | _ => 0

/-- A taken record from which a pack has started, counted in deterministic mode. -/
def Taken.started (t : Taken) (det : Bool) : Taken := if det then { t with packs := t.packs + 1 } else t

/-- PACK_START (R101): the Kennel of a core starts a pack with the items of taken record `n` and others of its kernel. -/
def execPackStart (k core slot n : Nat) (s : State) : Host.Outcome State Fault Refusal :=
  event s (do
    let s ← getS
    let c := s.cluster k
    match c.taken[n]? with
    | none => notNow
    | some t =>
      let key := keyOf s t.q
      let ready (u : Taken) : Bool :=
        decide (keyOf s u.q = key) && (match u.q.src with | .resume _ => true | .gang => false | _ => (s.launch u.q.launch).args.isSome)
      let lead := s.launch t.q.launch
      let cores := s.coresFor k key.ctx
      let lpid := nextLpid lead t
      if !ready t || !s.coreOpen k core key.ctx || !s.slotOk core slot key.ctx ||
          !s.roomFor core key.ctx (key.width * key.allot) key.mirr ||
          (key.det.isSome && cores[lpid % 65536 % cores.length]? != some core) then notNow
      let (its, left) := fillLanes s (s.ctx key.ctx) key.width (c.taken.filter ready) []
      if its = [] || (its.length < key.width && s.moreFor k key) || (lead.task.det && its.length < detChunk lead t key.width) then notNow
      let its ← nameItems its
      let launch := ((its.head?).map (·.1.launch)).getD 0
      let l := s.launch launch
      modS fun s => s.setCluster k { s.cluster k with taken := c.taken.filter (fun u => !ready u) ++ left.map (·.started key.det.isSome) }
      notePlaced key.ctx core (its.map (·.1))
      firstPack core launch
      let uid := (← freshM) + 1
      let saved := its.map fun e => (e.1, e.2.bind (Table.get? s.resumes))
      let first := (saved.head?).bind (·.2)
      let occ := widthMask its.length
      modS fun s =>
        let lpid := if l.task.det then lpid else l.lpid
        let s := s.setLaunch launch { s.launch launch with lpid := if lpid = l.lpid then lpid + 1 else l.lpid }
        let p : Pack :=
          { id := { identity uid key.ctx launch l key.entry key.argp key.regs lpid false with
                    mirr := key.mirr, records := key.records, c1 := key.c1 }
            width := key.width, allot := key.allot
            pc := match key.resume with | some (pc, _) => pc | none => key.entry
            g := match first with | some r => r.g | none => 0 :: (l.args.getD [])
            lanes := saved.map fun e => match e.2 with | some r => { r.lane with item := e.1 } | none => { item := e.1 }
            occ, mask := occ, lastIssue := (s.core core).cycle }
        let s := { s with resumes := s.resumes.filter fun r => !its.any fun e => e.2 == some r.1 }
        s.setPack core slot p)

/-! ### Gangs (R278) -/

/-- The packs of a gang: role, first item's offset, in the order of their logical ids. -/
def gangPacks (rs : List Role) : List (Role × Nat) :=
  (rs.foldl (fun (acc : List (Role × Nat) × Nat) r =>
    (acc.1 ++ (List.range r.packs).map (fun j => (r, acc.2 + r.width * j)), acc.2 + r.width * r.packs)) ([], 0)).1

/-- Start the packs of a gang in slots of a core. -/
def startGang (core launch : Nat) (n : Launch) : Nat → List ((Role × Nat) × Nat) → M Unit
  | _, [] => pure ()
  | lpid, ((r, off), slot) :: rest => do
    let t := n.task
    let its ← nameItems ((List.range r.width).map fun l =>
      ({ wid := t.base + BitVec.ofNat 64 (off + l), label := t.label, cls := t.cls, arr := n.arr.getD 0 + off + l, launch }, none))
    notePlaced t.ctx core (its.map (·.1))
    let uid := (← freshM) + 1
    modS fun s => s.setPack core slot
      { id := identity uid t.ctx launch n r.entry t.argp r.regs lpid true
        width := r.width, allot := r.regs, pc := r.entry, g := 0 :: (n.args.getD []), lanes := its.map fun e => { item := e.1 }
        occ := widthMask r.width, mask := widthMask r.width, lastIssue := (s.core core).cycle }
    startGang core launch n (lpid + 1) rest

/-- GANG_START (R278): the gang of taken record `n` starts on a core that has room for all its roles; of a deterministic launch on the first of
the cores that have a window for its context, where R291 places its pack 0 (DESIGN CHOICE, LOG 10). -/
def execGangStart (k core n : Nat) (s : State) : Host.Outcome State Fault Refusal :=
  event s (do
    let s ← getS
    let c := s.cluster k
    match c.taken[n]? with
    | none => notNow
    | some t =>
      let l := s.launch t.q.launch
      let ctx := t.q.ctx
      let slots := (List.range Config.numSlots).filter (s.slotOk core · ctx)
      let ps := gangPacks l.roles
      let cores := s.coresFor k ctx
      if t.q.src ≠ .gang || l.args.isNone || !s.coreOpen k core ctx || slots.length < ps.length ||
          !s.roomFor core ctx (rolesRegs l.roles) l.task.mirr || (l.task.det && cores[0]? != some core) then notNow
      setS (s.setCluster k { c with taken := c.taken.eraseIdx n })
      firstPack core t.q.launch
      startGang core t.q.launch l 0 (ps.zip slots)
      modS fun s => s.setLaunch t.q.launch { s.launch t.q.launch with lpid := ps.length })

/-! ### Completion (R280) -/

/-- LAUNCH_COMPLETION (R280). -/
def execLaunchCompletion (id : Nat) (s : State) : Host.Outcome State Fault Refusal :=
  event s (do
    if !(← getS).launchOver id then notNow
    completeLaunch id)

/-! ### Walks and the walker (R189, R190) -/

/-- The queued walk that starts when one finishes: of the batch with the fewest walks outstanding, the first of such (R189). A batch's outstanding
walks are those that run: the spec does not say whether the queued ones count (DESIGN CHOICE, LOG 7). -/
def nextWalk (c : Cluster) : Option Walk :=
  let out (b : Nat) : Nat := (c.walks.filter (fun w => w.batch == b)).length
  c.queued.find? fun w => c.queued.all fun v => out w.batch < out v.batch || (out w.batch == out v.batch && w.batch ≤ v.batch)

/-- The table entries that the walks of a batch have read, each once (R189). -/
def Cluster.pte (c : Cluster) (batch : Nat) (read : Nat → Nat) (pa : Nat) : Nat :=
  ((c.memo.find? fun e => e.1 == batch && e.2.1 == pa).map (·.2.2)).getD (read pa)

/-- A cluster whose batch has read further entries; what no walk of a batch can need any more is dropped. -/
def Cluster.noteReads (c : Cluster) (batch : Nat) (l : List (Nat × Nat)) : Cluster :=
  let memo := c.memo ++ l.map fun e => (batch, e.1, e.2)
  { c with memo := memo.filter fun e => (c.walks ++ c.queued).any fun w => w.batch == e.1 }

/-- TLB_WALK_COMPLETE (R189): walk `n` of a cluster's scheduler reads the tables and finishes. -/
def execTlbWalkComplete (k n : Nat) (s : State) : Host.Outcome State Fault Refusal :=
  event s (do
    let s ← getS
    let c := s.cluster k
    match c.walks[n]? with
    | none => notNow
    | some w =>
      let pte := c.pte w.batch (readPte (Memory.read s.mem) s.dev)
      let root := (s.ctx w.ctx).root
      let e := walkWith pte s.dev w.ctx root (w.page * 4096) 5
      let c := { c with walks := c.walks.eraseIdx n }
      let c := c.noteReads w.batch (walkReads pte s.dev root (w.page * 4096) 5)
      let c := match nextWalk c with
        | some q => { c with walks := c.walks ++ [q], queued := c.queued.erase q }
        | none => c
      setS (s.setCluster k c)
      match e with
      | some e =>
        installCluster k e
        installCore w.core e
      | none => pure ()
      match (← getS).pack? w.core w.slot with
      | some p => if p.id.uid = w.uid && p.waitPages.contains w.page then modSlot w.core w.slot fun p => p.served [w.page] fun _ => e
      | none => pure ())

/-- The walker's pack for a miss (R190). -/
def walkerPack (x : Ctx) (m : Miss) (uid now : Nat) : Pack :=
  { id := { ctx := m.ctx, entry := x.walk, uid, age := uid, walker := some m.page }
    width := 32, allot := 8, pc := x.walk, priv := 1
    g := [0, BitVec.ofNat 64 (m.page * 4096), m.kind.setWidth 64, m.packid]
    lanes := [{ item := { done := true } }], occ := 1, mask := 1, lastIssue := now }

/-- Misses of a core take the page-fault path (R190). -/
def failMisses (core : Nat) : List Miss → M Unit
  | [] => pure ()
  | m :: r => do
    settleMiss core m
    failMisses core r

/-- WALKER_START (R190): the oldest miss of a core starts the walker, once the registers that its pack holds are free (R170); where the walker has
stopped, every miss takes the page-fault path. -/
def execWalkerStart (core : Nat) (s : State) : Host.Outcome State Fault Refusal :=
  event s (do
    let s ← getS
    let c := s.core core
    match c.misses with
    | [] => notNow
    | m :: _ =>
      match s.pack? core 47 with
      | some w =>
        match w.id.walker, w.status with
        | some _, .stopped _ _ _ _ =>
          setS (s.setCore core { c with misses := [] })
          failMisses core c.misses
        | _, _ => notNow
      | none =>
        if s.usedRegs core + walkerRegs > s.coreLimit core then notNow
        let uid := (← freshM) + 1
        modS fun s => s.setPack core 47 (walkerPack (s.ctx m.ctx) m uid c.cycle))

end Sys2Proof.Machine
end

