-- ==== Sys2Proof/Machine/Faults.lean ====
section
/-! DEFINITION. What reaches packs between instructions, and what is found wrong in the device: fault records, parked replay, the
progress watchdog, region restarts, strikes, scrubs, links and ports (spec/05_packs_and_flows.md R123;
spec/13_faults_and_preemption.md R302-R305, R319-R328; spec/14_dies_and_devices.md R334, R339). -/

namespace Sys2Proof.Machine

/-! ### The fault queue (R305, R383) -/

/-- FAULT_RECORD_POST: the record that has waited longest is posted once the ring has room. -/
def execFaultRecordPost (ctx : Nat) (s : State) : Host.Outcome State Fault Refusal :=
  event s (do
    let x := (← getS).ctx ctx
    match x.fqWaiting with
    | [] => notNow
    | r :: rest =>
      if x.fqPosted ≥ x.fqFreed + x.fqSize then notNow
      modS fun s => s.setCtx ctx { x with fqWaiting := [] }
      postRecord ctx r
      modS fun s => s.setCtx ctx { s.ctx ctx with fqWaiting := rest })

/-- FAULT_QUEUE_DRAIN: the host has taken up to `n` records out of the ring. -/
def execFaultQueueDrain (ctx n : Nat) (s : State) : Host.Outcome State Fault Refusal :=
  event s (do
    let s ← getS
    let x := s.ctx ctx
    if !s.ctxs.any (fun e => e.1 == ctx) then notNow
    setS (s.setCtx ctx { x with fqFreed := min x.fqPosted (x.fqFreed + n) }))

/-! ### The replay of a parked fault (R304) -/

/-- The answer to the record on which a pack is parked. -/
def Pack.answered (p : Pack) : Option Bool := match p.status with | .parked _ a _ _ => a | _ => none

/-- Is a region restart, or the trap of one that is not taken, due at a pack's boundary at user level (R302, R326)? -/
def Pack.restartDue (p : Pack) : Bool := p.priv == 0 && (p.restart.isSome || p.pendingTrap.isSome)

/-- PARKED_REPLAY: a resolved fault's instruction is replayed over the lanes of its image, as FRESUME replays it; of a fetch or a
scalar instruction it runs whole, but for the fetch of a replay, which goes on. An unresolvable one is delivered as cause 0x07. DEDUCED: LOG 26. -/
def execParkedReplay (core slot : Nat) (s : State) : Host.Outcome State Fault Refusal :=
  event s (do
    let s ← getS
    match s.pack? core slot with
    | none => notNow
    | some p =>
      if p.restartDue || p.takesPre then notNow
      match p.status with
      | .parked _ (some resolved) fetch va =>
        let img := BitVec.ofNat 1024 (← loadResident p.id.ctx core p.sys.fltmaskp.toNat 128)
        modSlot core slot fun p =>
          { p with status := .running, lastIssue := (s.core core).cycle
                   prog := { replay := if !resolved then none else if img &&& p.occ ≠ 0 then some img else p.prog.replay } }
        if !resolved then
          let tl ← (if fetch then return 0 else lenAt core p)
          asPack core slot (.nop {}) (takeTrap 0x07 va tl none none)
      | _ => notNow)

/-! ### The progress watchdog (R123) -/

/-- Has a pack issued nothing for QUIET cycles, while nothing goes first at its boundary (R302)? -/
def State.quietTooLong (s : State) (core : Nat) (p : Pack) : Bool :=
  let q := (s.ctx p.id.ctx).quiet.toNat
  q != 0 && p.status == .running && p.owed == 0 && !p.restartDue && !p.takesPre &&
    (match p.pre with | some r => r.restore | none => true) && q ≤ (s.core core).cycle - p.lastIssue

/-- WATCHDOG_EXPIRY: the pack takes the trap at the instruction that it waits at, whose wait is withdrawn; an ISSV or a site atomic
under way leaves the image of its unfinished lanes (R165, R298). DEDUCED: LOG 35. -/
def execWatchdogExpiry (core slot : Nat) (s : State) : Host.Outcome State Fault Refusal :=
  event s (do
    let s ← getS
    match s.pack? core slot with
    | none => notNow
    | some p =>
      if !s.quietTooLong core p then notNow
      let tl ← lenAt core p
      abandon core slot p.id.uid
      modSlot core slot fun p => { p with lastIssue := (s.core core).cycle }
      asPack core slot (.nop {}) (takeTrap 0x0E (s.ctx p.id.ctx).quiet tl none (p.prog.left.or p.prog.replay)))

/-! ### Region restarts (R325, R326) -/

/-- Long-latency producers that are pending are discarded: their destinations are full with their present bits (R325). -/
def Pack.discardDue (p : Pack) : Pack :=
  { p with fills := []
           lanes := p.lanes.map fun ln => { ln with v := ln.v.map fun r => if r.due then { r with full := true, due := false } else r } }

/-- The pack as a region restart leaves it. -/
def Pack.restarted (p : Pack) : Pack :=
  let q := p.discardDue
  { q with mask := p.rgnMask &&& p.occ, stack := p.stack.drop (p.stack.length - p.rgnDepth), pc := p.sys.rgnpc
           sys := { p.sys with rgnretry := p.sys.rgnretry + 1 }
           status := .running, restart := none, prog := {} }

/-- What is due to a pack from the Scent engines is dropped when it arrives (R325). -/
def dropScent (uid : Nat) : M Unit :=
  modS fun s => { s with dies := s.dies.map fun d => (d.1, { d.2 with scq := d.2.scq.map (·.cut uid 0) }) }

/-- The held stores that a pack made in its open region are discarded from every Heel that holds them (R107, R325); the labels of their
flows. -/
def discardHeld (uid : Nat) : M (List (Nat × BitVec 32)) := do
  let s ← getS
  let mine (e : HeelEntry) : Bool := e.uid == uid && e.region != 0
  setS { s with cores := s.cores.map fun c => (c.1, { c.2 with heel := c.2.heel.filter (!mine ·) }) }
  return (s.cores.flatMap fun c => (c.2.heel.filter mine).map fun e => (e.ctx, e.label)).dedup

/-- Become inactive what flows have nothing left (R97). -/
def sweepAll : List (Nat × BitVec 32) → M Unit
  | [] => pure ()
  | (ctx, label) :: r => do sweepFlow ctx label; sweepAll r

/-- REGION_RESTART: a restart that is due is taken at the pack's boundary, after the pager's answer where it is parked; where the
retries are spent, cause 0x12, with the image of the lanes that an ISSV or an atomic has not finished (R165). No engine operation can have been
issued since RGNPC: each one closes the region (R324). -/
def execRegionRestart (core slot : Nat) (s : State) : Host.Outcome State Fault Refusal :=
  event s (do
    let s ← getS
    match s.pack? core slot with
    | none => notNow
    | some p =>
      let atBoundary := match p.status with | .running => p.priv == 0 && p.owed == 0 | .parked _ a _ _ => a.isSome | _ => false
      if !atBoundary then notNow
      match p.restart, p.pendingTrap with
      | some _, _ =>
        abandon core slot p.id.uid
        dropScent p.id.uid
        let labels ← discardHeld p.id.uid
        modSlot core slot fun p => { p.restarted with lastIssue := (s.core core).cycle }
        sweepAll labels
      | none, some (cause, val) =>
        let tl ← lenAt core p
        abandon core slot p.id.uid
        modSlot core slot fun p => { p with status := .running, pendingTrap := none, lastIssue := (s.core core).cycle }
        asPack core slot (.nop {}) (takeTrap cause val tl none (p.prog.left.or p.prog.replay))
      | none, none => notNow)

/-! ### Journals (R327; DESIGN CHOICE, LOG 13) -/

/-- Add an entry to the error log of a die. -/
def logOn (d : Nat) (e : LogEntry) : M Unit :=
  modS fun s => s.setDie d { s.die d with errors := (s.die d).errors ++ [e] }

/-- All of the machine that activity changes. -/
def State.arch (s : State) : Arch :=
  { mem := s.mem, hbmPoison := s.hbmPoison, hbmUe := s.hbmUe, granEmpty := s.granEmpty, granPoison := s.granPoison, granUe := s.granUe
    packs := s.packs, cores := s.cores, clusters := s.clusters, dies := s.dies, ctxs := s.ctxs, launches := s.launches
    resumes := s.resumes, frames := s.frames, guardQ := s.guardQ, colls := s.colls, dev := s.dev }

/-- The packs of a core. -/
def State.packTable (s : State) (core : Nat) : Table (Nat × Nat) Pack := s.packs.filter fun e => e.1.1 == core

/-- A core but for its clocks, which no rollback sets back (R328). -/
def Core.still (c : Core) : Core := { c with cycle := 0, issueCycles := 0, left := 0 }
/-- A die but for its clock and its counts of errors. -/
def Die.still (d : Die) : Die := { d with dcycle := 0, errors := [], rollbacks := 0 }

/-- Is a key in the scratchpad of a core? -/
def ofCore (core k : Nat) : Bool := scratchKey core 0 ≤ k && k < scratchKey (core + 1) 0
/-- Is a granule in the scratchpad of a core? -/
def granOf (core g : Nat) : Bool := g / 65536 == core

/-- The bytes that memory lists in a core's scratchpad. -/
def State.scratchOf (s : State) (core : Nat) : Memory := s.mem.filter fun c => ofCore core c.1

/-- What lies outside a core: all but its own state, its packs and its scratchpad. -/
def State.beyond (s : State) (core : Nat) : Arch :=
  let out (l : List Nat) : List Nat := l.filter (!granOf core ·)
  { s.arch with
    mem := s.mem.filter (fun c => !ofCore core c.1), granEmpty := out s.granEmpty, granPoison := out s.granPoison, granUe := out s.granUe
    packs := s.packs.filter fun e => e.1.1 != core
    cores := (Table.del s.cores core).map fun c => (c.1, c.2.still)
    dies := s.dies.map fun d => (d.1, d.2.still) }

/-- The packs of a core that owe cycles. -/
def State.debtors (s : State) (core : Nat) : List Nat := ((s.packTable core).filter fun e => e.2.owed != 0).map fun e => e.2.id.uid

/-- What a core's journal keeps of an act before which the machine was `s` and after which it is `t`. -/
def State.checkpoint (s t : State) (core : Nat) (out : Bool) : Checkpoint :=
  let own (l : List Nat) : List Nat := l.filter (granOf core ·)
  { last := (t.core core).cycle, owes := (t.debtors core).filter fun u => !(s.debtors core).contains u
    core := s.core core, packs := s.packTable core, scratch := s.scratchOf core
    empty := own s.granEmpty, poison := own s.granPoison, ue := own s.granUe, out, whole := some s.arch }

/-- An entry whose instructions have been taking the cycles that they owe, until now. -/
def Checkpoint.lasts (k : Checkpoint) (debtors : List Nat) (now : Nat) : Checkpoint :=
  if k.owes.any debtors.contains then { k with last := now } else k

/-! What others change in a core, or in its packs, stands whatever is undone there: an entry takes it over, part by part, where the core has not
changed the same part since (R328). -/

/-- A value of an entry after others have changed it from `old` to `new`; none where the core has changed it too. -/
def pick {α : Type} [DecidableEq α] (old new k : α) : Option α :=
  if old = new then some k else if k = old then some new else none

/-- A count of an entry, by as much as others have changed it. -/
def pickNat (old new k : Nat) : Option Nat :=
  if old ≤ new then some (k + (new - old)) else if old - new ≤ k then some (k - (old - new)) else none

/-- The counts of the classes. -/
def pickCounts (old new k : Counts) : Option Counts := do
  let cp ← pickNat old.cp new.cp k.cp
  let gt ← pickNat old.gt new.gt k.gt
  let mx ← pickNat old.mx new.mx k.mx
  let cl ← pickNat old.cl new.cl k.cl
  let sc ← pickNat old.sc new.sc k.sc
  return { cp, gt, mx, cl, sc }

/-- Lists element by element, if others have changed none of their lengths. -/
def pickList {α : Type} [DecidableEq α] (f : α → α → α → Option α) (old new k : List α) : Option (List α) :=
  if old = new then some k
  else if k = old then some new
  else if old.length = new.length ∧ k.length = old.length then
    ((old.zip (new.zip k)).mapM fun e => f e.1 e.2.1 e.2.2)
  else none

/-- A lane. -/
def pickLane (old new k : Lane) : Option Lane := do
  let v ← pickList pick old.v new.v k.v
  let p ← pick old.p new.p k.p
  let item ← pick old.item new.item k.item
  return { v, p, item }

/-- A pack: its counters, its lanes and its other parts, of which others may change ASYNCERR, the match registers, where it stands, its wait, a
region restart and its held guards. -/
def pickPack (old new k : Pack) : Option Pack := do
  let parts (p : Pack) : Pack :=
    { p with cnt := {}, queries := 0, lanes := [], sys := {}, sml := 0, smp := 0, sdn := 0, status := .running, prog := {}, preReq := none
             restart := none, pendingTrap := none, fills := [], held := [], pc := 0, passed := 0 }
  if parts old ≠ parts new then none
  let cnt ← pickCounts old.cnt new.cnt k.cnt
  let queries ← pickNat old.queries new.queries k.queries
  let lanes ← pickList pickLane old.lanes new.lanes k.lanes
  let asyncerr ← pick old.sys.asyncerr new.sys.asyncerr k.sys.asyncerr
  let sys ← pick { old.sys with asyncerr := 0 } { new.sys with asyncerr := 0 } { k.sys with asyncerr := 0 }
  let m ← pick (old.sml, old.smp, old.sdn) (new.sml, new.smp, new.sdn) (k.sml, k.smp, k.sdn)
  let status ← pick old.status new.status k.status
  let prog ← pick old.prog new.prog k.prog
  let preReq ← pick old.preReq new.preReq k.preReq
  let restart ← pick old.restart new.restart k.restart
  let pendingTrap ← pick old.pendingTrap new.pendingTrap k.pendingTrap
  let fills ← pick old.fills new.fills k.fills
  let held ← pick old.held new.held k.held
  let pc ← pick old.pc new.pc k.pc
  return { k with cnt, queries, lanes, sys := { sys with asyncerr }, sml := m.1, smp := m.2.1, sdn := m.2.2, status, prog, preReq, restart
                  pendingTrap, fills, held, pc }

/-- The packs of a core, slot by slot. -/
def pickPacks (old new k : Table (Nat × Nat) Pack) : Option (Table (Nat × Nat) Pack) :=
  if old = new then some k
  else do
    let one (i : Nat × Nat) : Option (Option ((Nat × Nat) × Pack)) :=
      match Table.get? old i, Table.get? new i, Table.get? k i with
      | some a, some b, some c => (pickPack a b c).map fun p => some (i, p)
      | a, b, c => (pick a b c).map fun x => x.map fun p => (i, p)
    let l ← ((k ++ new).map (·.1)).dedup.mapM one
    return l.filterMap id

/-- The latest of two lists of stamps, place by place. -/
def laterStamps (a b : List Nat) : List Nat := (List.range (max a.length b.length)).map fun i => max (getAt 0 a i) (getAt 0 b i)

/-- A core, its own clocks aside; an engine that others have kept busy has been busy (R289). -/
def pickCore (old new k : Core) : Option Core := do
  let parts (c : Core) : Core :=
    { c.still with tlb := [], wins := [], tiles := [], mxq := [], heel := [], heelStop := [], misses := [], waiting := [], saved := []
                   growing := [], repacks := [], heelServed := [], inv := [], code := [], detCur := []
                   cpLast := 0, gtLast := 0, clLast := 0, scLast := [] }
  if parts old ≠ parts new then none
  let tlb ← pick old.tlb new.tlb k.tlb
  let wins ← pick old.wins new.wins k.wins
  let tiles ← pick old.tiles new.tiles k.tiles
  let mxq ← pick old.mxq new.mxq k.mxq
  let heel ← pick old.heel new.heel k.heel
  let heelStop ← pick old.heelStop new.heelStop k.heelStop
  let misses ← pick old.misses new.misses k.misses
  let waiting ← pick old.waiting new.waiting k.waiting
  let saved ← pick old.saved new.saved k.saved
  let growing ← pick old.growing new.growing k.growing
  let repacks ← pick old.repacks new.repacks k.repacks
  let heelServed ← pick old.heelServed new.heelServed k.heelServed
  let inv ← pick old.inv new.inv k.inv
  let code ← pick old.code new.code k.code
  let detCur ← pick old.detCur new.detCur k.detCur
  return { k with
    tlb, wins, tiles, mxq, heel, heelStop, misses, waiting, saved, growing, repacks, heelServed, inv, code, detCur
    cpLast := if old.cpLast = new.cpLast then k.cpLast else max k.cpLast new.cpLast
    gtLast := if old.gtLast = new.gtLast then k.gtLast else max k.gtLast new.gtLast
    clLast := if old.clLast = new.clLast then k.clLast else max k.clLast new.clLast
    scLast := if old.scLast = new.scLast then k.scLast else laterStamps k.scLast new.scLast }

/-- A set that follows what another one has become where that changed, or was written without a change. -/
def followSet (old new : List Nat) (touched : List (Nat × Nat)) (l : List Nat) : List Nat :=
  (new.filter fun g => !old.contains g || inRanges touched g).foldl insertNat
    (l.filter fun g => new.contains g || (!old.contains g && !inRanges touched g))

/-- An entry of a core's journal once others have acted: what they have changed in the core, its packs and its scratchpad, or written there without
a change, stands whatever is undone (R328); none where the core has changed the same part of itself since. -/
def Checkpoint.follow (k : Checkpoint) (core : Nat) (old new : State) : Option Checkpoint := do
  let m := old.scratchOf core
  let n := new.scratchOf core
  let t := new.touched
  let changed := (m ++ n).filter fun c => Memory.read m c.1 != Memory.read n c.1 || inRanges t.bytes c.1
  let c ← pickCore (old.core core) (new.core core) k.core
  let packs ← pickPacks (old.packTable core) (new.packTable core) k.packs
  return { k with
    whole := none, core := c, packs
    scratch := Memory.apply (Memory.wipe k.scratch t.bytes) (changed.map fun c => (c.1, Memory.read n c.1))
    empty := followSet (old.granEmpty.filter (granOf core ·)) (new.granEmpty.filter (granOf core ·)) t.fulls k.empty
    poison := followSet (old.granPoison.filter (granOf core ·)) (new.granPoison.filter (granOf core ·)) t.marks k.poison
    ue := followSet (old.granUe.filter (granOf core ·)) (new.granUe.filter (granOf core ·)) t.marks k.ue }

/-- The entries of a core's journal, the newest first, that are still undone after others have acted: those after the last effect outside the
core, which the others may have seen, as far as `follow` can have them; and the CYCLE at the end of the act before them. -/
def followJournal (core : Nat) (old new : State) : List Checkpoint → List Checkpoint × Option Nat
  | [] => ([], none)
  | k :: r =>
    if k.out then ([], some k.last)
    else
      match k.follow core old new with
      | none => ([], some k.last)
      | some k' =>
        let (l, n) := followJournal core old new r
        (k' :: l, n)

/-- A core whose effects up to a CYCLE have left it, 48 cycles later, by the time of any strike (R327). -/
def Core.gone (c : Core) (last : Option Nat) : Core :=
  match last with
  | some n => { c with left := max c.left (n + 48) }
  | none => c

/-- The journals of the cores other than `core` after an act, with the cores. -/
def followAll (old : State) (core : Option Nat) : Table Nat (List Checkpoint) → State → State
  | [], t => t
  | (c, l) :: r, t =>
    if core = some c then followAll old core r t
    else
      let (l', n) := followJournal c old t l.reverse
      let t := t.setCore c ((t.core c).gone n)
      followAll old core r { t with journals := if l'.isEmpty then t.journals else t.journals ++ [(c, l'.reverse)] }

/-- The state `t` with the journals of all cores after an act, before which the machine was `old`: of a core, or of none. An act of a core may
move data (R336). The notes of what has been written in scratchpads are done with. -/
def State.acted (t old : State) (core : Option Nat) : State :=
  let u := { followAll old core old.journals { t with journals := [] } with touched := {} }
  match core with
  | none => u
  | some c =>
    let now := (t.core c).cycle
    let recent := ((Table.getD old.journals c []).map (·.lasts (old.debtors c) now)).filter fun k => now ≤ k.last + 48
    { u with acts := u.acts + 1, journals := u.journals ++ [(c, recent ++ [old.checkpoint t c (decide (old.beyond c ≠ t.beyond c))])] }

/-! ### Strikes (R328; DESIGN CHOICE, LOG 13) -/

/-- The journal from the entry on to which a strike reported now rolls a core back: the oldest whose act reached into the last 48 cycles. -/
def rollPoint (now : Nat) (l : List Checkpoint) : List Checkpoint := l.dropWhile fun k => k.last + 48 < now

/-- The CYCLE of a core at which a strike is reported: what others may have seen has left it by then (R327; LOG 13). -/
def Core.struck (c : Core) : Core := { c with cycle := max c.cycle c.left }

/-- The machine as it was, but for clocks and counts of errors, which go on. -/
def State.withArch (s : State) (a : Arch) : State :=
  { s with
    mem := Memory.apply [] a.mem, hbmPoison := a.hbmPoison, hbmUe := a.hbmUe, granEmpty := a.granEmpty, granPoison := a.granPoison
    granUe := a.granUe, packs := a.packs
    cores := s.cores.map fun c => (c.1, { Table.getD a.cores c.1 {} with cycle := c.2.cycle, issueCycles := c.2.issueCycles, left := c.2.left })
    clusters := a.clusters
    dies := s.dies.map fun d =>
      (d.1, { Table.getD a.dies d.1 {} with dcycle := d.2.dcycle, errors := d.2.errors, rollbacks := d.2.rollbacks })
    ctxs := a.ctxs, launches := a.launches, resumes := a.resumes, frames := a.frames, guardQ := a.guardQ, colls := a.colls, dev := a.dev }

/-- The core's own state, packs and scratchpad as an entry of its journal has them. -/
def State.withCheckpoint (s : State) (core : Nat) (k : Checkpoint) : State :=
  let c := s.core core
  let gran (l own : List Nat) : List Nat := own.foldl insertNat (l.filter (!granOf core ·))
  let s := s.setCore core { k.core with cycle := c.cycle, issueCycles := c.issueCycles, left := c.left }
  { s with
    packs := s.packs.filter (fun e => e.1.1 != core) ++ k.packs
    mem := Memory.apply (s.mem.filter fun c => !ofCore core c.1) k.scratch
    granEmpty := gran s.granEmpty k.empty, granPoison := gran s.granPoison k.poison, granUe := gran s.granUe k.ue }

/-- All that a core has done since the first of these entries is undone: outside the core where nobody else has acted since, and in the
core. -/
def State.undo (s : State) (core : Nat) (l : List Checkpoint) : State :=
  match l with
  | [] => s
  | k :: _ =>
    let s1 := match l.findSome? (·.whole) with
      | some a => s.withArch a
      | none => s
    s1.withCheckpoint core k

/-- A core's packs with the watchdog's count stopped for `n` cycles. -/
def holdWatch (core n : Nat) (t : Table (Nat × Nat) Pack) : Table (Nat × Nat) Pack :=
  t.map fun e => if e.1.1 = core then (e.1, { e.2 with lastIssue := e.2.lastIssue + n }) else e

/-- A core rolled back. CYCLE keeps counting, by `n` cycles more, which no watchdog counts; a report within 48 cycles after it comes back
to the same point. -/
def State.rolledBack (s : State) (core n : Nat) : State :=
  let s := s.setCore core (s.core core).struck
  let l := rollPoint (s.core core).cycle (Table.getD s.journals core [])
  let s1 := s.undo core l
  let c := s1.core core
  let s2 := s1.setCore core { c with cycle := c.cycle + n }
  let s3 : State := { s2 with packs := holdWatch core n s2.packs }
  let s4 := s3.acted { s with journals := Table.del s.journals core } none
  { s4 with journals := s4.journals ++ (if l.isEmpty then [] else [(core, [s3.checkpoint s3 core false])]) }

/-- A core rolls back, over at most 64 further free cycles, and its die counts and logs it. -/
def State.rollBack (s : State) (core : Nat) : State :=
  let t : State := { s.rolledBack core ((Config.freeWord s.free).toNat % 65) with free := s.free + 1 }
  let d := t.die (dieOf core)
  t.setDie (dieOf core) { d with rollbacks := d.rollbacks + 1, errors := d.errors ++ [.rollback core] }

/-- STRIKE_REPORT: every core of the zone rolls back. -/
def execStrikeReport (zone : List Nat) (s : State) : Host.Outcome State Fault Refusal :=
  if s.dev.tripped then .next s
  else .next { (zone.dedup.filter (· < Config.numCores)).foldl State.rollBack s with cur := none }

/-! ### Scrubs, links and ports -/

/-- SCRUB_ERROR (R319, R320): the unit is poisoned from now on, and the die logs it. -/
def execScrubError (u : MemUnit) (s : State) : Host.Outcome State Fault Refusal :=
  event s (do
    match u with
    | .hbm w =>
      if 32 * w ≥ Config.hbmSize then notNow
      modS fun s => { s with hbmPoison := insertNat s.hbmPoison w, hbmUe := removeNat s.hbmUe w }
      logOn (homeDie (32 * w)) (.scrub u)
    | .granule g =>
      if g ≥ Config.numCores * 65536 then notNow
      modS fun s => { s with
        granPoison := insertNat s.granPoison g, granUe := removeNat s.granUe g, touched := s.touched.granules [(g, 1)] false true }
      logOn (dieOf (g / 65536)) (.scrub u))

/-- A plane is lost for the device, and the loss is logged (R334). Transfers are performed in order at once in this model, so none is
outstanding on it (DESIGN CHOICE, LOG 2). -/
def losePlane (plane : Nat) : M Unit := do
  modDev fun d => { d with lostPlanes := insertNat d.lostPlanes plane }
  logOn 0 (.planeLost plane)

/-- PLANE_LOSS (R334). -/
def execPlaneLoss (plane : Nat) (s : State) : Host.Outcome State Fault Refusal :=
  event s (do
    if plane ≥ 36 || (← getS).dev.lostPlanes.contains plane then notNow
    losePlane plane)

/-- FLIT_CRC_ERROR (R334): the flit is retried at link level; the port whose flit has failed 16 retries in a row is out of service, and its
plane is lost (R333). -/
def execFlitCrcError (port : Nat) (s : State) : Host.Outcome State Fault Refusal :=
  event s (do
    let d := (← getS).dev
    if port ≥ 36 || d.lostPlanes.contains port then notNow
    let n := Table.getD d.retries port 0
    if n < 16 then modDev fun d => { d with retries := Table.set d.retries port (n + 1) }
    else
      modDev fun d => { d with retries := Table.del d.retries port }
      losePlane port)

/-- HOST_PORT_FAILURE (R174, R339): addresses through the port are valid no longer, and a snapshot in progress has failed. -/
def execHostPortFailure (port : Nat) (s : State) : Host.Outcome State Fault Refusal :=
  event s (do
    if !(← getS).dev.ports.contains port then notNow
    modDev fun d => { d with ports := removeNat d.ports port, snapshot := d.snapshot.map fun n => { n with failed := true } }
    logOn 0 (.portLost port))

end Sys2Proof.Machine
end

