-- ==== Sys2Proof/Machine/Snapshots.lean ====
section
/-! DEFINITION. The Whistle's pin, the latching of dies, the copying out of a memory snapshot and its completion
(spec/14_dies_and_devices.md R335-R339). -/

namespace Sys2Proof.Machine

/-- WHISTLE_PIN (R335): a falling edge on WHISTLE_N, in full service. -/
def execWhistlePin (s : State) : Host.Outcome State Fault Refusal :=
  event s (do
    if (← getS).dev.service ≠ .full then notNow
    let _ ← whistle 0 false 2 0)

/-- SNAPSHOT_LATCH (R335, R336): a die latches the trigger that is latching, after the dies with lower numbers. -/
def execSnapshotLatch (d : Nat) (s : State) : Host.Outcome State Fault Refusal :=
  event s (do
    match (← getS).dev.triggers with
    | [] => notNow
    | t :: _ =>
      if d ≥ Config.numDies || t.latched.contains d || !(List.range d).all t.latched.contains then notNow
      latchDie d)

/-- The 64 KiB blocks of HBM (R339). -/
def numBlocks : Nat := Config.hbmSize / 65536

/-- SNAPSHOT_COPY_ON_WRITE (R339): the old contents of a block are copied to the staging areas of the dies that have latched and
have room. A write makes this copy itself when its bytes reach memory (`finish`). -/
def execSnapshotCopyOnWrite (b : Nat) (s : State) : Host.Outcome State Fault Refusal :=
  event s (do
    let s ← getS
    match s.dev.snapshot with
    | none => notNow
    | some n =>
      if b ≥ numBlocks then notNow
      let room (n : Snapshot) (h : Nat) : Bool := (n.staged.filter (fun e => e.1.2 == h)).length < stagingRoom
      let n' := (List.range Config.numDies).foldl (fun n h => if room n h then stagePart s.mem n b h else n) n
      modDev fun d => { d with snapshot := some n' })

/-- The bytes of a block as they stood at the cut: each die's part staged, or as memory holds it. -/
def blockAtCut (m : Memory) (n : Snapshot) (b : Nat) : List Host.Cell :=
  (List.range Config.numDies).flatMap fun h => (Table.get? n.staged (b, h)).getD (blockPart m b h)

/-- The first block at or after `b` that has not been streamed. -/
def skipStreamed (streamed : List Nat) : Nat → Nat → Nat
  | 0, b => b
  | n + 1, b => if streamed.contains b then skipStreamed streamed n (b + 1) else b

/-- The key of a block in the safe tier: blocks alternate between the ports, each port's in order (R339, LOG 15); none where the
tier is not named or the port is gone. -/
def tierKey (d : Device) (b : Nat) : Option Nat :=
  let base := if b % 2 = 0 then d.tier0 else d.tier1
  if base ≠ 0 && d.ports.contains (b % 2) then some (base + b / 2 * 65536) else none

/-- Does a block at a key lie in a safe tier whose ports have these bases? -/
def inTier (k : Nat) (t : Nat × Nat) : Bool :=
  [t.1, t.2].any fun base => base < k + 65536 && k < base + 384 * 2 ^ 30

/-- SNAPSHOT_SWEEP (R339): one block goes to the safe tier, a staged one first, otherwise the next that is not yet streamed. -/
def execSnapshotSweep (s : State) : Host.Outcome State Fault Refusal :=
  event s (do
    let s ← getS
    match s.dev.snapshot with
    | none => notNow
    | some n =>
      if n.cut.length < Config.numDies then notNow
      let next := skipStreamed n.streamed n.streamed.length n.next
      let (b, next, streamed) := match n.staged with
        | ((b, _), _) :: _ => (b, next, n.streamed ++ [b])
        | [] => (next, next + 1, n.streamed.filter (fun x => next < x))
      if b ≥ numBlocks then notNow
      let n' : Snapshot := { n with next, streamed, staged := n.staged.filter (fun e => e.1.1 != b) }
      match tierKey s.dev b with
      | some k =>
        wipeKeys k 65536
        for c in blockAtCut s.mem n b do storeKey (k + c.1 % 65536) c.2
        modDev fun d => { d with snapshot := some n', tierWhole := if d.tierWhole.any (inTier k) then none else d.tierWhole }
      | none => modDev fun d => { d with snapshot := some { n' with failed := true } })

/-- Write a completion record at a physical address: CODE and DETAIL where CODE reads 0, and COUNT + 1 (R280, R341); it waits for the copy
for a snapshot as any write does (R339). -/
def writeDoneAt (done : Nat) (err : Option (Nat × Nat)) : M Unit := do
  let d := (← getS).dev
  if done ≠ 0 && done % 16 = 0 && frameValid d (done % 2 ^ 52) && done < 2 ^ 52 then
    let k := canonPa d done
    match err with
    | some (code, detail) => if (← loadKey (k + 8)) = 0 then putKeys (some 0) (k + 8) (leBytes 2 (code + 256 * detail))
    | none => pure ()
    putKeys (some 0) k (leBytes 8 (leNat (← loadKeys k 8) + 1))

/-- SNAPSHOT_COMPLETE (R339): every block has been delivered; SNAPSET's completion record counts it, with CODE 1 where a port failed
(DESIGN CHOICE, LOG 15). -/
def execSnapshotComplete (s : State) : Host.Outcome State Fault Refusal :=
  event s (do
    let d := (← getS).dev
    match d.snapshot with
    | none => notNow
    | some n =>
      if n.staged ≠ [] || skipStreamed n.streamed n.streamed.length n.next < numBlocks then notNow
      writeDoneAt d.snapDone (if n.failed then some (1, 0) else none)
      modDev fun d => { d with snapshot := none, tierWhole := if n.failed then d.tierWhole else some (d.tier0, d.tier1) })

/-- SNAPSHOT_LOG_DRAIN (R336): the host has taken up to `n` die records with their core entries out of the log's ring. -/
def execSnapshotLogDrain (n : Nat) (s : State) : Host.Outcome State Fault Refusal :=
  event s (do modDev fun d => { d with logFreed := min d.logPosted (d.logFreed + 2368 * n) })

end Sys2Proof.Machine
end

