-- ==== Sys2Proof/Machine/Commands.lean ====
section
/-! DEFINITION. The management commands and the context descriptor (spec/14_dies_and_devices.md R340-R342;
spec/12_scheduling.md R288; spec/11_scent.md R275, R276; spec/13_faults_and_preemption.md R305, R309, R313-R315). -/

namespace Sys2Proof.Machine

/-! ### How a command is performed (R341) -/

/-- The DETAIL of a command that is turned away before its own checks: 2 in reduced service, 4 for an invalid field, 3 for a
context that it needs and that does not exist. -/
def turnedAway (c : Command) (s : State) (reduced needsCtx : Bool) : Option Nat :=
  if s.dev.service ≠ .full && !reduced then some 2
  else if c.reserved || c.done % 16 ≠ 0 then some 4
  else if needsCtx && !s.ctxs.any (fun e => e.1 == c.ctx.toNat) then some 3
  else none

/-- Perform a command: `body` gives the DETAIL of an invalid one, which changes nothing. The completion record is updated at the end.
Nothing is accepted in Boot (R343). The host's port meets die 0, which performs commands, and the host may act at any port afterwards (R338; LOG
46). -/
def command (c : Command) (reduced needsCtx : Bool) (s : State) (body : M (Option Nat)) : Host.Outcome State Fault Refusal :=
  event s (do
    let s ← getS
    if s.dev.service = .boot then notNow
    meet (Config.hostPortDie 0 % 4) 0
    let r ← (match turnedAway c s reduced needsCtx with
      | some n => return some n
      | none => do
        let w ← get
        match ← body with
        | some n => do
          set w
          return some n
        | none => return none)
    writeDoneAt c.done (r.map fun n => (1, n))
    spread 0)

/-- INVALID_COMMAND (R341): a code without a command. -/
def execInvalidCommand (code : Byte) (c : Command) (s : State) : Host.Outcome State Fault Refusal :=
  if 1 ≤ code.toNat && code.toNat ≤ 12 then .next s else command c false false s (do return some 4)

/-- Is an offset in an assigned part of the management BAR (R340)? -/
def barAssigned (off : Nat) : Bool :=
  off < 0x1000 || (0x10000 ≤ off && off < 0x28000) || (0x40000 ≤ off && off < 0x41000) || (0x80000 ≤ off && off < 0x81000)

/-- MGMT_WRITE_DISCARDED (R340): a write outside the assigned parts of the management BAR. -/
def execMgmtWriteDiscarded (off : Nat) (s : State) : Host.Outcome State Fault Refusal :=
  event s (do
    if barAssigned off || off ≥ 2 ^ 26 || (← getS).dev.service = .boot then notNow
    modDev fun d => { d with discarded := d.discarded + 1 })

/-! ### CREATE (R341, R342) -/

/-- Are the reserved fields of a context descriptor zero? -/
def descReserved (r : Nat) : Bool :=
  r / 2 ^ 736 == 0 && bits r 511 505 == 0 && bits r 383 377 == 0 && bits r 319 288 == 0 && bits r 255 249 == 0 &&
    bits r 191 185 == 0 && bits r 127 121 == 0

/-- The context that a descriptor describes. -/
def parseContext (r : Nat) : Ctx :=
  { tenant := BitVec.ofNat 4 (bits r 63 60)
    snapok := bit r 59
    deliver := bit r 58
    programmable := bit r 57
    root := bits r 56 0
    walk := BitVec.ofNat 64 (bits r 120 64)
    htab := BitVec.ofNat 64 (bits r 184 128)
    spill := BitVec.ofNat 64 (bits r 248 192)
    spillSz := bits r 287 256 * 65536
    fqBase := bits r 376 320
    fqSize := bits r 415 384
    ovrBase := BitVec.ofNat 64 (bits r 504 448)
    ovrSize := bits r 447 416
    flowCap := bits r 735 704
    heelsp := writeMask 0x080 0 (BitVec.ofNat 64 (bits r 575 512))
    tvec := writeMask 0x010 0 (BitVec.ofNat 64 (bits r 639 576))
    quiet := BitVec.ofNat 64 (bits r 703 640) }

/-- Flow table entries that the contexts' partitions leave free (R97). -/
def State.freeEntries (s : State) : Nat := Config.flowEntries - (s.ctxs.map (fun e => e.2.flowCap)).sum

/-- Is a descriptor valid (R342)? DEDUCED: LOG 40. -/
def descOk (s : State) (r : Nat) : Bool :=
  let x := parseContext r
  descReserved r && (x.programmable || x.walk == 0) && x.root % 4096 == 0 && x.htab.toNat % 4096 == 0 && 24 ≤ x.ovrSize && (x.fqSize == 0 || x.fqBase / 2 ^ 50 == 1) &&
    1 ≤ x.flowCap && x.flowCap ≤ s.freeEntries

/-- CREATE: the context exists, and slots 1-63 of its handle table are zero (R178), a write like any other for a snapshot (R339). DEDUCED:
LOG 25. -/
def execCreate (c : Command) (s : State) : Host.Outcome State Fault Refusal :=
  command c false false s (do
    let s ← getS
    let n := c.ctx.toNat
    let pa := c.op1.toNat
    if s.ctxs.any (fun e => e.1 == n) || pa % 128 ≠ 0 || pa ≥ 2 ^ 52 || !frameValid s.dev pa then return some 4
    let r := leNat (← loadKeys (canonPa s.dev pa) 128)
    if !descOk s r then return some 4
    let x := parseContext r
    setS (s.setCtx n x)
    match residentKey (← get) n 0 (x.htab.toNat + 64) with
    | some k => do
      beforeWrite (some 0) k
      wipeKeys k (63 * 64)
    | none => pure ()
    return none)

/-! ### Windows and tiles (R171, R236, R314) -/

/-- Clear a window: its bytes are zero, its granules full and unpoisoned (R314). -/
def clearWindow (core : Nat) (w : Window) : M Unit := do
  wipeKeys (scratchKey core w.base) w.size
  modS fun s =>
    let out (g : Nat) : Bool := g < core * 65536 + w.base / 16 || core * 65536 + (w.base + w.size) / 16 ≤ g
    { s with granEmpty := s.granEmpty.filter out, granPoison := s.granPoison.filter out, granUe := s.granUe.filter out
             touched := s.touched.granules [(core * 65536 + w.base / 16, w.size / 16)] true true }

/-- Take a context's window on a core away. -/
def removeWindow (ctx core : Nat) : M Unit := do
  match Table.get? ((← getS).core core).wins ctx with
  | some w =>
    clearWindow core w
    modS fun s => s.setCore core { s.core core with wins := Table.del (s.core core).wins ctx }
  | none => pure ()

/-- Release the tiles of a context on a core (R236). -/
def releaseTiles (ctx core : Nat) : M Unit :=
  modS fun s => s.setCore core { s.core core with tiles := (s.core core).tiles.map fun t => if t.owner = some ctx then {} else t }

/-- Grant tiles (R236). -/
def grantTiles (ctx core : Nat) : List Nat → M Unit
  | [] => pure ()
  | t :: r => do
    modS fun s => s.setCore core { s.core core with tiles := putAt {} (s.core core).tiles t { owner := some ctx } }
    grantTiles ctx core r

/-- Two windows have a byte in common. -/
def Window.overlaps (a b : Window) : Bool := a.base < b.base + b.size && b.base < a.base + a.size

/-- Give the granules of a window the bits of an image (R314). -/
def reinstateGranules (core : Nat) (w : Window) (img : Nat) : List Nat → M Unit
  | [] => pure ()
  | g :: r => do
    let k := core * 65536 + w.base / 16 + g
    modS fun s =>
      { s with granEmpty := if bit img (2 * g) then s.granEmpty else insertNat s.granEmpty k
               granPoison := if bit img (2 * g + 1) then insertNat s.granPoison k else s.granPoison }
    reinstateGranules core w img r

/-- Has a context a resident pack on a core, or a frame waiting to start there? -/
def State.occupies (s : State) (ctx core : Nat) : Bool :=
  s.packs.any (fun e => e.1.1 == core && e.2.id.ctx == ctx) || (s.core core).waiting.any (fun w => w.ctx == ctx)

/-- Does a PLACE leave the context's window on a core as it is? -/
def State.samePlace (s : State) (ctx core : Nat) (w : Window) : Bool := Table.get? (s.core core).wins ctx == some w

/-- Why a PLACE is invalid. -/
def placeError (s : State) (ctx core : Nat) (w : Window) (tiles : List Nat) (src : Option Nat) : Option Nat :=
  let x := s.core core
  if core ≥ Config.numCores || w.size > 2 ^ 20 || w.base + w.size > 2 ^ 20 || src.any (· ≥ Config.numCores) then some 4
  else if w.size ≠ 0 && (x.wins.any (fun e => e.1 != ctx && e.2.overlaps w) ||
      tiles.any (fun t => match (getAt {} x.tiles t : Tile).owner with | some o => o != ctx | none => false)) then some 4
  else if (Table.get? x.wins ctx).isSome && s.occupies ctx core && !s.samePlace ctx core w then some 1
  else none

/-- PLACE: one that leaves the window of a context that occupies the core as it is keeps its bytes, and grants the tiles that it names anew
(DEDUCED, LOG 40). -/
def execPlace (c : Command) (s : State) : Host.Outcome State Fault Refusal :=
  command c false true s (do
    let s ← getS
    let ctx := c.ctx.toNat
    let core := c.op1.toNat
    let w : Window := { base := 4096 * bits c.op2.toNat 8 0, size := 4096 * bits c.op2.toNat 24 16 }
    let tiles := (List.range 4).filter fun t => bit c.op2.toNat (32 + t)
    let src := if bit c.op3.toNat 10 then some (bits c.op3.toNat 9 0) else none
    match placeError s ctx core w tiles src with
    | some n => return some n
    | none =>
      if s.occupies ctx core && s.samePlace ctx core w then
        grantTiles ctx core (tiles.filter fun t => (getAt {} (s.core core).tiles t : Tile).owner ≠ some ctx)
      else
        removeWindow ctx core
        releaseTiles ctx core
        if w.size ≠ 0 then
          clearWindow core w
          modS fun s => s.setCore core { s.core core with wins := Table.set (s.core core).wins ctx w }
          grantTiles ctx core tiles
          match src with
          | some k =>
            let old := ((Table.get? (s.ctx ctx).imageWins k).map (·.size)).getD 0
            let img ← loadResident ctx core ((s.ctx ctx).spill.toNat + 16384 * k) 16384
            reinstateGranules core w img (List.range (min w.size old / 16))
          | none => pure ()
      return none)

/-! ### DESTROY (R107, R201, R276, R281) -/

/-- A core without a context. -/
def Core.without (c : Core) (ctx : Nat) (gone : List Nat) : Core :=
  { c with
    tlb := c.tlb.filter (fun e => e.ctx != ctx)
    mxq := c.mxq.filter (fun m => m.head.ctx != ctx)
    heel := c.heel.filter (fun e => e.ctx != ctx)
    heelStop := Table.del c.heelStop ctx
    heelServed := c.heelServed.filter (fun e => e.1 != ctx)
    misses := c.misses.filter (fun m => m.ctx != ctx)
    waiting := c.waiting.filter (fun w => w.ctx != ctx)
    saved := c.saved.filter (fun p => p.id.ctx != ctx)
    growing := c.growing.filter (fun e => !gone.contains e.1)
    repacks := gone.foldl (fun l slot => l.filterMap (·.leave slot)) c.repacks }

/-- The launches of a context. -/
def State.launchesOf (s : State) (ctx : Nat) : List Nat := (s.launches.filter fun n => n.2.task.ctx == ctx).map (·.1)

/-- A core that keeps no copies for launches any more (R29, R202). -/
def Core.uncached (c : Core) (gone : List Nat) : Core :=
  { c with inv := c.inv.filter (fun e => !gone.contains e.launch), code := c.code.filter (fun e => !gone.contains e.launch) }

/-- A cluster without a context. -/
def Cluster.without (k : Cluster) (ctx : Nat) : Cluster :=
  { k with
    banks := k.banks.map fun b => { b with recs := b.recs.filter (fun r => r.ctx != ctx), spilled := b.spilled.filter (fun r => r.ctx != ctx) }
    taken := k.taken.filter (fun t => t.q.ctx != ctx)
    tlb := k.tlb.filter (fun e => e.ctx != ctx)
    walks := k.walks.filter (fun w => w.ctx != ctx)
    queued := k.queued.filter (fun w => w.ctx != ctx)
    cpq := k.cpq.filter (fun m => m.head.ctx != ctx)
    gtq := k.gtq.filter (fun m => m.head.ctx != ctx) }

/-- A die without a context: its sequences are freed (R276). -/
def Die.without (d : Die) (ctx : Nat) : Die :=
  let d := (d.seqs.filter (fun e => e.2.ctx == ctx)).foldl (fun d e => d.freeSeq e.1) d
  { d with scq := d.scq.filter (fun q => q.head.ctx != ctx), graphs := d.graphs.filter (fun g => g.ctx != ctx) }

/-- A state without a context, its packs, operations, flows, held stores, guards, sequences, records and launches. The bytes of a guard object
that its packs held stay as they are: they lie in its memory, and the spec names no write to them (DESIGN CHOICE, LOG 33). A collective of it whose
TAG has been read still counts (R252); one whose group record the engine could not read by then does not (DESIGN CHOICE, LOG 30). -/
def State.without (s : State) (ctx : Nat) : State :=
  let mine := s.packs.filter fun e => e.2.id.ctx == ctx
  let uids := mine.map fun e => e.2.id.uid
  { s with
    packs := s.packs.filter fun e => e.2.id.ctx != ctx
    cores := s.cores.map fun c => (c.1, (c.2.without ctx ((mine.filter fun e => e.1.1 == c.1).map fun e => e.1.2)).uncached (s.launchesOf ctx))
    clusters := s.clusters.map fun k => (k.1, k.2.without ctx)
    dies := s.dies.map fun d => (d.1, d.2.without ctx)
    ctxs := Table.del s.ctxs ctx
    launches := s.launches.filter fun n => n.2.task.ctx != ctx
    resumes := s.resumes.filter fun r => r.2.id.ctx != ctx
    frames := s.frames.filter fun f => f.2.ctx != ctx
    guardQ := s.guardQ.map fun q => (q.1, q.2.filter fun r => !uids.contains r.uid)
    colls := s.colls.filterMap fun m => if m.head.ctx != ctx then some m else m.leave
    mismatches := s.mismatches.filter fun m => !mine.any fun e => e.1 == (m.core, m.slot)
    journals := [] }

/-- The outstanding launches of a context report code 8 (R281). -/
def reportDestroyed (ctx : Nat) : List Launch → M Unit
  | [] => pure ()
  | n :: r => do
    writeDone ctx n.task.done (n.err.or (some (8, 0)))
    reportDestroyed ctx r

/-- The outstanding graph instances of a context report code 8. -/
def reportInstances (ctx : Nat) : List GraphInst → M Unit
  | [] => pure ()
  | g :: r => do
    writeDone ctx g.doneAt (g.err.or (some (8, 0)))
    reportInstances ctx r

/-- Remove the windows and tiles of a context on cores. -/
def removeWindows (ctx : Nat) : List Nat → M Unit
  | [] => pure ()
  | core :: r => do
    removeWindow ctx core
    releaseTiles ctx core
    removeWindows ctx r

/-- A pack that waited for a context's packs to issue at its YIELD waits no longer (R154). -/
def clearAll (core : Nat) : List Nat → M Unit
  | [] => pure ()
  | u :: r => do modS (·.clearYields core u); clearAll core r

/-- The graph nodes whose launches went with a context have completed with code 8 (R281, R295): an instance of another context goes on from there,
and a submission that waited for room in a bank is looked at again. -/
def destroyedNodes : List Launch → M Unit
  | [] => drainAll
  | n :: r => do
    match n.node with
    | some ref => nodeDone ref (n.err.or (some (8, 0)))
    | none => pure ()
    destroyedNodes r

/-- DESTROY. -/
def execDestroy (c : Command) (s : State) : Host.Outcome State Fault Refusal :=
  command c false true s (do
    numberNow
    let s ← getS
    let ctx := c.ctx.toNat
    let gone := (s.launches.filter fun n => n.2.task.ctx == ctx).map (·.2)
    reportDestroyed ctx gone
    reportInstances ctx ((s.dies.flatMap fun d => d.2.graphs).filter fun g => g.ctx == ctx)
    removeWindows ctx (s.cores.map (·.1))
    modS (·.without ctx)
    for core in s.cores.map (·.1) do
      clearAll core ((s.packs.filter fun e => e.1.1 == core && e.2.id.ctx == ctx).map fun e => e.2.id.uid)
    destroyedNodes gone
    return none)

/-! ### Pre-emption and restore (R309, R313, R315) -/

/-- PREEMPT (R309): the request reaches every resident pack of the context; the blocking instruction of one that is at a boundary is
withdrawn at once (R310 step 1). -/
def execPreempt (c : Command) (s : State) : Host.Outcome State Fault Refusal :=
  command c false true s (do
    let s ← getS
    let ctx := c.ctx.toNat
    let seq := c.op1.toNat
    if (s.ctx ctx).pre ≠ .none then return some 1
    let asked (p : Pack) : Pack := { p with preReq := some seq }
    modS fun s =>
      let s := s.setCtx ctx { s.ctx ctx with pre := .requested seq }
      { s with packs := s.packs.map fun e => if e.2.id.ctx = ctx then (e.1, asked e.2) else e }
    for e in s.packs do
      if e.2.id.ctx = ctx && (asked e.2).takesPre then withdraw e.1.1 e.1.2 e.2.id.uid
    return none)

/-- Is a frame being restored: waiting on a core, or with its pack in the handler? -/
def State.restoring (s : State) (ctx : Nat) (frame : Word) : Bool :=
  s.cores.any (fun c => c.2.waiting.any fun w => w.ctx == ctx && w.frame == frame) ||
    s.packs.any fun e => e.2.id.ctx == ctx &&
      (match e.2.pre with | some r => r.restore && r.frame == frame | none => false)

/-- Does a pre-emption-complete record of a context wait for room in its fault queue (R305, R383)? -/
def Ctx.awaitsRecord (x : Ctx) : Bool := x.fqWaiting.any fun r => r.extractLsb' 192 4 == 2

/-- RESTORE (R341): the context's pre-empted state ends, its releases go on, and a named frame waits on its core. The spec does not say what comes of
one before the pre-emption-complete record has been posted, which is turned away with DETAIL 1 here, or of one that names a frame that does not exist
or is being restored, which has DETAIL 4 (R309, R313; DESIGN CHOICE, LOG 40). -/
def execRestore (c : Command) (s : State) : Host.Outcome State Fault Refusal :=
  command c false true s (do
    let s ← getS
    let ctx := c.ctx.toNat
    let core := c.op2.toNat
    match (s.ctx ctx).pre with
    | .requested _ => return some 1
    | _ =>
      if (s.ctx ctx).awaitsRecord then return some 1
      if c.op1 ≠ 0 && (core ≥ Config.numCores || (Table.get? (s.core core).wins ctx).isNone ||
          (Table.get? s.frames (ctx, c.op1)).isNone || s.restoring ctx c.op1) then return some 4
      if (s.ctx ctx).pre ≠ .none then
        modS fun s =>
          let s := s.setCtx ctx { s.ctx ctx with pre := .none }
          { s with cores := s.cores.map fun k =>
              (k.1, if Table.get? k.2.heelStop ctx = some none then { k.2 with heelStop := Table.del k.2.heelStop ctx } else k.2) }
      if c.op1 ≠ 0 then
        modS fun s => s.setCore core { s.core core with waiting := (s.core core).waiting ++ [{ ctx, frame := c.op1 }] }
      return none)

/-! ### FAULTANS (R228, R304, R305) -/

/-- The index of the operation held on a record, with it. -/
def heldOp {α : Type} (head : α → OpHead) (ctx seq : Nat) (q : List α) : Option (Nat × α) :=
  (q.zipIdx.find? fun e => (head e.1).ctx == ctx && (head e.1).heldOn == some seq).map fun e => (e.2, e.1)

/-- The head of an operation whose record is resolved: it goes on, and looks its pages up again. -/
def OpHead.resume (h : OpHead) : OpHead := { h with heldOn := none, served := [] }

/-- The answer reaches the engine operation that is held on a record: `code` is the record's SOURCE. -/
def answerOp (code core ctx seq : Nat) (resolved : Bool) : M Unit := do
  let s ← getS
  let k := clusterOf core
  let x := s.cluster k
  match code with
  | 2 =>
    match heldOp CopyOp.head ctx seq x.cpq with
    | some (n, m) =>
      if resolved then setS (s.setCluster k { x with cpq := x.cpq.set n { m with head := m.head.resume } })
      else copySettle k n m (← failed m.head 3 (copyLate m))
    | none => pure ()
  | 3 =>
    match heldOp GatherOp.head ctx seq x.gtq with
    | some (n, m) =>
      if resolved then setS (s.setCluster k { x with gtq := x.gtq.set n { m with head := m.head.resume } })
      else gatherSettle k n m (← failed m.head 3 (gatherLate m))
    | none => pure ()
  | 4 =>
    match heldOp MxOp.head ctx seq (s.core core).mxq with
    | some (n, m) =>
      if resolved then setS (s.setCore core { s.core core with mxq := (s.core core).mxq.set n { m with head := m.head.resume } })
      else mxSettle core n m (← failed m.head 3 (mstLate m))
    | none => pure ()
  | 5 => do
    numberNow
    let s ← getS
    match heldOp CollOp.head ctx seq s.colls with
    | some (n, m) =>
      if resolved then setS { s with colls := s.colls.set n { m with head := m.head.resume } }
      else collSettle n m (← failed m.head 3 (collLate m []))
    | none => pure ()
  | _ =>
    match s.dies.find? fun d => (heldOp ScOp.head ctx seq d.2.scq).isSome with
    | some (d, die) =>
      match heldOp ScOp.head ctx seq die.scq with
      | some (n, q) =>
        if resolved then setS (s.setDie d { die with scq := die.scq.set n { q with head := q.head.resume } })
        else scSettle d q (← failed q.head 3 (scLate q)) {}
      | none => pure ()
    | none => pure ()

/-- The answer reaches a pack that is parked on a record (R304). -/
def Pack.answer (p : Pack) (seq : Nat) (resolved : Bool) : Pack :=
  match p.status with
  | .parked n none fetch va => if n = seq then { p with status := .parked n (some resolved) fetch va } else p
  | _ => p

/-- The answer reaches the Heel of a core (R305). -/
def answerHeel (core ctx seq cause : Nat) (va : Word) (resolved : Bool) : M Unit := do
  let s ← getS
  let c := s.core core
  if Table.get? c.heelStop ctx = some (some seq) then
    if resolved then setS (s.setCore core { c with heelStop := Table.del c.heelStop ctx })
    else
      setS (s.setCore core { c with heelStop := Table.set c.heelStop ctx none })
      let n ← nextSeq ctx
      postRecord ctx (contextRecord 1 n 0 cause ctx 0 va)

/-- FAULTANS: the pager's answer to a fault record that has none yet, kept with the record. -/
def execFaultans (c : Command) (s : State) : Host.Outcome State Fault Refusal :=
  command c false true s (do
    let s ← getS
    let ctx := c.ctx.toNat
    let x := s.ctx ctx
    match x.faults.find? fun f => f.1 % 2 ^ 32 == c.op1.toNat && f.2.answer.isNone with
    | none => return some 4
    | some (seq, f) =>
      if c.op2.toNat > 1 then return some 4
      let resolved := c.op2 == 0
      setS (s.setCtx ctx { x with faults := Table.set x.faults seq { f with answer := some resolved } })
      match f.src with
      | .pack _ _ _ =>
        modS fun s => { s with packs := s.packs.map fun e => if e.2.id.ctx = ctx then (e.1, e.2.answer seq resolved) else e }
      | .engine code core _ _ => answerOp code core ctx seq resolved
      | .heel core cause va => answerHeel core ctx seq cause va resolved
      return none)

/-! ### The other commands -/

/-- CANCEL (R275): the sequence's CANCEL bit is set, in one step at its home engine, after an operation that is held on the sequence (R265). -/
def execCancel (c : Command) (s : State) : Host.Outcome State Fault Refusal :=
  command c false true s (do
    let s ← getS
    let id := c.op1.toNat
    match scFind s c.ctx.toNat id with
    | none => return some 4
    | some _ =>
      if s.scHeldOn id then notNow
      setS (s.setDie (scDie id) ((s.die (scDie id)).modSeq (scSlot id) fun q => { q with cancel := true }))
      return none)

/-- WHISTLE (R335). -/
def execWhistle (c : Command) (s : State) : Host.Outcome State Fault Refusal :=
  command c false false s (do
    let _ ← whistle (c.op1.setWidth 32) (c.op1.getLsbD 32) 1 0
    return none)

/-- The key of a host address, which either port serves (R174, R340). -/
def hostPa (a : Nat) : Nat := 2 ^ 50 + a % 2 ^ 49

/-- SNAPSET (R339): the safe tier of each port, the ring of the snapshot log, and the record that reports completed snapshots. While a memory snapshot
is in progress it is turned away with DETAIL 1, which the spec does not say; nor does it name the port that the device reaches the log's ring through,
which is port 0 here (DESIGN CHOICE, LOG 15). -/
def execSnapset (c : Command) (s : State) : Host.Outcome State Fault Refusal :=
  command c true false s (do
    let d := (← getS).dev
    let half := 384 * 2 ^ 30
    let base := c.op3.toNat / 65536 * 65536
    let size := c.op3.toNat % 65536 * 2368
    if c.op1.toNat + half > 2 ^ 49 || c.op2.toNat + half > 2 ^ 49 || base + size > 2 ^ 49 then return some 4
    if d.snapshot.isSome then return some 1
    modDev fun d => { d with
      tier0 := hostPa c.op1.toNat, tier1 := hostPa c.op2.toNat, logBase := hostPa base, logSize := size
      logPosted := 0, logFreed := 0, snapDone := c.done }
    return none)

/-- CTIMEOUT (R252). -/
def execCtimeout (c : Command) (s : State) : Host.Outcome State Fault Refusal :=
  command c true false s (do
    let n := c.op1.toNat
    if n < 2 ^ 20 || 2 ^ 40 < n then return some 4
    modDev fun d => { d with ctimeout := n }
    return none)

/-- BUDGET (R288): firmware's alone, and from any other party an invalid command of DETAIL 4; OP2 holds the core count in bits 15:0 and the share in bits 31:16 (DESIGN CHOICE, LOG 24). -/
def execBudget (c : Command) (s : State) : Host.Outcome State Fault Refusal :=
  command c true false s (do
    let cores := bits c.op2.toNat 15 0
    let share := bits c.op2.toNat 31 16
    if !c.firmware then return some 4
    if c.op1.toNat > 15 || cores > 576 || share < 1 || 256 < share || c.op2.toNat ≥ 2 ^ 32 then return some 4
    modDev fun d => { d with budgets := Table.set d.budgets c.op1.toNat { cores, share, watts := c.op3.toNat } }
    return none)

/-- The HBM bytes that the safe tier holds below the reserved range: those that memory lists in the tier of a port, by their HBM
address. -/
def tierCells (m : Memory) (base port : Nat) : List Host.Cell :=
  (m.filter fun c => base ≤ c.1 && c.1 < base + 384 * 2 ^ 30).filterMap fun c =>
    let off := c.1 - base
    let pa := (off / 65536 * 2 + port) * 65536 + off % 65536
    if pa < Config.hbmMappable then some (pa, c.2) else none

/-- MEMRESTORE: the last complete snapshot comes back into HBM from where the safe tier holds it, below the reserved range (DESIGN CHOICE,
LOG 15). The spec gives DETAIL 1 while a context exists; while a snapshot is in progress the model gives it too (DESIGN CHOICE, LOG 15). -/
def execMemrestore (c : Command) (s : State) : Host.Outcome State Fault Refusal :=
  command c false false s (do
    let s ← getS
    let d := s.dev
    if s.ctxs ≠ [] || d.snapshot.isSome then return some 1
    match d.tierWhole with
    | none => return some 4
    | some (t0, t1) =>
      wipeKeys 0 Config.hbmMappable
      for x in tierCells s.mem t0 0 ++ tierCells s.mem t1 1 do storeKey x.1 x.2
      let kept (w : Nat) : Bool := Config.hbmMappable ≤ 32 * w
      modS fun s => { s with hbmPoison := s.hbmPoison.filter kept, hbmUe := s.hbmUe.filter kept }
      return none)

end Sys2Proof.Machine
end

