-- ==== Sys2Proof/Machine/Bringup.lean ====
section
/-! DEFINITION. Power-on, bring-up, attestation, power and cooling, and what peer devices do to this device's HBM
(spec/14_dies_and_devices.md R333, R343-R345). -/

namespace Sys2Proof.Machine

/-! ### Power-on and service (R343) -/

/-- Memory that a reset of the module leaves as it is: the host's and the peers'. -/
def outsideMemory (m : Memory) : Memory := m.filter fun c => 2 ^ 50 ≤ c.1 && c.1 < 2 ^ 52

/-- POWER_ON_RESET: the device is in Boot, as `State.reset` has it. Host and peer memory, the agenda and the model's own counters
are not the device's. -/
def execPowerOnReset (s : State) : Host.Outcome State Fault Refusal :=
  .next { State.reset with agenda := s.agenda, free := s.free, fresh := s.fresh, mem := outsideMemory s.mem }

/-- The host ports train as firmware selects, both at once (R340; DESIGN CHOICE, LOG 47). -/
def trainPorts (d : Device) : Device :=
  if d.service = .boot then { d with ports := [0, 1], cxl := [0, 1].filter Config.portIsCxl } else d

/-- FIRMWARE_IMAGE_LOAD: an image whose signature verifies is accepted and measured, any other leaves the device in state 3, in reduced
service at 470 MHz. From Boot the device goes on to reduced service; firmware gives it its domain and index (R333). DEDUCED: LOG 37. -/
def execFirmwareImageLoad (verified : Bool) (digest : BitVec 256) (s : State) : Host.Outcome State Fault Refusal :=
  event s (do
    if verified then
      modDev fun d => { trainPorts d with
        service := if d.service = .boot then .reduced else d.service
        firmware := digest
        domain := Config.deviceDomain % 64
        index := Config.deviceIndex % 144 }
    else
      modDev fun d => { trainPorts d with service := .failed, mhz := 470 }
      logOn 0 .imageRejected)

/-! ### The management BAR (R340, R343) -/

/-- SERVICE as the status page shows it (R343). -/
def Service.code : Service → Nat
  | .boot => 0 | .reduced => 1 | .full => 2 | .failed => 3

/-- The fields of the identity and status page (R340): identity, domain, index, SERVICE, the token capacity of each die's Scent index, and
the head of each die's error log. -/
def State.statusFields (s : State) : List Nat :=
  [Config.deviceIdentity, s.dev.domain, s.dev.index, s.dev.service.code] ++ (List.range Config.numDies).map Config.scentCapacity ++
    (List.range Config.numDies).map fun d => (s.die d).errors.length

/-- What a host reads at an offset of the management BAR (R340): zero in Boot (R343) and outside the assigned parts; where the page's fields
stand, and what the windows read as, are free values (DESIGN CHOICE, LOG 47). -/
def State.barRead (s : State) (off : Nat) : Byte :=
  if s.dev.service = .boot || !barAssigned off then 0
  else if off < 0x1000 then Config.statusByte s.statusFields off
  else Config.windowByte off

/-- ENTER_FULL_SERVICE: every stack has trained and every die has passed self-test, or the device fails. Every scratchpad is then
initialised by R171. -/
def execEnterFullService (passed : Bool) (s : State) : Host.Outcome State Fault Refusal :=
  event s (do
    if (← getS).dev.service ≠ .reduced then notNow
    if passed then
      modDev fun d => { d with service := .full, mhz := 940 }
      wipeKeys (scratchKey 0 0) (Config.numCores * 2 ^ 20)
      modS fun s => { s with granEmpty := [], granPoison := [], granUe := [] }
    else
      modDev fun d => { d with service := .failed }
      logOn 0 .selfTest)

/-! ### Attestation (R344) -/

/-- An answer over the DOE mailbox, in states 1, 2 and 3. DESIGN CHOICE: LOG 14. -/
def spdm (s : State) (answer : Device → Answer) : Host.Outcome State Fault Refusal :=
  event s (do
    if (← getS).dev.service = .boot then notNow
    modDev fun d => { d with answers := d.answers ++ [answer d] })

/-- GET_VERSION: SPDM 1.3. -/
def execGetVersion (s : State) : Host.Outcome State Fault Refusal := spdm s fun _ => .version 1 3
/-- GET_CAPABILITIES: no key exchange. -/
def execGetCapabilities (s : State) : Host.Outcome State Fault Refusal := spdm s fun _ => .capabilities false
/-- NEGOTIATE_ALGORITHMS. -/
def execNegotiateAlgorithms (s : State) : Host.Outcome State Fault Refusal := spdm s fun _ => .algorithms "RSASSA-3072" "SHA-256"
/-- GET_DIGESTS. -/
def execGetDigests (s : State) : Host.Outcome State Fault Refusal := spdm s fun _ => .digests Config.certDigest
/-- GET_CERTIFICATE. -/
def execGetCertificate (s : State) : Host.Outcome State Fault Refusal := spdm s fun _ => .certificate Config.certChain
/-- CHALLENGE. -/
def execChallenge (nonce : BitVec 256) (s : State) : Host.Outcome State Fault Refusal :=
  spdm s fun _ => .challenge (Config.challengeSignature nonce)
/-- GET_MEASUREMENTS: the boot ROM, the firmware image and the fuses. -/
def execGetMeasurements (s : State) : Host.Outcome State Fault Refusal :=
  spdm s fun d => .measurements Config.bootRomDigest d.firmware Config.fuseDigest

/-! ### Power and cooling (R345) -/

/-- THROTTLE: one step of 47 MHz of every die's arithmetic clock, between 470 and 940 MHz. -/
def execThrottle (lower : Bool) (s : State) : Host.Outcome State Fault Refusal :=
  event s (do
    if (← getS).dev.service ≠ .full then notNow
    modDev fun d => { d with mhz := if lower then max 470 (d.mhz - 47) else min 940 (d.mhz + 47) })

/-- THERMAL_TRIP: every die stops until a module reset, and the error log has a fatal record. -/
def execThermalTrip (s : State) : Host.Outcome State Fault Refusal :=
  event s (do
    logOn 0 .thermalTrip
    modDev fun d => { d with tripped := true })

/-! ### Peer accesses (R90, R176, R333) -/

/-- The operation and the type of a peer's read-modify-write of 4 or 8 bytes, by the codes of R212 and R37; none for another access. -/
def peerCode (op : PeerOp) (size : Nat) : Option (Nat × BitVec 4) :=
  let int (signed : Bool) : BitVec 4 := if size = 4 then (if signed then 0 else 1) else if signed then 2 else 3
  match op with
  | .swap => some (0, int false)
  | .add => some (1, int false)
  | .and => some (2, int false)
  | .or => some (3, int false)
  | .xor => some (4, int false)
  | .min b => some (5, int b)
  | .max b => some (6, int b)
  | .cas => some (7, int false)
  | .addF => if size = 4 then some (1, 8) else none
  | .minF => if size = 4 then some (5, 8) else none
  | .maxF => if size = 4 then some (6, 8) else none
  | _ => none

/-- A peer writes a run of bytes inside a 4 KiB frame: good data clears the poison of the words that it covers whole, and poisoned data
poisons the words that it touches (R319). -/
def peerWrite (loc : Nat) (bs : List Byte) (poisoned : Bool) : M Unit := do
  putKeys none loc bs
  if poisoned then
    let units := (List.range bs.length).map fun i => MemUnit.hbm ((loc + i) / 32)
    modify fun w => { w with marks := units ++ w.marks }

/-- A peer's guard operation (R199, R215): its request joins the queue; a release takes effect at once. The guard's mode says which hold it
gives back. -/
def peerGuard (peer loc : Nat) : PeerOp → M Unit
  | .acquire who excl =>
    let r : GuardReq := { core := Config.numCores + peer, slot := who, uid := 0, excl, addr := 0 }
    modS fun s => { s with guardQ := Table.set s.guardQ loc (Table.getD s.guardQ loc [] ++ [r]) }
  | .release _ => do
    let g := parseGuard (leNat (← loadKeys loc 16))
    putKeys none loc (g.release g.excl).bytes
  | _ => pure ()

/-- PEER_ACCESS: an access of a peer of the domain that a plane still joins to the device (R334), to HBM that contexts can map: of 1, 2, 4 or 8
bytes, aligned; a read-modify-write of 4 or 8 bytes; a run of bytes; a guard of 16 bytes. Its port's die meets the home die, and the peer may
act at any port afterwards (R338; LOG 46). -/
def execPeerAccess (loc : PeerLoc) (op : PeerOp) (data cmp : Word) (size : Nat) (s : State) : Host.Outcome State Fault Refusal :=
  event s (do
    let d := (← getS).dev
    if d.service ≠ .full || loc.peer ≥ 144 || loc.peer = d.index || d.cutOff loc.peer || loc.addr ≥ Config.hbmMappable then notNow
    meet (Config.zarrakDie (loc.addr / 4096) % 4) (keyDie loc.addr)
    spread (keyDie loc.addr)
    match op with
    | .writeBytes bs poisoned =>
      if bs = [] || loc.addr % 4096 + bs.length > 4096 then notNow
      peerWrite loc.addr bs poisoned
    | .acquire _ _ | .release _ =>
      if loc.addr % 16 ≠ 0 then notNow
      peerGuard loc.peer loc.addr op
    | .read => if !List.contains [1, 2, 4, 8] size || loc.addr % size ≠ 0 then notNow
    | .write =>
      if !List.contains [1, 2, 4, 8] size || loc.addr % size ≠ 0 then notNow
      peerWrite loc.addr (leBytes size data.toNat) false
    | _ =>
      if !List.contains [4, 8] size || loc.addr % size ≠ 0 then notNow
      match peerCode op size with
      | none => notNow
      | some (f, t) =>
        let old := leNat (← loadKeys loc.addr size)
        match atomicOp f t old (data.toNat % 256 ^ size) (cmp.toNat % 256 ^ size) with
        | some x => peerWrite loc.addr (leBytes size x) false
        | none => pure ())

end Sys2Proof.Machine
end

