-- ==== Sys2Proof/Machine/ScalarFloat.lean ====
section
/-! DEFINITION. The scalar floating instructions (spec/04_scalar_instructions.md R84-R87). -/

namespace Sys2Proof.Machine

/-- The low bits of a register that hold a value of a type (R84). -/
def lowBits (t : BitVec 4) (a : Word) : Nat := a.toNat % 2 ^ typeBits t

/-- A result in the low bits of a register, zeros above (R84). -/
def toWord (x : Nat) : Word := BitVec.ofNat 64 x

/-- FADD (R84). -/
def execFadd (o : Opnd) (s : State) : Host.Outcome State Fault Refusal :=
  scalarAB o (fun a b => toWord ((fmtOf o.f).add o.x.rm.toNat (lowBits o.f a) (lowBits o.f b))) s
/-- FSUB (R84). -/
def execFsub (o : Opnd) (s : State) : Host.Outcome State Fault Refusal :=
  scalarAB o (fun a b => toWord ((fmtOf o.f).sub o.x.rm.toNat (lowBits o.f a) (lowBits o.f b))) s
/-- FMUL (R84). -/
def execFmul (o : Opnd) (s : State) : Host.Outcome State Fault Refusal :=
  scalarAB o (fun a b => toWord ((fmtOf o.f).mul o.x.rm.toNat (lowBits o.f a) (lowBits o.f b))) s
/-- FFMA (R84). -/
def execFfma (o : Opnd) (s : State) : Host.Outcome State Fault Refusal :=
  scalarABC o (fun a b c => toWord ((fmtOf o.f).fma o.x.rm.toNat (lowBits o.f a) (lowBits o.f b) (lowBits o.f c))) s
/-- FDIV (R84). -/
def execFdiv (o : Opnd) (s : State) : Host.Outcome State Fault Refusal :=
  scalarAB o (fun a b => toWord ((fmtOf o.f).div o.x.rm.toNat (lowBits o.f a) (lowBits o.f b))) s
/-- FSQRT (R84). -/
def execFsqrt (o : Opnd) (s : State) : Host.Outcome State Fault Refusal :=
  scalarA o (fun a => toWord ((fmtOf o.f).sqrt o.x.rm.toNat (lowBits o.f a))) s
/-- FMIN (R84, R56). -/
def execFmin (o : Opnd) (s : State) : Host.Outcome State Fault Refusal :=
  scalarAB o (fun a b => toWord ((fmtOf o.f).pick false (lowBits o.f a) (lowBits o.f b))) s
/-- FMAX (R84, R56). -/
def execFmax (o : Opnd) (s : State) : Host.Outcome State Fault Refusal :=
  scalarAB o (fun a b => toWord ((fmtOf o.f).pick true (lowBits o.f a) (lowBits o.f b))) s
/-- FSETC (R85): the type is TY2, f32 in a base word. -/
def execFsetc (o : Opnd) (s : State) : Host.Outcome State Fault Refusal :=
  scalarAB o (fun a b =>
    if floatCond o.f.toNat (fmtOf (o.ty2D 8)) (lowBits (o.ty2D 8) a) (lowBits (o.ty2D 8) b) then 1 else 0) s
/-- The result of FCVT in a general register: an i32 sign-extended (R86). -/
def fcvtWord (td ts : BitVec 4) (rm : Nat) (a : Word) : Word :=
  let r := convert td ts rm false (lowBits ts a)
  if isSignedType td then BitVec.ofInt 64 (intVal td r) else toWord r
/-- FCVT (R86). -/
def execFcvt (o : Opnd) (s : State) : Host.Outcome State Fault Refusal :=
  scalarA o (fcvtWord o.f o.x.ty2 o.x.rm.toNat) s
/-- FCLASS (R87). -/
def execFclass (o : Opnd) (s : State) : Host.Outcome State Fault Refusal :=
  scalarA o (fun a => toWord ((fmtOf o.f).classOf (lowBits o.f a))) s

end Sys2Proof.Machine
end

