-- ==== Sys2Proof/Machine/Dispatch.lean ====
section
/-! DEFINITION. The dispatch: one arm per constructor of Instr, each one direct call of its meaning. -/

namespace Sys2Proof.Machine

/-- The meaning of an instruction, an event or a command. -/
def exec (i : Instr) (s : State) : Host.Outcome State Fault Refusal :=
  match i with
  | .add o => Sys2Proof.Machine.execAdd o s
  | .sub o => Sys2Proof.Machine.execSub o s
  | .mul o => Sys2Proof.Machine.execMul o s
  | .mulh o => Sys2Proof.Machine.execMulh o s
  | .div o => Sys2Proof.Machine.execDiv o s
  | .rem o => Sys2Proof.Machine.execRem o s
  | .min o => Sys2Proof.Machine.execMin o s
  | .max o => Sys2Proof.Machine.execMax o s
  | .and o => Sys2Proof.Machine.execAnd o s
  | .or o => Sys2Proof.Machine.execOr o s
  | .xor o => Sys2Proof.Machine.execXor o s
  | .andn o => Sys2Proof.Machine.execAndn o s
  | .shl o => Sys2Proof.Machine.execShl o s
  | .shr o => Sys2Proof.Machine.execShr o s
  | .sar o => Sys2Proof.Machine.execSar o s
  | .rol o => Sys2Proof.Machine.execRol o s
  | .clz o => Sys2Proof.Machine.execClz o s
  | .ctz o => Sys2Proof.Machine.execCtz o s
  | .popc o => Sys2Proof.Machine.execPopc o s
  | .brev o => Sys2Proof.Machine.execBrev o s
  | .sext o => Sys2Proof.Machine.execSext o s
  | .zext o => Sys2Proof.Machine.execZext o s
  | .bfx o => Sys2Proof.Machine.execBfx o s
  | .bfi o => Sys2Proof.Machine.execBfi o s
  | .setc o => Sys2Proof.Machine.execSetc o s
  | .sel o => Sys2Proof.Machine.execSel o s
  | .lea o => Sys2Proof.Machine.execLea o s
  | .mov o => Sys2Proof.Machine.execMov o s
  | .br o => Sys2Proof.Machine.execBr o s
  | .bz o => Sys2Proof.Machine.execBz o s
  | .bnz o => Sys2Proof.Machine.execBnz o s
  | .bcc o => Sys2Proof.Machine.execBcc o s
  | .call o => Sys2Proof.Machine.execCall o s
  | .callr o => Sys2Proof.Machine.execCallr o s
  | .jmp o => Sys2Proof.Machine.execJmp o s
  | .ret o => Sys2Proof.Machine.execRet o s
  | .loop o => Sys2Proof.Machine.execLoop o s
  | .fadd o => Sys2Proof.Machine.execFadd o s
  | .fsub o => Sys2Proof.Machine.execFsub o s
  | .fmul o => Sys2Proof.Machine.execFmul o s
  | .ffma o => Sys2Proof.Machine.execFfma o s
  | .fdiv o => Sys2Proof.Machine.execFdiv o s
  | .fsqrt o => Sys2Proof.Machine.execFsqrt o s
  | .fmin o => Sys2Proof.Machine.execFmin o s
  | .fmax o => Sys2Proof.Machine.execFmax o s
  | .fsetc o => Sys2Proof.Machine.execFsetc o s
  | .fcvt o => Sys2Proof.Machine.execFcvt o s
  | .fclass o => Sys2Proof.Machine.execFclass o s
  | .ld o => Sys2Proof.Machine.execLd o s
  | .st o => Sys2Proof.Machine.execSt o s
  | .amo o => Sys2Proof.Machine.execAmo o s
  | .vadd o => Sys2Proof.Machine.execVadd o s
  | .vsub o => Sys2Proof.Machine.execVsub o s
  | .vmul o => Sys2Proof.Machine.execVmul o s
  | .vmulh o => Sys2Proof.Machine.execVmulh o s
  | .vmad o => Sys2Proof.Machine.execVmad o s
  | .vmin o => Sys2Proof.Machine.execVmin o s
  | .vmax o => Sys2Proof.Machine.execVmax o s
  | .vabs o => Sys2Proof.Machine.execVabs o s
  | .vneg o => Sys2Proof.Machine.execVneg o s
  | .vand o => Sys2Proof.Machine.execVand o s
  | .vor o => Sys2Proof.Machine.execVor o s
  | .vxor o => Sys2Proof.Machine.execVxor o s
  | .vnot o => Sys2Proof.Machine.execVnot o s
  | .vshl o => Sys2Proof.Machine.execVshl o s
  | .vshr o => Sys2Proof.Machine.execVshr o s
  | .vsar o => Sys2Proof.Machine.execVsar o s
  | .vclz o => Sys2Proof.Machine.execVclz o s
  | .vpopc o => Sys2Proof.Machine.execVpopc o s
  | .vbfx o => Sys2Proof.Machine.execVbfx o s
  | .vbfi o => Sys2Proof.Machine.execVbfi o s
  | .vsetc o => Sys2Proof.Machine.execVsetc o s
  | .vsel o => Sys2Proof.Machine.execVsel o s
  | .vsat o => Sys2Proof.Machine.execVsat o s
  | .vmov o => Sys2Proof.Machine.execVmov o s
  | .vmovx o => Sys2Proof.Machine.execVmovx o s
  | .vmovxw o => Sys2Proof.Machine.execVmovxw o s
  | .vbytp o => Sys2Proof.Machine.execVbytp o s
  | .vfadd o => Sys2Proof.Machine.execVfadd o s
  | .vfsub o => Sys2Proof.Machine.execVfsub o s
  | .vfmul o => Sys2Proof.Machine.execVfmul o s
  | .vffma o => Sys2Proof.Machine.execVffma o s
  | .vfmin o => Sys2Proof.Machine.execVfmin o s
  | .vfmax o => Sys2Proof.Machine.execVfmax o s
  | .vfsetc o => Sys2Proof.Machine.execVfsetc o s
  | .vfdiv o => Sys2Proof.Machine.execVfdiv o s
  | .vfsqrt o => Sys2Proof.Machine.execVfsqrt o s
  | .vrcp o => Sys2Proof.Machine.execVrcp o s
  | .vrsq o => Sys2Proof.Machine.execVrsq o s
  | .vexp2 o => Sys2Proof.Machine.execVexp2 o s
  | .vlog2 o => Sys2Proof.Machine.execVlog2 o s
  | .vsin o => Sys2Proof.Machine.execVsin o s
  | .vcos o => Sys2Proof.Machine.execVcos o s
  | .vtanh o => Sys2Proof.Machine.execVtanh o s
  | .vcvt o => Sys2Proof.Machine.execVcvt o s
  | .vfclass o => Sys2Proof.Machine.execVfclass o s
  | .venc o => Sys2Proof.Machine.execVenc o s
  | .vdec o => Sys2Proof.Machine.execVdec o s
  | .vbpt o => Sys2Proof.Machine.execVbpt o s
  | .vperm o => Sys2Proof.Machine.execVperm o s
  | .vshfx o => Sys2Proof.Machine.execVshfx o s
  | .vbcast o => Sys2Proof.Machine.execVbcast o s
  | .vballot o => Sys2Proof.Machine.execVballot o s
  | .vscan o => Sys2Proof.Machine.execVscan o s
  | .vred o => Sys2Proof.Machine.execVred o s
  | .velect o => Sys2Proof.Machine.execVelect o s
  | .vrnd o => Sys2Proof.Machine.execVrnd o s
  | .kmov o => Sys2Proof.Machine.execKmov o s
  | .kop o => Sys2Proof.Machine.execKop o s
  | .kpop o => Sys2Proof.Machine.execKpop o s
  | .pmov o => Sys2Proof.Machine.execPmov o s
  | .pop o => Sys2Proof.Machine.execPop o s
  | .wid o => Sys2Proof.Machine.execWid o s
  | .laneid o => Sys2Proof.Machine.execLaneid o s
  | .vbr o => Sys2Proof.Machine.execVbr o s
  | .vbrd o => Sys2Proof.Machine.execVbrd o s
  | .recv o => Sys2Proof.Machine.execRecv o s
  | .vbrk o => Sys2Proof.Machine.execVbrk o s
  | .issv o => Sys2Proof.Machine.execIssv o s
  | .flow o => Sys2Proof.Machine.execFlow o s
  | .frelab o => Sys2Proof.Machine.execFrelab o s
  | .fdone o => Sys2Proof.Machine.execFdone o s
  | .bari o => Sys2Proof.Machine.execBari o s
  | .bara o => Sys2Proof.Machine.execBara o s
  | .barw o => Sys2Proof.Machine.execBarw o s
  | .bart o => Sys2Proof.Machine.execBart o s
  | .yield o => Sys2Proof.Machine.execYield o s
  | .endItems o => Sys2Proof.Machine.execEndItems o s
  | .vld o => Sys2Proof.Machine.execVld o s
  | .vst o => Sys2Proof.Machine.execVst o s
  | .vldx o => Sys2Proof.Machine.execVldx o s
  | .vstx o => Sys2Proof.Machine.execVstx o s
  | .lds o => Sys2Proof.Machine.execLds o s
  | .sts o => Sys2Proof.Machine.execSts o s
  | .vatom o => Sys2Proof.Machine.execVatom o s
  | .xchl o => Sys2Proof.Machine.execXchl o s
  | .acq o => Sys2Proof.Machine.execAcq o s
  | .rel o => Sys2Proof.Machine.execRel o s
  | .bind o => Sys2Proof.Machine.execBind o s
  | .unbind o => Sys2Proof.Machine.execUnbind o s
  | .fence o => Sys2Proof.Machine.execFence o s
  | .grow o => Sys2Proof.Machine.execGrow o s
  | .shrink o => Sys2Proof.Machine.execShrink o s
  | .pref o => Sys2Proof.Machine.execPref o s
  | .hld o => Sys2Proof.Machine.execHld o s
  | .hrd o => Sys2Proof.Machine.execHrd o s
  | .femk o => Sys2Proof.Machine.execFemk o s
  | .cpy o => Sys2Proof.Machine.execCpy o s
  | .cpym o => Sys2Proof.Machine.execCpym o s
  | .gth o => Sys2Proof.Machine.execGth o s
  | .mma o => Sys2Proof.Machine.execMma o s
  | .mmas o => Sys2Proof.Machine.execMmas o s
  | .mzero o => Sys2Proof.Machine.execMzero o s
  | .mld o => Sys2Proof.Machine.execMld o s
  | .mst o => Sys2Proof.Machine.execMst o s
  | .manc o => Sys2Proof.Machine.execManc o s
  | .mclose o => Sys2Proof.Machine.execMclose o s
  | .wait o => Sys2Proof.Machine.execWait o s
  | .astat o => Sys2Proof.Machine.execAstat o s
  | .coll o => Sys2Proof.Machine.execColl o s
  | .scnew o => Sys2Proof.Machine.execScnew o s
  | .scfree o => Sys2Proof.Machine.execScfree o s
  | .scqry o => Sys2Proof.Machine.execScqry o s
  | .scapp o => Sys2Proof.Machine.execScapp o s
  | .scml o => Sys2Proof.Machine.execScml o s
  | .scsave o => Sys2Proof.Machine.execScsave o s
  | .scload o => Sys2Proof.Machine.execScload o s
  | .scatt o => Sys2Proof.Machine.execScatt o s
  | .scdet o => Sys2Proof.Machine.execScdet o s
  | .sccap o => Sys2Proof.Machine.execSccap o s
  | .launch o => Sys2Proof.Machine.execLaunch o s
  | .enq o => Sys2Proof.Machine.execEnq o s
  | .grun o => Sys2Proof.Machine.execGrun o s
  | .gcommit o => Sys2Proof.Machine.execGcommit o s
  | .nop o => Sys2Proof.Machine.execNop o s
  | .srd o => Sys2Proof.Machine.execSrd o s
  | .swr o => Sys2Proof.Machine.execSwr o s
  | .trap o => Sys2Proof.Machine.execTrap o s
  | .eret o => Sys2Proof.Machine.execEret o s
  | .region o => Sys2Proof.Machine.execRegion o s
  | .chkerr o => Sys2Proof.Machine.execChkerr o s
  | .tlbw o => Sys2Proof.Machine.execTlbw o s
  | .tlbinv o => Sys2Proof.Machine.execTlbinv o s
  | .fresume o => Sys2Proof.Machine.execFresume o s
  | .snapt o => Sys2Proof.Machine.execSnapt o s
  | .repackWindowClose core n => Sys2Proof.Machine.execRepackWindowClose core n s
  | .barrierWaitRelease core slot => Sys2Proof.Machine.execBarrierWaitRelease core slot s
  | .fullGranuleWaitRelease core slot => Sys2Proof.Machine.execFullGranuleWaitRelease core slot s
  | .engineWaitRelease core slot => Sys2Proof.Machine.execEngineWaitRelease core slot s
  | .registerFill core slot n => Sys2Proof.Machine.execRegisterFill core slot n s
  | .guardGrant loc => Sys2Proof.Machine.execGuardGrant loc s
  | .growGrant core slot => Sys2Proof.Machine.execGrowGrant core slot s
  | .growDeadlockPreempt core => Sys2Proof.Machine.execGrowDeadlockPreempt core s
  | .kennelPackRestore core slot => Sys2Proof.Machine.execKennelPackRestore core slot s
  | .leashAdmit core slot => Sys2Proof.Machine.execLeashAdmit core slot s
  | .hostSubmission cluster off size data => Sys2Proof.Machine.execHostSubmission cluster off size data s
  | .bankSpill cluster bank => Sys2Proof.Machine.execBankSpill cluster bank s
  | .bankRefill cluster bank => Sys2Proof.Machine.execBankRefill cluster bank s
  | .kennelTakeRecord cluster => Sys2Proof.Machine.execKennelTakeRecord cluster s
  | .argumentBlockRead launch => Sys2Proof.Machine.execArgumentBlockRead launch s
  | .packStart cluster core slot n => Sys2Proof.Machine.execPackStart cluster core slot n s
  | .gangStart cluster core n => Sys2Proof.Machine.execGangStart cluster core n s
  | .heelRelease core n => Sys2Proof.Machine.execHeelRelease core n s
  | .launchCompletion launch => Sys2Proof.Machine.execLaunchCompletion launch s
  | .tlbWalkComplete cluster n => Sys2Proof.Machine.execTlbWalkComplete cluster n s
  | .walkerStart core => Sys2Proof.Machine.execWalkerStart core s
  | .copyComplete cluster n => Sys2Proof.Machine.execCopyComplete cluster n s
  | .gatherComplete cluster n => Sys2Proof.Machine.execGatherComplete cluster n s
  | .matrixAfterObserve core n => Sys2Proof.Machine.execMatrixAfterObserve core n s
  | .matrixOpExecute core n => Sys2Proof.Machine.execMatrixOpExecute core n s
  | .matrixBatchRetire core slot => Sys2Proof.Machine.execMatrixBatchRetire core slot s
  | .collComplete n peers => Sys2Proof.Machine.execCollComplete n peers s
  | .collTimeout n => Sys2Proof.Machine.execCollTimeout n s
  | .scentSerialPoint die n => Sys2Proof.Machine.execScentSerialPoint die n s
  | .faultRecordPost ctx => Sys2Proof.Machine.execFaultRecordPost ctx s
  | .parkedReplay core slot => Sys2Proof.Machine.execParkedReplay core slot s
  | .watchdogExpiry core slot => Sys2Proof.Machine.execWatchdogExpiry core slot s
  | .preemptionEntry core slot => Sys2Proof.Machine.execPreemptionEntry core slot s
  | .preemptionComplete ctx => Sys2Proof.Machine.execPreemptionComplete ctx s
  | .restoreEntry core n slot => Sys2Proof.Machine.execRestoreEntry core n slot s
  | .regionRestart core slot => Sys2Proof.Machine.execRegionRestart core slot s
  | .strikeReport zone => Sys2Proof.Machine.execStrikeReport zone s
  | .scrubError unit => Sys2Proof.Machine.execScrubError unit s
  | .planeLoss plane => Sys2Proof.Machine.execPlaneLoss plane s
  | .whistlePin => Sys2Proof.Machine.execWhistlePin s
  | .snapshotLatch die => Sys2Proof.Machine.execSnapshotLatch die s
  | .snapshotCopyOnWrite block => Sys2Proof.Machine.execSnapshotCopyOnWrite block s
  | .snapshotSweep => Sys2Proof.Machine.execSnapshotSweep s
  | .snapshotComplete => Sys2Proof.Machine.execSnapshotComplete s
  | .create c => Sys2Proof.Machine.execCreate c s
  | .destroy c => Sys2Proof.Machine.execDestroy c s
  | .place c => Sys2Proof.Machine.execPlace c s
  | .preempt c => Sys2Proof.Machine.execPreempt c s
  | .restore c => Sys2Proof.Machine.execRestore c s
  | .faultans c => Sys2Proof.Machine.execFaultans c s
  | .cancel c => Sys2Proof.Machine.execCancel c s
  | .whistle c => Sys2Proof.Machine.execWhistle c s
  | .snapset c => Sys2Proof.Machine.execSnapset c s
  | .ctimeout c => Sys2Proof.Machine.execCtimeout c s
  | .budget c => Sys2Proof.Machine.execBudget c s
  | .memrestore c => Sys2Proof.Machine.execMemrestore c s
  | .invalidCommand code c => Sys2Proof.Machine.execInvalidCommand code c s
  | .mgmtWriteDiscarded off => Sys2Proof.Machine.execMgmtWriteDiscarded off s
  | .powerOnReset => Sys2Proof.Machine.execPowerOnReset s
  | .firmwareImageLoad verified digest => Sys2Proof.Machine.execFirmwareImageLoad verified digest s
  | .enterFullService passed => Sys2Proof.Machine.execEnterFullService passed s
  | .getVersion => Sys2Proof.Machine.execGetVersion s
  | .getCapabilities => Sys2Proof.Machine.execGetCapabilities s
  | .negotiateAlgorithms => Sys2Proof.Machine.execNegotiateAlgorithms s
  | .getDigests => Sys2Proof.Machine.execGetDigests s
  | .getCertificate => Sys2Proof.Machine.execGetCertificate s
  | .challenge nonce => Sys2Proof.Machine.execChallenge nonce s
  | .getMeasurements => Sys2Proof.Machine.execGetMeasurements s
  | .throttle lower => Sys2Proof.Machine.execThrottle lower s
  | .thermalTrip => Sys2Proof.Machine.execThermalTrip s
  | .peerAccess loc op data cmp size => Sys2Proof.Machine.execPeerAccess loc op data cmp size s
  | .pagerInvalidation ctx page => Sys2Proof.Machine.execPagerInvalidation ctx page s
  | .faultQueueDrain ctx n => Sys2Proof.Machine.execFaultQueueDrain ctx n s
  | .snapshotLogDrain n => Sys2Proof.Machine.execSnapshotLogDrain n s
  | .hostPortFailure port => Sys2Proof.Machine.execHostPortFailure port s
  | .flitCrcError port => Sys2Proof.Machine.execFlitCrcError port s

end Sys2Proof.Machine
end

