-- ==== Sys2Proof/Machine/Fetch.lean ====
section
/-! DEFINITION. Fetch, the issue of one instruction with all that stands around its meaning, and the choice of the pack that issues
(spec/01_sequential_machine.md R11; spec/02_encoding.md R45, R46; spec/12_scheduling.md R289-R291;
spec/13_faults_and_preemption.md R306, R318). -/

namespace Sys2Proof.Machine

/-! ### Fetch (R11) -/

/-- What the packs of a launch fetch for a code word: the copy that the core gives out, of a word that has been written since the launch started, or
what memory holds (R29; DESIGN CHOICE, LOG 2). -/
def codeWord (c : Core) (launch k : Nat) (now : Half) : Half :=
  match c.code.find? fun e => e.launch == launch && e.key == k with
  | some e => (e.use.bind fun n => e.copies[n]?).getD now
  | none => now

/-- The 32-bit word at an address, fetched for the issuing pack. -/
def fetchWord (va : Nat) : M Half := do
  if va ≥ 2 ^ 57 then throw (.pageFault (BitVec.ofNat 64 va) 1 Acc.ex.kind none)
  let k ← translate .ex va
  let now := BitVec.ofNat 32 (leNat (← loadKeys k 4))
  let c := (← getS).core (← getWho).core
  return codeWord c (← getP).id.launch k now

/-- The words of the instruction at PC. DEDUCED: LOG 38. -/
def fetchHalves (pc : Word) : M (List Half) := do
  if pc.toNat ≥ 2 ^ 57 then trapM 0x05 pc
  if pc.toNat % 4 ≠ 0 then trapM 0x06 pc
  let w0 ← fetchWord pc.toNat
  let rest ← (List.range (lenOf (lOf w0) / 4 - 1)).mapM fun i => fetchWord (pc.toNat + 4 * (i + 1))
  return w0 :: rest

/-- The instruction at the issuing pack's PC, or the first word of one that is illegal. -/
def fetchInstr : M (Except Half Instr) := do
  let hs ← fetchHalves (← getP).pc
  match decodeHalves hs with
  | .ok i => return .ok i
  | .error _ => return .error (hs.headD 0)

/-- What a fetch gives. -/
inductive Fetched where
  | instr (i : Instr)
  | illegal (w : Half)
  | stop (e : Stop)
deriving DecidableEq, Repr

/-- The fetch of the issuing pack. -/
def fetch (s : State) : Fetched :=
  match s.cur, s.curPack? with
  | some k, some p =>
    match fetchInstr (startW s (issuer k p) (.nop {})) with
    | .ok (.ok i) _ => .instr i
    | .ok (.error w) _ => .illegal w
    | .error e _ => .stop e
  | _, _ => .stop (.code 0)

/-- What the pack that is issuing comes to: the instruction of which a part has been done, or what the fetch gives. DEDUCED: LOG 40. -/
def coming (s : State) (p : Pack) : Fetched :=
  match p.prog.begun with
  | some i => .instr i
  | none => fetch s

/-! ### The instruction and what stands around its meaning -/

/-- The mismatch that an instruction meets (R318); an ISSV's lanes meet theirs in their groups. -/
def mismatchAt (s : State) (core slot : Nat) (p : Pack) (i : Instr) : Option Mismatch :=
  match i with
  | .issv _ => none
  | _ =>
    if isLane i then mismatchFor s core slot fun l => l.any fun l => (p.part (opndOf i)).getLsbD l
    else mismatchFor s core slot (·.isNone)

/-- Does every register that an instruction covers lie below the pack's allotment (R35)? -/
def allotted (p : Pack) (i : Instr) : Bool :=
  ((formOf i).all fun fm => allotOk fm (opndOf i) p.allot) && (match i with | .mmas o => quadOk o p.allot | _ => true)

/-- An instruction with the residue mismatch that it meets, if any (R318): an illegal one, R35's included, takes its own trap first (R45). -/
def checkedInstr (s : State) (core slot : Nat) (p : Pack) (i : Instr) : Host.Outcome State Fault Refusal :=
  match mismatchAt s core slot p i with
  | some m => if allotted p i then perform i (machineCheck m (BitVec.setWidth 64 (firstWord i)) 0) s else exec i s
  | none => exec i s

/-- An instruction at PC: a replay whose image has no occupied lane skips it, one of an instruction without lane effect runs it as ERET
would (R306). -/
def runInstr (s : State) (core slot : Nat) (p : Pack) (i : Instr) : Host.Outcome State Fault Refusal :=
  match p.prog.replay with
  | some img =>
    if !isLane i then
      let q := { p with prog := { p.prog with replay := none } }
      checkedInstr (s.setCurPack q) core slot q i
    else if img &&& p.occ = 0 then onPack s (·.next (opndOf i))
    else checkedInstr s core slot p i
  | none => checkedInstr s core slot p i

/-! ### Deterministic mode (R291) -/

/-- Does a pack of a deterministic launch give up its core with an instruction: BARW, BART, YIELD, END, or a WAIT that waits? -/
def yieldsCore (i : Instr) (blocked : Bool) : Bool :=
  match i with
  | .barw _ | .bart _ | .yield _ | .endItems _ => true
  | .wait _ => blocked
  | _ => false

/-- The core after a pack has issued an instruction: a deterministic launch's pack holds it or passes it on, once for an instruction
that waits. -/
def Core.noteDet (c : Core) (p : Pack) (i : Instr) (blocked : Bool) : Core :=
  if p.id.det then
    { c with detCur := Table.set c.detCur p.id.launch (if yieldsCore i blocked && p.prog.wait.isNone then .passed p.id.lpid.toNat else .holds p.id.uid) }
  else c

/-- The pack of a deterministic launch that may issue: the current one; or, of the ready ones, the next in ascending logical id,
wrapping round. -/
def detPick (c : Core) (all ready : List (Nat × Pack)) (launch : Nat) : Option Nat :=
  let mine := ready.filter fun e => e.2.id.det && e.2.id.launch == launch
  let least (l : List (Nat × Pack)) : Option Nat :=
    (l.find? fun e => l.all fun f => e.2.id.lpid.toNat ≤ f.2.id.lpid.toNat).map (·.1)
  match Table.get? c.detCur launch with
  | some (.holds uid) =>
    if all.any (fun e => e.2.id.uid == uid) then (mine.find? fun e => e.2.id.uid == uid).map (·.1) else least mine
  | some (.passed n) => (least (mine.filter fun e => n < e.2.id.lpid.toNat)).or (least mine)
  | none => least mine

/-- Of the ready packs, those that deterministic mode lets issue. -/
def detReady (c : Core) (all ready : List (Nat × Pack)) : List (Nat × Pack) :=
  ready.filter fun e => !e.2.id.det || detPick c all ready e.2.id.launch == some e.1

/-! ### Selection (R289) -/

/-- The engine that an instruction targets; none for the vector datapath. -/
def targetOf (i : Instr) : Option Eng :=
  match i with
  | .cpy _ | .cpym _ => some .cp
  | .gth _ => some .gt
  | .mma _ | .mmas _ | .mzero _ | .mld _ | .mst _ | .manc _ | .mclose _ => some .mx
  | .coll _ => some .cl
  | .scnew _ | .scfree _ | .scqry _ | .scapp _ | .scsave _ | .scload _ | .scatt _ | .scdet _ | .sccap _ => some .sc
  | _ => none

/-- The die whose Scent engine takes a Scent instruction: SCNEW's own, or the home die of the sequence that g[A] names (R254, R261). -/
def scentDie (core : Nat) (p : Pack) (i : Instr) : Nat :=
  match i with
  | .scnew _ => dieOf core
  | _ => scDie ((p.readG (opndOf i).a.toNat).toNat % 2 ^ 32)

/-- The engine that the next instruction of a pack targets, with the die of a Scent engine; none for a further pass of an instruction that has
issued. -/
def nextTarget (s : State) (core slot : Nat) (p : Pack) : Option (Eng × Nat) :=
  if p.owed ≠ 0 then none
  else match coming { s with cur := some (core, slot) } p with
  | .instr i => (targetOf i).map fun e => (e, scentDie core p i)
  | _ => none

/-- For how many of its own cycles an engine has been idle, as a core sees it (R18); 0 while it is busy. -/
def idleFor (s : State) (core : Nat) (e : Option (Eng × Nat)) : Nat :=
  let c := s.core core
  let k := clusterOf core
  let busy (l : List OpHead) : Bool := l.any (·.result.isNone)
  let since (b : Bool) (n : Nat) : Nat := if b then 0 else c.cycle - n
  match e with
  | none => c.cycle - c.vecLast
  | some (.mx, _) => since (busy (c.mxq.map (·.head))) c.mxLast
  | some (.cp, _) => since (busy ((s.cluster k).cpq.map (·.head))) c.cpLast
  | some (.gt, _) => since (busy ((s.cluster k).gtq.map (·.head))) c.gtLast
  | some (.cl, _) => since (busy (s.colls.map (·.head))) c.clLast
  | some (.sc, d) => since (busy ((s.die d).scq.map (·.head))) (getAt 0 c.scLast d)

/-- Engine-aware selection among role packs: the longest idle engine, and of equal ones the oldest pack. -/
def engineAware (s : State) (core : Nat) (l : List (Nat × Pack)) : Option Nat :=
  let ranked := l.map fun e => (e.1, e.2.id.age, idleFor s core (nextTarget s core e.1 e.2))
  (ranked.find? fun a => ranked.all fun b => b.2.2 < a.2.2 || (b.2.2 == a.2.2 && a.2.1 ≤ b.2.1)).map (·.1)

/-- Greedy-then-oldest. -/
def greedyOldest (c : Core) (l : List (Nat × Pack)) : Option Nat :=
  match l.find? fun e => c.lastPack == some e.2.id.uid with
  | some e =>
    if c.run < runCycles || l.length ≤ 1 then some e.1 else (byAge false (l.filter fun f => f.1 != e.1)).map (·.1)
  | none => (byAge false l).map (·.1)

/-- The packs of a core that may issue. -/
def State.ready (s : State) (core : Nat) : List (Nat × Pack) :=
  let all := s.packsOf core
  detReady (s.core core) all (all.filter fun e => readyPack s core e.1 e.2)

/-- A ready pack that has been passed over as often as R122 bounds it (DESIGN CHOICE, LOG 2). -/
def starved (l : List (Nat × Pack)) : Option Nat :=
  (l.find? fun e => Config.fairSlots ≤ e.2.passed && l.all fun f => f.2.passed ≤ e.2.passed).map (·.1)

/-- Those that were ready and did not issue count a slot passed over; the one that issued starts afresh (R122). -/
def State.notePassed (s : State) (core slot : Nat) (was : List (Nat × Pack)) : State :=
  { s with packs := s.packs.map fun e =>
      if e.1.1 ≠ core then e
      else if e.1.2 = slot then (e.1, { e.2 with passed := 0 })
      else if was.any (fun f => f.1 == e.1.2 && f.2.id.uid == e.2.id.uid) then (e.1, { e.2 with passed := e.2.passed + 1 })
      else e }

/-- The slot that issues next on a core, and whether engine-aware selection chose it (R289; R122 bounds the wait of each). The current pack of
a deterministic launch leaves other launches only the cycles that it does not use (R291). -/
def State.choose (s : State) (core : Nat) : Option (Nat × Bool) :=
  let c := s.core core
  let ready := s.ready core
  match ready.find? fun e => e.2.id.walker.isSome with
  | some e => some (e.1, false)
  | none =>
    let gang := ready.filter fun e => e.2.id.gang
    let plain := ready.filter fun e => !e.2.id.gang
    match starved ready with
    | some slot => some (slot, false)
    | none =>
      match byAge false (ready.filter fun e => e.2.id.det) with
      | some e => some (e.1, false)
      | none =>
        if gang.isEmpty || (!plain.isEmpty && 3 ≤ c.engaged) then (greedyOldest c plain).map fun x => (x, false)
        else (engineAware s core gang).map fun x => (x, true)

/-- For how many issue cycles in a row the chosen pack of a core issues before the core chooses again; none for any number: the walker and the
current pack of a deterministic launch come first throughout; one that R122 has chosen and a role pack beside another one are chosen for a
cycle; engine-aware selection has 3 of every 4 cycles beside an ordinary pack, whose fourth it is; greedy-then-oldest has runs of 16. -/
def State.limit (s : State) (core : Nat) (p : Pack) (aware : Bool) : Option Nat :=
  let c := s.core core
  let others := (s.ready core).filter fun e => e.2.id.uid != p.id.uid
  let gang := others.filter (·.2.id.gang)
  if others.isEmpty || p.id.walker.isSome then none
  else if Config.fairSlots ≤ p.passed then some 1
  else if p.id.det then none
  else if aware then (if gang.isEmpty then some (3 - c.engaged) else some 1)
  else if !gang.isEmpty then some 1
  else some (if c.lastPack = some p.id.uid && c.run < runCycles then runCycles - c.run else runCycles)

/-! ### One issue -/

/-- The core after a pack has issued for `cost` cycles: a run counts while another pack is ready, and engine-aware selection's share while an
ordinary one is, by issue cycles (R289; LOG 2). -/
def Core.noteIssue (c : Core) (uid cost : Nat) (aware others plain : Bool) (i : Instr) : Core :=
  { c with lastPack := some uid
           run := if !others then 0 else if c.lastPack = some uid then c.run + cost else cost
           engaged := if !plain then 0 else if aware then c.engaged + cost else c.engaged - 3 * cost
           vecLast := if (targetOf i).isNone then c.cycle else c.vecLast }

/-- The cycles of an instruction that a pack came to pass, what it takes itself and what it owes (R95), as long as the core does not choose another
pack; the core takes note of them for its next choices (R289). `old` is the state in which the pack was chosen. -/
def State.passed (s old : State) (core slot : Nat) (p : Pack) (i : Instr) (aware : Bool) (own : Nat) : State :=
  let was := old.ready core
  let s1 := s.settled core slot p.id.uid own (old.limit core p aware)
  let paid := (s1.core core).issueCycles - (s.core core).issueCycles
  if paid = 0 then s1
  else s1.setCore core ((s1.core core).noteIssue p.id.uid paid aware (was.any fun e => e.1 != slot) (was.any fun e => !e.2.id.gang) i)

/-- What follows an instruction: one that now waits, or has exchanged at a BARW, has not issued; otherwise its cycles pass (R95, R120). -/
def State.afterInstr (s old : State) (core slot : Nat) (p : Pack) (i : Instr) (aware : Bool) : State :=
  let waits := match s.pack? core slot with
    | some q => q.id.uid == p.id.uid && q.prog.wait.isSome
    | none => false
  let s1 := (s.setCore core ((s.core core).noteDet p i waits)).notePassed core slot (old.ready core)
  (s1.passed old core slot p i aware (issueCost i p.mask)).clearExchange core slot

/-- The outcome of an issue with what follows it, and the core's journal (R327). -/
def followed (old : State) (core slot : Nat) (p : Pack) (i : Instr) (aware : Bool) :
    Host.Outcome State Fault Refusal → Host.Outcome State Fault Refusal
  | .next s => .next (((s.afterInstr old core slot p i aware).acted old (some core)).noticed)
  | .fault f => .fault f
  | .refused r => .refused r

/-- A pack takes cycles that its last instruction still owes (R95), and comes to no other. -/
def State.paysOn (s : State) (core slot : Nat) (p : Pack) (aware : Bool) : State :=
  ((((s.notePassed core slot (s.ready core)).passed s core slot p (.nop {}) aware 0).acted s (some core))).noticed

/-- A pack that comes to its next instruction after a YIELD waits no longer. -/
def Pack.awake (p : Pack) : Pack := if p.yields then { p with prog := { p.prog with wait := none } } else p

/-- The pack of a slot issues: the passes that its last instruction still owes (R95), or the instruction at its PC, which runs; a fetch that fails
and an illegal word take their traps (R11, R46). -/
def State.issue (s : State) (core slot : Nat) (p : Pack) (aware : Bool) : Host.Outcome State Fault Refusal :=
  if p.owed ≠ 0 then .next (s.paysOn core slot p aware)
  else
    let q := p.awake
    let s0 := { s.setPack core slot q with cur := some (core, slot) }
    match coming s0 q with
    | .instr i => followed s core slot q i aware (runInstr s0 core slot q i)
    | .illegal w => followed s core slot q (.nop {}) aware (perform (.nop {}) (takeTrap 0x01 (w.setWidth 64) (lOf w) none none) s0)
    | .stop e => followed s core slot q (.nop {}) aware (perform (.nop {}) (throw e) s0)

/-- A core issues, if it has a pack that may. -/
def State.issueCore (s : State) (core : Nat) : Host.Outcome State Fault Refusal :=
  match s.choose core with
  | none => .next s
  | some (slot, aware) =>
    match s.pack? core slot with
    | none => .next s
    | some p => s.issue core slot p aware

end Sys2Proof.Machine
end

