-- ==== Sys2Proof/Machine/Sched.lean ====
section
/-! DEFINITION. What happens next (DESIGN CHOICE, LOG 1): the turns of the agenda; with the agenda empty, the internal events and the cores take
turns in a fixed order. -/

namespace Sys2Proof.Machine

/-! ### Turns of the agenda -/

/-- Time passes: every core's CYCLE and every die's DCYCLE count (R18, R332), from power-on, in Boot and in reduced service too: the spec does not
say when each core and die leaves reset during bring-up (R343; DESIGN CHOICE, LOG 6). -/
def State.tick (s : State) (n : Nat) : State :=
  { s with ticks := s.ticks + n
           cores := s.cores.map fun c => (c.1, { c.2 with cycle := c.2.cycle + n })
           dies := s.dies.map fun d => (d.1, { d.2 with dcycle := d.2.dcycle + n }) }

/-- A host processor writes host memory (R174, R193), which the device reaches at the same addresses through either port (R340); other addresses are
not its own. -/
def State.hostWrite (s : State) (pa : Nat) (bs : List Byte) : State :=
  if 2 ^ 50 ≤ pa && pa + bs.length ≤ 2 ^ 51 then
    { s with mem := Memory.apply s.mem (bs.zipIdx.map fun e => (canonPa s.dev (pa + e.2), e.1)) }
  else s

/-- The marks of damage on a register's copy (R319, R330). -/
def VReg.hurt (r : VReg) (mirror : Bool) : VReg := if mirror then { r with mue := true } else { r with ue := true }

/-- Add an entry to the error log of a die. -/
def State.logged (s : State) (d : Nat) (e : LogEntry) : State := s.setDie d { s.die d with errors := (s.die d).errors ++ [e] }

/-- The die whose error log a unit of memory belongs to; none for a unit that does not exist. -/
def unitDie (u : MemUnit) : Option Nat :=
  match u with
  | .hbm w => if 32 * w < Config.hbmSize then some (homeDie (32 * w)) else none
  | .granule g => if g < Config.numCores * 65536 then some (dieOf (g / 65536)) else none

/-- Does a unit fail its check, or carry poison? -/
def State.unsound (s : State) : MemUnit → Bool
  | .hbm w => s.hbmUe.contains w || s.hbmPoison.contains w
  | .granule g => s.granUe.contains g || s.granPoison.contains g

/-- Change the operation of a class that a pack issued under a number. -/
def State.modOp (s : State) (uid : Nat) (c : Eng) (seq : Nat) (f : OpHead → OpHead) : State :=
  let g (h : OpHead) : OpHead := if h.uid = uid && h.seq = seq && h.result.isNone then f h else h
  match c with
  | .cp => { s with clusters := s.clusters.map fun k => (k.1, { k.2 with cpq := k.2.cpq.map fun m => { m with head := g m.head } }) }
  | .gt => { s with clusters := s.clusters.map fun k => (k.1, { k.2 with gtq := k.2.gtq.map fun m => { m with head := g m.head } }) }
  | .mx => { s with cores := s.cores.map fun k => (k.1, { k.2 with mxq := k.2.mxq.map fun m => { m with head := if m.ready then g m.head else m.head } }) }
  | .cl => { s with colls := s.colls.map fun m => { m with head := g m.head } }
  | .sc => { s with dies := s.dies.map fun d => (d.1, { d.2 with scq := d.2.scq.map fun m => { m with head := g m.head } }) }

/-- An operation reads a source byte now (R203). -/
def OpHead.readEarly (h : OpHead) (key : Nat) (b : Byte) : OpHead :=
  if h.early.any (·.1 == key) then h else { h with early := h.early ++ [(key, b)] }

/-- Does damage strike a core, whose rollback mends it: not HBM, nor the links (R327, R328)? -/
def Damage.upset : Damage → Bool
  | .unit (.hbm _) | .peerPlane _ _ => false
  | _ => true

/-- Damage and errors that nothing consumes (R317, R319, R320, R330, R334). -/
def State.damage (s : State) : Damage → State
  | .unit u =>
    match u, unitDie u with
    | .hbm w, some _ => { s with hbmUe := insertNat s.hbmUe w }
    | .granule g, some _ => { s with granUe := insertNat s.granUe g }
    | _, none => s
  | .register core slot lane reg mirror =>
    match s.pack? core slot with
    | some p => s.setPack core slot (p.onLanes (1#1024 <<< lane) fun _ ln => { ln with v := putAt {} ln.v reg ((ln.reg reg).hurt mirror) })
    | none => s
  | .tile core n row col =>
    if n < 4 && row < 128 && col ≤ 128 then
      let x : Tile := getAt {} (s.core core).tiles n
      s.setCore core { s.core core with tiles := putAt {} (s.core core).tiles n { x with ue := x.ue ++ [(row, col)] } }
    else s
  | .residue m => { s with mismatches := s.mismatches ++ [m] }
  | .engine uid c seq => s.modOp uid c seq fun h => { h with hurt := true }
  | .corrected u =>
    match unitDie u with
    | some d => s.logged d (.correctedUnit u)
    | none => s
  | .correctedReg core slot lane reg => s.logged (dieOf core) (.corrected core slot lane reg)
  | .unread u =>
    match unitDie u with
    | some d => if s.unsound u then s.logged d (.unread u) else s
    | none => s
  | .unreadReg core slot lane reg =>
    match s.pack? core slot with
    | some p => if ((p.lane lane).reg reg).ue then s.logged (dieOf core) (.unreadReg core slot lane reg) else s
    | none => s
  | .unreadTile core n row col =>
    if (getAt ({} : Tile) (s.core core).tiles n).ue.contains (row, col) then s.logged (dieOf core) (.unreadTile core n row col) else s
  | .peerPlane peer plane => { s with dev := { s.dev with peerPlanes := s.dev.peerPlanes ++ [(peer, plane)] } }

/-- Has a launch begun, and not ended? -/
def State.begun (s : State) (launch : Nat) : Bool := s.launches.any fun e => e.1 == launch && e.2.started

/-- The lines of a core with a line's copies changed by `f`. -/
def invLines (l : List InvLine) (launch key : Nat) (f : InvLine → InvLine) : List InvLine :=
  if l.any fun x => x.launch == launch && x.key == key then
    l.map fun x => if x.launch = launch && x.key = key then f x else x
  else l ++ [f { launch, key, copies := [] }]

/-- The caches of a core keep the 8 bytes from a key on as they are now for the .inv loads of a launch that has begun (R202). -/
def State.invCopy (s : State) (core launch key : Nat) : State :=
  if s.begun launch then
    let c := s.core core
    s.setCore core { c with inv := invLines c.inv launch key fun x => { x with
      copies := x.copies ++ [(List.range 8).map fun i => Memory.read s.mem (key + i)] } }
  else s

/-- The .inv loads of a launch on a core are given the copy `n` from now on, or what memory holds (R202). -/
def State.invUse (s : State) (core launch key : Nat) (n : Option Nat) : State :=
  let c := s.core core
  s.setCore core { c with inv := invLines c.inv launch key fun x => { x with use := n.filter (· < x.copies.length) } }

/-- The code words of a core with a word's copies changed by `f`. -/
def codeLines (l : List CodeLine) (launch key : Nat) (f : CodeLine → CodeLine) : List CodeLine :=
  if l.any fun x => x.launch == launch && x.key == key then
    l.map fun x => if x.launch = launch && x.key = key then f x else x
  else l ++ [f { launch, key, copies := [] }]

/-- A core keeps the code word at a key as it is now for the packs of a launch that has begun (R29). -/
def State.codeCopy (s : State) (core launch key : Nat) : State :=
  if s.begun launch then
    let c := s.core core
    let w : Half := BitVec.ofNat 32 (leNat ((List.range 4).map fun i => Memory.read s.mem (key + i)))
    s.setCore core { c with code := codeLines c.code launch key fun x => { x with copies := x.copies ++ [w] } }
  else s

/-- The packs of a launch on a core fetch the copy `n` of a code word from now on, or what memory holds (R29). -/
def State.codeUse (s : State) (core launch key : Nat) (n : Option Nat) : State :=
  let c := s.core core
  s.setCore core { c with code := codeLines c.code launch key fun x => { x with use := n.filter (· < x.copies.length) } }

/-- The bytes of host memory at an address as a read-modify-write has read them before a host processor's write (R177). -/
def State.oldBytes (s : State) (pa n : Nat) : List Host.Cell :=
  if 2 ^ 50 ≤ pa && pa + n ≤ 2 ^ 51 then
    (List.range n).map fun i =>
      let k := canonPa s.dev (pa + i)
      (k, Memory.read s.mem k)
  else []

/-- Change the pack of a slot. -/
def State.modPack (s : State) (core slot : Nat) (f : Pack → Pack) : State :=
  match s.pack? core slot with
  | some p => s.setPack core slot (f p)
  | none => s

/-- A pack whose store hash lags from now on, or does so no longer (R299, R372). -/
def Pack.lagging (p : Pack) (on : Bool) : Pack :=
  if on then { p with lag := p.lag.or (some []) } else { p.hashed with lag := none }

/-- The core whose act an event is; none for one of another party. -/
def coreOf (i : Instr) : Option Nat :=
  match i with
  | .registerFill c _ _ | .matrixOpExecute c _ | .matrixAfterObserve c _ | .matrixBatchRetire c _ | .barrierWaitRelease c _
  | .fullGranuleWaitRelease c _ | .engineWaitRelease c _ | .leashAdmit c _ | .repackWindowClose c _ | .regionRestart c _
  | .parkedReplay c _ | .watchdogExpiry c _ | .preemptionEntry c _ | .growGrant c _ | .heelRelease c _ | .walkerStart c => some c
  | _ => none

/-- The outcome of an event or a turn, with the journals of the cores (R327), and with the packs that hold a yielding one back (R154). -/
def acting (old : State) (core : Option Nat) : Host.Outcome State Fault Refusal → Host.Outcome State Fault Refusal
  | .next s => .next (s.acted old core).noticed
  | .fault f => .fault f
  | .refused r => .refused r

/-- May an event that is no core's act move data of HBM or flits (R336)? -/
def mayMove (i : Instr) : Bool :=
  match i with
  | .snapshotLatch _ | .whistlePin | .snapshotLogDrain _ | .faultQueueDrain _ _ | .hostPortFailure _ | .planeLoss _ | .mgmtWriteDiscarded _
  | .throttle _ | .thermalTrip | .firmwareImageLoad _ _ | .enterFullService _ | .getVersion | .getCapabilities | .negotiateAlgorithms
  | .getDigests | .getCertificate | .challenge _ | .getMeasurements => false
  | _ => (coreOf i).isNone

/-- The state after an event, which counts among the acts that may move data (R336; LOG 15). -/
def State.counted (s : State) (i : Instr) : State := if mayMove i then { s with acts := s.acts + 1 } else s

/-- The outcome of an event, counted. -/
def counting (i : Instr) : Host.Outcome State Fault Refusal → Host.Outcome State Fault Refusal
  | .next s => .next (s.counted i)
  | o => o

/-- A part of an engine operation is done, and counted. -/
def inPart (s : State) (o : Host.Outcome State Fault Refusal) : Host.Outcome State Fault Refusal :=
  match acting s none o with
  | .next s => .next { s with acts := s.acts + 1 }
  | o => o

/-- An event or a command of the table happens; a strike report and power-on leave the journals as they make them. -/
def State.happen (s : State) (i : Instr) : Host.Outcome State Fault Refusal :=
  match wordOf i with
  | some _ => .next s
  | none =>
    match i with
    | .strikeReport _ | .powerOnReset => exec i s
    | _ => counting i (acting s (coreOf i) (exec i s))

/-- Do the dies run: in full service, until a thermal trip (R343, R345)? -/
def State.runs (s : State) : Bool := s.dev.service == .full && !s.dev.tripped

/-- A host processor writes while a core issues or an event happens: its write falls between the read and the write of each read-modify-write there,
and before every other access (R177). -/
def State.raced (s : State) (pa : Nat) (bs : List Byte) (act : State → Host.Outcome State Fault Refusal) : Host.Outcome State Fault Refusal :=
  match act { (s.hostWrite pa bs).acted s none with races := s.oldBytes pa bs.length } with
  | .next t => .next { t with races := [] }
  | o => o

/-- A turn of the agenda. -/
def State.turn (s : State) : Turn → Host.Outcome State Fault Refusal
  | .core c => if s.runs then s.issueCore c else .next s
  | .event i => s.happen i
  | .hostWrite pa bs => acting s none (.next (s.hostWrite pa bs))
  | .damage d => if d.upset then .next (s.damage d) else acting s none (.next (s.damage d))
  | .time n => .next (s.tick n)
  | .early uid c seq key => inPart s (.next (s.modOp uid c seq fun h => h.readEarly key (Memory.read s.mem key)))
  | .invCopy core launch key => acting s none (.next (s.invCopy core launch key))
  | .invUse core launch key n => acting s none (.next (s.invUse core launch key n))
  | .codeCopy core launch key => acting s none (.next (s.codeCopy core launch key))
  | .codeUse core launch key n => acting s none (.next (s.codeUse core launch key n))
  | .part cluster gather n offs => inPart s (event s (if gather then partGather cluster n offs else partCopy cluster n offs))
  | .coreRaced c pa bs => s.raced pa bs fun s => if s.runs then s.issueCore c else .next s
  | .eventRaced i pa bs => s.raced pa bs fun s => s.happen i
  | .lanes core slot n => acting s none (.next (s.modPack core slot fun p => { p with prog := { p.prog with first := some n } }))
  | .lag core slot on => acting s none (.next (s.modPack core slot (·.lagging on)))
  | .flit port => acting s none (.next { s with dev := { s.dev with retries := Table.del s.dev.retries port } })

/-! ### The default order (DESIGN CHOICE, LOG 1) -/

/-- The indices of a list. -/
def idx {α : Type} (l : List α) : List Nat := List.range l.length

/-- A list if a condition holds. -/
def listIf (b : Bool) (l : List Instr) : List Instr := if b then l else []

/-- Internal events that may be due to a pack. -/
def packEvents (core slot : Nat) (p : Pack) : List Instr :=
  List.flatten [
    listIf (!p.fills.isEmpty) [.registerFill core slot 0],
    listIf (p.restart.isSome || p.pendingTrap.isSome) [.regionRestart core slot],
    listIf p.wanted.isSome [.preemptionEntry core slot],
    listIf p.answered.isSome [.parkedReplay core slot],
    listIf (match p.prog.wait with | some { why := .grow _, .. } => true | _ => false) [.growGrant core slot],
    listIf (p.cnt.mx != 0) [.matrixBatchRetire core slot]]

/-- Internal events that may be due to a core. -/
def coreEvents (s : State) (core : Nat) (c : Core) : List Instr :=
  let slots := List.range Config.numSlots
  List.flatten [
    (idx c.mxq).map fun n => .matrixAfterObserve core n,
    (idx c.mxq).map fun n => .matrixOpExecute core n,
    (idx c.heel).map fun n => .heelRelease core n,
    listIf (!c.misses.isEmpty) [.walkerStart core],
    (idx c.waiting).flatMap fun n => slots.map fun slot => .restoreEntry core n slot,
    listIf (!c.saved.isEmpty) (slots.map fun slot => .kennelPackRestore core slot),
    (idx c.repacks).map fun n => .repackWindowClose core n,
    listIf (!c.growing.isEmpty) [.growDeadlockPreempt core],
    ((s.packsOf core).filter fun e => s.quietTooLong core e.2).map fun e => .watchdogExpiry core e.1]

/-- Starts of the pack or gang of a taken record. -/
def startEvents (s : State) (k n : Nat) (t : Taken) : List Instr :=
  let cores := s.coresFor k t.q.ctx
  if t.q.src = .gang then cores.map fun core => .gangStart k core n
  else cores.filterMap fun core =>
    ((List.range Config.numSlots).find? fun slot => s.slotOk core slot t.q.ctx).map fun slot => .packStart k core slot n

/-- Internal events that may be due to a cluster. -/
def clusterEvents (s : State) (k : Nat) (c : Cluster) : List Instr :=
  List.flatten [
    (idx c.walks).map fun n => .tlbWalkComplete k n,
    (idx c.cpq).map fun n => .copyComplete k n,
    (idx c.gtq).map fun n => .gatherComplete k n,
    (idx c.banks).map fun b => .bankSpill k b,
    (idx c.banks).map fun b => .bankRefill k b,
    [.kennelTakeRecord k],
    c.taken.zipIdx.flatMap fun e => startEvents s k e.2 e.1]

/-- Internal events that may be due to the device's snapshot and Whistle. -/
def deviceEvents (d : Device) : List Instr :=
  List.flatten [
    listIf (!d.triggers.isEmpty) ((List.range Config.numDies).map fun n => .snapshotLatch n),
    listIf d.snapshot.isSome [.snapshotSweep, .snapshotComplete]]

/-- The internal events that may be due, in the default order. -/
def State.candidates (s : State) : List Instr :=
  List.flatten [
    s.packs.flatMap fun e => packEvents e.1.1 e.1.2 e.2,
    s.cores.flatMap fun e => coreEvents s e.1 e.2,
    s.guardQ.map fun e => .guardGrant e.1,
    s.launches.map fun e => .argumentBlockRead e.1,
    s.launches.map fun e => .launchCompletion e.1,
    s.clusters.flatMap fun e => clusterEvents s e.1 e.2,
    s.dies.flatMap fun e => (idx e.2.scq).map fun n => .scentSerialPoint e.1 n,
    (idx s.colls).map fun n => .collComplete n [],
    s.ctxs.map fun e => .faultRecordPost e.1,
    s.ctxs.map fun e => .preemptionComplete e.1,
    deviceEvents s.dev]

/-- The first event of a list that changes the state, with the state after it. -/
def firstEvent (s : State) : List Instr → Option State
  | [] => none
  | i :: r =>
    match exec i s with
    | .next t => if { t with touched := s.touched } = s then firstEvent s r else some ((t.acted s (coreOf i)).noticed.counted i)
    | _ => firstEvent s r

/-- The internal event that happens by default, if one can. -/
def State.nextEvent (s : State) : Option State := firstEvent s s.candidates

/-- The cores with packs, from a number up and then from 0. -/
def State.coresFrom (s : State) (n : Nat) : List Nat :=
  let cs := s.packs.foldl (fun l e => insertNat l e.1.1) []
  (cs.filter fun c => decide (n ≤ c)) ++ cs.filter fun c => decide (c < n)

/-- The core whose turn it is, of those that can issue. -/
def State.nextCore (s : State) : Option Nat := (s.coresFrom s.focus).find? fun c => (s.choose c).isSome

/-- A step with an empty agenda: an internal event every other step, otherwise the next core issues; with neither, time passes. -/
def State.default (s : State) : Host.Outcome State Fault Refusal :=
  if !s.runs then .next s
  else
    let issue (otherwise : Host.Outcome State Fault Refusal) : Host.Outcome State Fault Refusal :=
      match s.nextCore with
      | some c => State.issueCore { s with focus := c + 1, evTurn := true } c
      | none => otherwise
    if s.evTurn then
      match s.nextEvent with
      | some t => .next { t with evTurn := false }
      | none => issue (.next (s.tick 1))
    else
      issue (match s.nextEvent with
        | some t => .next t
        | none => .next (s.tick 1))

/-- A step of the machine. -/
def State.advance (s : State) : Host.Outcome State Fault Refusal :=
  match s.agenda with
  | t :: r => State.turn { s with agenda := r } t
  | [] => s.default

/-! ### A machine that runs a given instruction (DESIGN CHOICE, LOG 9) -/

/-- The virtual and physical address at which `placed` puts the instruction. -/
def placedPc : Nat := 0x10000

/-- The context of the placed pack: standard translation, no trap handler. -/
def placedCtx : Ctx := { spillSz := 2 ^ 24, fqSize := 16, ovrSize := 24, flowCap := 64 }

/-- Core 0 for the placed pack: its page is translated, its context has a window. -/
def placedCore : Core :=
  { tlb := [{ ctx := 0, page := placedPc, size := 4096, frame := placedPc, rd := true, wr := true, exe := true, ha := false }]
    wins := [(0, { base := 0, size := 4096 })] }

/-- The placed pack: 32 lanes, all of them active, at user level. -/
def placedPack (uid : Nat) : Pack :=
  { id := { uid, age := uid, regs0 := 256 }, allot := 256, pc := BitVec.ofNat 64 placedPc
    occ := BitVec.ofNat 1024 (2 ^ 32 - 1), mask := BitVec.ofNat 1024 (2 ^ 32 - 1) }

/-- The device in full service with context 0 and, alone on core 0, one pack of it whose next instruction stands in memory and is
translated: what bring-up, CREATE, PLACE and a launch lead to. -/
def State.placed (s : State) (bs : List Byte) : State :=
  { s with
    agenda := [], cur := none, focus := 0, evTurn := false, fresh := s.fresh + 1
    dev := { s.dev with service := .full, mhz := 940, ports := [0, 1], tripped := false }
    ctxs := Table.set s.ctxs 0 placedCtx
    cores := Table.set s.cores 0 placedCore
    packs := ((0, 0), placedPack (s.fresh + 1)) :: s.packs.filter (fun e => e.1.1 != 0)
    mismatches := s.mismatches.filter (fun m => m.core != 0)
    mem := Memory.apply s.mem (bs.zipIdx.map fun e => (placedPc + e.2, e.1)) }

end Sys2Proof.Machine
end

