-- ==== Sys2Proof/Machine/Step.lean ====
section
/-! DEFINITION. One step of the machine, and the machine that fetches a given instruction next. -/

namespace Sys2Proof.Machine

/-- One step (DESIGN CHOICE, LOG 1): the next turn of the agenda, or what the default order gives. -/
def step (s : State) : Host.Outcome State Fault Refusal := s.advance

/-- `s` with the instruction of a table word where the next step fetches (DESIGN CHOICE, LOG 9). -/
def State.withFetchWord (s : State) (nbits w : Nat) : State := s.placed (tableBytes nbits w)

end Sys2Proof.Machine
end

