-- ==== Sys2Proof/Safety.lean ====
section
/-! DEFINITION. What counts as a safe run, and the words in which the claims about single instructions are put. -/

namespace Sys2Proof.Machine

/-! ### Runs -/

/-- The outcome is a next state. -/
def Goes (o : Host.Outcome State Fault Refusal) : Prop := ∃ t, o = .next t

/-- What every step keeps: memory is in its canonical form, and nobody is issuing between steps. -/
structure State.Inv (s : State) : Prop where
  mem : Memory.wf s.mem
  idle : s.cur = none

/-- The word at `va` can be fetched for the pack that is issuing, and is `w` (R11): what memory holds or, of a word that has been written since the
pack's launch started, the copy that its core gives out (R29; LOG 2). -/
def Fetches (s : State) (who : Who) (va : Nat) (w : Half) : Prop :=
  va < 2 ^ 57 ∧ ∃ k now, translate .ex va (startW s who (.nop {})) = .ok k (startW s who (.nop {})) ∧
    (List.range 4).map (fun j => Memory.read s.mem (k + j)) = halfBytes now ∧
    codeWord (s.core who.core) ((s.curPack?.map (·.id.launch)).getD 0) k now = w

/-! ### What an instruction leaves of its pack and of the rest -/

/-- The state in which the issuing pack has become `q`, nobody is issuing any more, and nothing else has changed. -/
def State.after (s : State) (q : Pack) : State := { s.setCurPack q with cur := none }

/-- The general registers of `q` are those of `p` but for g[d], which holds `v`; a write to g0 is discarded (R10). -/
def WritesG (p q : Pack) (d : Nat) (v : Word) : Prop := ∀ r, q.readG r = if r = d ∧ d ≠ 0 then v else p.readG r

/-- An instruction completes, writes `v` to gD and advances PC; no other register, lane, system register or byte changes (R75). -/
def WritesD (s : State) (p : Pack) (o : Opnd) (i : Instr) (v : Word) : Prop :=
  ∃ q, exec i s = .next (s.after q) ∧ WritesG p q o.d.toNat v ∧ q = { p with g := q.g, pc := p.pc + BitVec.ofNat 64 o.len, prog := {} }

/-- A control transfer completes with PC at `t`; no register or byte changes (R83). -/
def GoesTo (s : State) (p : Pack) (i : Instr) (t : Word) : Prop := exec i s = .next (s.after { p with pc := t, prog := {} })

/-- The target of BR, BZ, BNZ, CALL and LOOP at an address, by the instruction's length, as R42 tabulates it. -/
def targetAt (pc : Word) (o : Opnd) : Word :=
  pc + (if o.lit.isSome then o.lit.getD 0 else if o.ext.isSome then o.x.imm16.signExtend 64 * 4
    else (o.b ++ o.d).signExtend 64 * 4)

/-- The integer condition of a code between 64-bit values, as R38 lists them. -/
def condHolds (code : BitVec 4) (a b : Word) : Bool :=
  match code.toNat with
  | 0 => a == b
  | 1 => a != b
  | 2 => a.slt b
  | 3 => b.sle a
  | 4 => a.sle b
  | 5 => b.slt a
  | 6 => a.ult b
  | 7 => b.ule a
  | 8 => a.ule b
  | _ => b.ult a

/-! ### What a lane instruction leaves of its pack -/

/-- Does lane `l` take part in an instruction (R124)? -/
def takes (p : Pack) (o : Opnd) (l : Nat) : Bool := decide (l < p.width) && (p.part o).getLsbD l

/-- `q` is `p` after an instruction that touches only the lanes: PC has advanced, and nothing but the lanes has changed. -/
def LanesOnly (p q : Pack) (o : Opnd) : Prop := q = { p with lanes := q.lanes, pc := p.pc + BitVec.ofNat 64 o.len, prog := {} }

/-- A lane instruction completes; in each lane that takes part and for which `val` gives a value, the `c` registers from `vd` up hold
it, full and unpoisoned; no other register, no predicate, no item and nothing outside the lanes changes (R124-R126). -/
def LaneWrites (s : State) (p : Pack) (o : Opnd) (i : Instr) (vd c : Nat) (val : Nat → Option Nat) : Prop :=
  ∃ q, exec i s = .next (s.after q) ∧ LanesOnly p q o ∧
    (∀ l, (q.lane l).p = (p.lane l).p ∧ (q.lane l).item = (p.lane l).item) ∧
    ∀ l k, (q.lane l).reg k =
      ((if takes p o l ∧ vd ≤ k ∧ k < vd + c then val l else none).map fun x =>
        ({ val := BitVec.ofNat 32 (x / 2 ^ (32 * (k - vd))) } : VReg)).getD ((p.lane l).reg k)

/-- A lane instruction completes; in each lane that takes part predicate `k` holds `val l k`, where that is a value; no other predicate,
no register, no item and nothing outside the lanes changes. -/
def LaneSets (s : State) (p : Pack) (o : Opnd) (i : Instr) (val : Nat → Nat → Option Bool) : Prop :=
  ∃ q, exec i s = .next (s.after q) ∧ LanesOnly p q o ∧
    (∀ l, (q.lane l).v = (p.lane l).v ∧ (q.lane l).item = (p.lane l).item) ∧
    ∀ l k, k < 8 → (q.lane l).pred k = (if takes p o l then val l k else none).getD ((p.lane l).pred k)

/-- Predicate D alone. -/
def predD (o : Opnd) (b : Bool) (k : Nat) : Option Bool := if k = o.d.toNat then some b else none

/-- A lane instruction works element by element: element `e` of D is `f` of the elements `e` of A, B and C, cut to `n` bits, over `c`
registers (R124). -/
def Elementwise (s : State) (p : Pack) (o : Opnd) (i : Instr) (n c : Nat) (f : Nat → Nat → Nat → Nat) : Prop :=
  ∃ val : Nat → Nat, LaneWrites s p o i o.vd c (fun l => some (val l)) ∧
    ∀ l e, e < 32 * c / n →
      elem n (val l) e = f (elem n ((p.lane l).readV o.va c) e) (elem n (bValue o c (p.lane l)) e)
        (elem n ((p.lane l).readV o.vc c) e) % 2 ^ n


/-! ### What an instruction leaves of memory -/

/-- No Whistle trigger is latching and no memory snapshot is in progress, so that a store has no effect beside its bytes (R338, R339). -/
def State.Calm (s : State) : Prop := s.dev.triggers = [] ∧ s.dev.snapshot = none

/-- In `t` the bytes stand from the key up; every other byte of memory reads as in `s`. -/
def Stored (s t : State) (key : Nat) (bs : List Byte) : Prop :=
  ∀ a, Memory.read t.mem a = if key ≤ a ∧ a < key + bs.length then bs.getD (a - key) 0 else Memory.read s.mem a

/-- The parts of bytes (key, bytes) stand in `t`, a later part over an earlier one; every other byte of memory reads as in `s`. -/
def StoredAll (s t : State) (parts : List (Nat × List Byte)) : Prop :=
  ∀ a, Memory.read t.mem a =
    match parts.reverse.find? (fun e => decide (e.1 ≤ a ∧ a < e.1 + e.2.length)) with
    | some e => e.2.getD (a - e.1) 0
    | none => Memory.read s.mem a

/-! ### Lane loads -/

/-- `q` is `p` after a lane load of `c` registers a lane has issued with the accesses `accs`: PC has advanced, the destination registers of
its lanes are empty with a value due, and the values, of the bytes that `byte` gives for a key and a place from there, are on their way (R125; LOG 20). -/
def Loads (s : State) (p q : Pack) (o : Opnd) (c : Nat) (byte : Nat → Nat → Byte) (accs : List LaneAcc) : Prop :=
  q = { p with
    lanes := q.lanes, pc := p.pc + BitVec.ofNat 64 o.len, prog := {}
    fills := p.fills ++ accs.map fun a => { op := s.fresh, lane := a.lane, reg := o.vd
                                            vals := valuesOf c (leNat ((List.range (4 * c)).map fun j => byte a.key j))
                                            bad := (consumes s a.key (4 * c)).map fun ue => { ue, addr := BitVec.ofNat 64 a.va }
                                            region := p.inRegion } } ∧
  (∀ l, (q.lane l).p = (p.lane l).p ∧ (q.lane l).item = (p.lane l).item) ∧
  ∀ l r, (q.lane l).reg r = if takes p o l ∧ o.vd ≤ r ∧ r < o.vd + c then
    { (p.lane l).reg r with full := false, due := true, sc := false, bad := none } else (p.lane l).reg r

/-- `s` with the number taken that a load's values share. -/
def State.numbered (s : State) (accs : List LaneAcc) : State := { s with fresh := s.fresh + if accs = [] then 0 else 1 }

/-! ### Flows -/

/-- In `t` the slots of the items of the lanes `ls` of `p` that were not complete have completed, and nothing else of any context, flow or
launch has changed: each item's number has left its flow, an atomic item's token is free, a flow may have become inactive once it holds no
item, and each launch has so many items fewer left (R97, R102, R103). -/
def Completed (s t : State) (p : Pack) (ls : List Nat) : Prop :=
  let n := p.id.ctx
  let x := s.ctx n
  let item (l : Nat) : Item := (p.lane l).item
  let mine (y : BitVec 32) (l : Nat) : Prop := l ∈ ls ∧ (item l).done = false ∧ (item l).label = y
  (∀ c, c ≠ n → t.ctx c = s.ctx c) ∧ t.ctx n = { x with flows := (t.ctx n).flows } ∧
  (∀ k, t.launch k = { s.launch k with left := (t.launch k).left } ∧ ((Table.get? s.launches k).isSome →
    (t.launch k).left = (s.launch k).left - (ls.filter fun l => !(item l).done && (item l).launch == k).length)) ∧
  (∀ y, (∀ l, ¬ mine y l) → (t.ctx n).flow? y = x.flow? y) ∧
  (∀ y f a, x.flow? y = some f → (∃ l, mine y l) →
    match (t.ctx n).flow? y with
    | none => inRuns f.incomplete a = true → ∃ l, mine y l ∧ (item l).arr = a
    | some g => g.cls = f.cls ∧ g.nextArr = f.nextArr ∧ g.pins = f.pins ∧ g.holder = f.holder ∧
        (g.token = true ↔ f.token = true ∧ ∀ l, mine y l → (item l).cls ≠ .a) ∧
        (inRuns g.incomplete a = true ↔ inRuns f.incomplete a = true ∧ ∀ l, mine y l → (item l).arr ≠ a))

/-- The runs of incomplete numbers of a context's flows do not overlap. -/
def Ctx.Apart (x : Ctx) : Prop := ∀ e ∈ x.flows, e.2.incomplete.Pairwise fun a b => a.1 + a.2 ≤ b.1

/-! ### Atomics -/

/-- What an AMO of an integer type makes of the value `old`: the value that it writes, none where it writes nothing (R89). -/
def Pack.amoNew (p : Pack) (o : Opnd) (old : Nat) : Option Nat :=
  let t := o.x.ty2
  let n := 8 * typeBytes t
  let c := (p.readG o.rc).toNat % 2 ^ n
  match o.f.toNat with
  | 0 => some c
  | 1 => some ((old + c) % 2 ^ n)
  | 2 => some (old &&& c)
  | 3 => some (old ||| c)
  | 4 => some (old ^^^ c)
  | 5 => some (if intVal t c < intVal t old then c else old)
  | 7 => if old = (p.readG o.d.toNat).toNat % 2 ^ n then some c else none
  | _ => some (if intVal t old < intVal t c then c else old)

/-! ### Recorded launches -/

/-- Does a pack belong to a recorded launch whose MODE is not 0 (R297, R299)? -/
def State.records (s : State) (p : Pack) : Bool := p.id.records && (s.ctx p.id.ctx).trail.mode != 0

/-- The pack after stores of the parts (address, data) have retired: in a recorded launch its store hash takes a step for each, or, while
it lags, will take it (R299; LOG 2). -/
def Pack.retires (p : Pack) (recorded : Bool) (parts : List (Word × Word)) : Pack :=
  if !recorded then p
  else match p.lag with
    | some l => { p with lag := some (l ++ parts) }
    | none => { p with sys := { p.sys with shash := parts.foldl (fun h e => h.rotateLeft 5 ^^^ e.1 ^^^ e.2) p.sys.shash } }

/-- The core's TLB gives the four bytes at a virtual address the keys from `k` up. -/
def MapsWord (s : State) (core ctx a k : Nat) : Prop :=
  a + 4 ≤ 2 ^ 64 ∧ ∀ i, i < 4 → (tlbFind (s.core core).tlb ctx (a + i)).map (fun e => canonPa s.dev (e.pa (a + i))) = some (k + i)

/-- What a site atomic of the pack `lpid` at site `j` leaves in the Trail (R298, R368): the words written (address, value), in order, and
the context where it changes. `word` gives the word that stands at an address. In recording the last entry's run grows, or a new entry is
written and USED grows, or, the area being full, the site's logging stops and OVF is set; in replay RUNLEFT falls, or the next entry is
loaded. -/
def Ctx.siteLogged (x : Ctx) (lpid j : Nat) (word : Nat → Nat) : List (Nat × Nat) × Option Ctx :=
  let d := x.site j
  let desc := x.trlbase.toNat + 32 * j
  let put (d : Site) : Ctx := { x with trail := { x.trail with sites := Table.set x.trail.sites j d } }
  let last := word (d.area + 4 * (d.used - 1))
  if x.trail.mode = 1 then
    if j ∈ x.siteStop then ([], none)
    else if 0 < d.used ∧ last / 65536 = lpid ∧ last % 65536 < 65535 then ([(d.area + 4 * (d.used - 1), last + 1)], none)
    else if d.cap ≤ d.used then ([], some { x with siteStop := x.siteStop ++ [j], trlctl := x.trlctl ||| 0x100 })
    else ([(d.area + 4 * d.used, lpid * 65536 + 1), (desc + 20, d.used + 1)], some (put { d with used := d.used + 1 }))
  else if d.cap ≤ d.used then ([], none)
  else if 1 < d.left then ([(desc + 24, d.left - 1)], some (put { d with left := d.left - 1 }))
  else
    let left := if d.cap ≤ d.used + 1 then 0 else word (d.area + 4 * (d.used + 1)) % 65536
    ((desc + 20, d.used + 1) :: (if left = d.left then [] else [(desc + 24, left)]), some (put { d with used := d.used + 1, left }))

/-- Does the Leash hold a site atomic of the pack `lpid` back (R298)? -/
def Ctx.leashed (x : Ctx) (lpid j : Nat) (word : Nat → Nat) : Prop :=
  let d := x.site j
  x.trail.mode = 2 ∧ d.used < d.cap ∧ (word (d.area + 4 * d.used) / 65536 ≠ lpid ∨ d.left = 0)

/-- The words of the Trail that a site atomic at site `j` may read or write are mapped at the keys that `key` gives, apart from the `n`
bytes at `at_`. -/
def TrailMapped (s : State) (core ctx j : Nat) (key : Nat → Nat) (at_ n : Nat) : Prop :=
  let x := s.ctx ctx
  let d := x.site j
  ∀ a ∈ [d.area + 4 * (d.used - 1), d.area + 4 * d.used, d.area + 4 * (d.used + 1), x.trlbase.toNat + 32 * j + 20,
      x.trlbase.toNat + 32 * j + 24],
    MapsWord s core ctx a (key a) ∧ (key a + 4 ≤ at_ ∨ at_ + n ≤ key a)

/-! ### Engine operations -/

/-- What an engine sees as it runs an operation. -/
def engineW (s : State) (h : OpHead) : W := { startW s noWho (.nop {}) with who := h.who, covered := h.cover }

/-- The byte at a key as an operation reads it: as it was when a turn had it read early, or as it is (R203). -/
def OpHead.reads (h : OpHead) (s : State) (a : Nat) : Byte := ((h.early.find? fun e => e.1 == a).map (·.2)).getD (Memory.read s.mem a)

/-- An operation that is neither complete nor held, whose engine has met no error of its own, of the pack `q`, which stands at its place
alone and has not ended. -/
structure Runs (s : State) (h : OpHead) (q : Pack) : Prop where
  todo : h.result = none ∧ h.heldOn = none ∧ h.asked = []
  sound : h.hurt = false
  place : s.pack? h.core h.slot = some q
  uid : q.id.uid = h.uid
  only : ∀ e ∈ s.packs, e.2.id.uid = h.uid → e.1 = (h.core, h.slot)
  frames : ∀ f ∈ s.frames, f.2.pack.id.uid ≠ h.uid
  lives : q.status ≠ .ended

/-- In `t` one operation of class `e` of the pack `q` has retired with a code, 0 for none (R224, R226); no other pack has changed. -/
def Retired (s t : State) (h : OpHead) (q : Pack) (e : Eng) (code : Nat) : Prop :=
  (t.pack? h.core h.slot = some { q with
    cnt := q.cnt.put e (q.cnt.of e - 1)
    sys := if code = 0 then q.sys else { q.sys with asyncerr := recordError q.sys.asyncerr e h.seq code } }) ∧
  ∀ c l, (c, l) ≠ (h.core, h.slot) → t.pack? c l = s.pack? c l

/-- The pieces stand in `t` at their keys, each as the operation read it at the key that `src` gives its source, or as its fill; no other byte
of memory has changed; the granules written are full and unpoisoned, and no others have changed. -/
def Moved (h : OpHead) (s t : State) (src : Nat → Nat) (dest : List (Nat × Piece)) : Prop :=
  (∀ a, (∀ e ∈ dest, e.1 ≠ a) → Memory.read t.mem a = Memory.read s.mem a) ∧
  (∀ e ∈ dest, (∀ f ∈ dest, f.1 = e.1 → f = e) →
    Memory.read t.mem e.1 = match e.2.src with | some a => h.reads s (src a) | none => e.2.fill) ∧
  ∀ g, let written := ∃ e ∈ dest, 2 ^ 52 ≤ e.1 ∧ granuleOf e.1 = g
    (g ∈ t.granEmpty ↔ g ∈ s.granEmpty ∧ ¬ written) ∧ (g ∈ t.granPoison ↔ g ∈ s.granPoison ∧ ¬ written)

/-! ### Submissions -/

/-- The clusters that keep a submission: the receiving one, or those named in CLMASK that have a core with a window for the context, in ascending
order (R286). -/
def State.receivers (s : State) (x : Submission) : List Nat :=
  let t := parseTask x.task
  if t.clmask = 0 then [x.cluster] else (List.range 24).filter fun k => t.clmask.getLsbD k && s.clusterHas k t.ctx

/-- Nothing refuses a submission, its bank has room in the receiving cluster and in each that keeps a part, and no Whistle trigger is latching (R281,
R284, R286). -/
structure Accepts (s : State) (x : Submission) : Prop where
  calm : s.dev.triggers = []
  room : s.bankWaits x x.cluster (parseTask x.task).ctx = false
  rooms : (s.receivers x).all (fun k => !s.bankWaits x k (parseTask x.task).ctx) = true
  ok : refusal s x = none

/-- `s` with a record at the end of a bank; where the bank then holds more than 1,024, its newest record whose context's segment has room
stands in that segment (R283-R285). -/
def State.withRecord (s : State) (k b : Nat) (r : QRec) : State :=
  let z := s.bank k b
  let s1 := s.setBank k b { z with recs := z.recs ++ [r], nextAcc := z.nextAcc + 1 }
  if recWeight (z.recs ++ [r]) ≤ 1024 then s1
  else match spillable s1 k b with
    | some q => s1.setBank k b ((s1.bank k b).spill q)
    | none => s1

/-- The parts (cluster, first item, items) of `n` items among clusters: of `c` clusters the first n mod c take one more than the others (R286). -/
def splitAmong (n : Nat) (ks : List Nat) : List (Nat × Nat × Nat) :=
  let c := ks.length
  ks.zipIdx.map fun e => (e.1, n / c * e.2 + min e.2 (n % c), n / c + if e.2 < n % c then 1 else 0)

/-- A part of what a record stands for: `n` items from the one at `off` on. -/
def ItemSrc.part (src : ItemSrc) (off n : Nat) : ItemSrc :=
  match src with
  | .items l => .items ((l.drop off).take n)
  | .run wid o _ => .run (wid + BitVec.ofNat 64 off) (o + off) n
  | x => x

/-- The packs that a deterministic launch makes of `n` items. -/
def TaskRec.packs (t : TaskRec) (n : Nat) (src : ItemSrc) : Nat := t.packCount n (match src with | .items l => some l | _ => none)

/-- `s` with the records of a launch, one for each part that holds an item; `before` counts the packs of the parts before (R286, R291). -/
def State.withParts (s : State) (x : Submission) (id : Nat) (src : ItemSrc) : List (Nat × Nat × Nat) → Nat → State
  | [], _ => s
  | (k, off, n) :: r, before =>
    let t := parseTask x.task
    (if n = 0 then s else s.withRecord k x.bank
      { acc := (s.bank k x.bank).nextAcc, launch := id, ctx := t.ctx, prio := t.prio, src := src.part off n, before }).withParts x id src r
        (before + t.packs n (src.part off n))

/-- `s` with a launch of `n` items made of a submission and its record queued; the flows of its context are `flows`, and `arr` is the number
of its first item there, none while they have no room, whose TURN is noted then, or a launch held back before has come first (R97, R99, R283,
R286). -/
def State.queued (s : State) (x : Submission) (flows : Table (BitVec 32) Flow) (n : Nat) (arr : Option Nat) (src : ItemSrc) : State :=
  let t := parseTask x.task
  let y := s.ctx t.ctx
  let id := s.fresh + 1
  let parts := splitAmong n (s.receivers x)
  let s1 : State := { s.setCtx t.ctx { y with flows } with fresh := id }
  (s1.setLaunch id { task := t, roles := (x.second.map parseRoles).getD [], arr, left := n, unplaced := n, node := x.node
                     heldAt := y.short (launchNeeds t n (match src with | .items l => some l | _ => none))
                     lpid := if t.det then (parts.map fun e => t.packs e.2.2 (src.part e.2.1 e.2.2)).sum else 0 }).withParts x id src parts 0

/-- A submission of a record or a gang block whose flow is active with its class, and what it leaves: `f` is the flow's entry
before. Its items join the flow, or wait in the banks while the flow has no room, or a launch held back before has come first (R99; LOG 10). -/
def State.submitted (s : State) (x : Submission) (f : Flow) : State :=
  let t := parseTask x.task
  let src : ItemSrc := if x.second.isSome then .gang else .run t.base 0 t.count
  if f.room t.count ∧ s.heldBack t.ctx (s.fresh + 1) [t.label] = false then s.queued x (Table.set (s.ctx t.ctx).flows t.label (f.enqueue t.count)) t.count (some f.nextArr) src
  else s.queued x (s.ctx t.ctx).flows t.count none src

/-- May a record or block be accepted into an active flow: `f` is the flow's entry. -/
structure Joins (s : State) (x : Submission) (f : Flow) : Prop where
  accepts : Accepts s x
  plain : x.items = none
  items : (parseTask x.task).count ≠ 0
  entry : (s.ctx (parseTask x.task).ctx).flow? (parseTask x.task).label = some f
  cls : f.cls = (parseTask x.task).cls

/-! ### Completion records at physical addresses -/

/-- In `t` the completion record at key `k` counts one event more, and keeps its first error (R280, R341); every other byte of memory
reads as in `s`. -/
def Counted (s t : State) (k : Nat) (err : Option (Nat × Nat)) : Prop :=
  StoredAll s t
    ((match err with
      | some (code, detail) => if Memory.read s.mem (k + 8) = 0 then [(k + 8, leBytes 2 (code + 256 * detail))] else []
      | none => []) ++ [(k, leBytes 8 (leNat ((List.range 8).map fun j => Memory.read s.mem (k + j)) + 1))])

end Sys2Proof.Machine
end

