-- ==== Sys2Proof/Certificates/Slice0/Obligations.lean ====
section
/-! DEFINITION. The statements for the provers. -/

open Sys2Proof Sys2Proof.Machine

/-! ### Scalar instructions -/

/-- R76, R49, R75: the integer arithmetic instructions write the stated result to gD and change nothing else. -/
def Obligations.ScalarArithmetic : Prop :=
  ∀ (s : State) (p : Pack) (o : Opnd), s.curPack? = some p →
    let a := p.readG o.a.toNat
    let b := p.opB o
    WritesD s p o (.add o) (a + b) ∧
    WritesD s p o (.sub o) (a - b) ∧
    WritesD s p o (.mul o) (a * b) ∧
    WritesD s p o (.mulh o) ((if o.f = 1 then a.signExtend 128 * b.signExtend 128
      else a.setWidth 128 * b.setWidth 128).extractLsb' 64 64) ∧
    WritesD s p o (.div o) (if b = 0 then BitVec.allOnes 64 else if o.f = 1 then a.sdiv b else a / b) ∧
    WritesD s p o (.rem o) (if b = 0 then a else if o.f = 1 then a.srem b else a % b) ∧
    WritesD s p o (.min o) (if (if o.f = 1 then b.slt a else b.ult a) then b else a) ∧
    WritesD s p o (.max o) (if (if o.f = 1 then a.slt b else a.ult b) then b else a)

/-- R77, R79, R75: the logic, shift, rotate and field instructions, bit by bit. Those of R77 take F = 0 at all four lengths. -/
def Obligations.ScalarBits : Prop :=
  (∀ (f : Opnd → Instr), f ∈ [Instr.and, .or, .xor, .andn, .shl, .shr, .sar, .rol] →
    (∀ o : Opnd, (f o).WellFormed → o.f = 0) ∧
    ∀ (a b d : BitVec 6) (v : Word) (x : Option Ext), x = none ∨ x = some {} →
      (f { a, b, d, ext := x }).WellFormed ∧ (f { a, d, ext := x, lit := some v }).WellFormed) ∧
  ∀ (s : State) (p : Pack) (o : Opnd), s.curPack? = some p →
    let a := p.readG o.a.toNat
    let b := p.opB o
    let c := p.readG o.rc
    let k := b.toNat % 64
    let n := Nat.min (b.toNat / 64 % 128) 64
    let bitwise (i : Instr) (f : Nat → Bool) : Prop := ∃ v : Word, WritesD s p o i v ∧ ∀ j, j < 64 → v.getLsbD j = f j
    bitwise (.and o) (fun j => a.getLsbD j && b.getLsbD j) ∧
    bitwise (.or o) (fun j => a.getLsbD j || b.getLsbD j) ∧
    bitwise (.xor o) (fun j => a.getLsbD j != b.getLsbD j) ∧
    bitwise (.andn o) (fun j => a.getLsbD j && !b.getLsbD j) ∧
    bitwise (.shl o) (fun j => decide (k ≤ j) && a.getLsbD (j - k)) ∧
    bitwise (.shr o) (fun j => a.getLsbD (j + k)) ∧
    bitwise (.sar o) (fun j => if j + k < 64 then a.getLsbD (j + k) else a.getLsbD 63) ∧
    bitwise (.rol o) (fun j => a.getLsbD ((j + (64 - k)) % 64)) ∧
    bitwise (.bfx o) (fun j => decide (j < n) && a.getLsbD (k + j)) ∧
    bitwise (.bfi o) (fun j => if k ≤ j ∧ j < k + n then c.getLsbD (j - k) else a.getLsbD j)

/-- R78, R75: the one-operand instructions, their fields and lengths. -/
def Obligations.ScalarOneOperand : Prop :=
  (∀ (f : Opnd → Instr) (n : Nat), (f, n) ∈ [(Instr.clz, 0), (.ctz, 0), (.popc, 0), (.brev, 0), (.sext, 2), (.zext, 2)] →
    (∀ o : Opnd, (f o).WellFormed → o.b = 0 ∧ o.lit = none ∧ o.f.toNat ≤ n) ∧
    ∀ (v : BitVec 4) (a d : BitVec 6) (x : Option Ext), v.toNat ≤ n → x = none ∨ x = some {} → (f { f := v, a, d, ext := x }).WellFormed) ∧
  ∀ (s : State) (p : Pack) (o : Opnd), s.curPack? = some p →
    let a := p.readG o.a.toNat
    let w := if o.f = 0 then 8 else if o.f = 1 then 16 else 32
    (∃ v : Word, WritesD s p o (.clz o) v ∧ v.toNat ≤ 64 ∧ (∀ j, j < v.toNat → a.getLsbD (63 - j) = false) ∧
      (v.toNat < 64 → a.getLsbD (63 - v.toNat) = true)) ∧
    (∃ v : Word, WritesD s p o (.ctz o) v ∧ v.toNat ≤ 64 ∧ (∀ j, j < v.toNat → a.getLsbD j = false) ∧
      (v.toNat < 64 → a.getLsbD v.toNat = true)) ∧
    WritesD s p o (.popc o) (BitVec.ofNat 64 ((List.range 64).filter fun j => a.getLsbD j).length) ∧
    (∃ v : Word, WritesD s p o (.brev o) v ∧ ∀ j, j < 64 → v.getLsbD j = a.getLsbD (63 - j)) ∧
    (∃ v : Word, WritesD s p o (.sext o) v ∧ ∀ j, j < 64 → v.getLsbD j = if j < w then a.getLsbD j else a.getLsbD (w - 1)) ∧
    (∃ v : Word, WritesD s p o (.zext o) v ∧ ∀ j, j < 64 → v.getLsbD j = (decide (j < w) && a.getLsbD j))

/-- R80, R38, R75: compare, select, address and move, their fields and lengths. -/
def Obligations.ScalarSelect : Prop :=
  (∀ o : Opnd, ((Instr.setc o).WellFormed → o.f.toNat ≤ 9) ∧ ((Instr.sel o).WellFormed → o.f = 0 ∧ o.ext.isSome = true) ∧
    ((Instr.mov o).WellFormed → o.f = 0 ∧ o.a = 0)) ∧
  (∀ (f : BitVec 4) (a b c d : BitVec 6) (v : Word) (x : Option Ext), x = none ∨ x = some {} →
    let reg (f : BitVec 4) (a : BitVec 6) : Opnd := { f, a, b, d, ext := x }
    let lit (f : BitVec 4) (a : BitVec 6) : Opnd := { f, a, d, ext := x, lit := some v }
    (f.toNat ≤ 9 → (Instr.setc (reg f a)).WellFormed ∧ (Instr.setc (lit f a)).WellFormed) ∧
    (Instr.sel { a, b, d, ext := some { c } }).WellFormed ∧ (Instr.sel { a, d, ext := some { c }, lit := some v }).WellFormed ∧
    (Instr.lea (reg f a)).WellFormed ∧ (Instr.lea (lit f a)).WellFormed ∧
    (Instr.mov (reg 0 0)).WellFormed ∧ (Instr.mov (lit 0 0)).WellFormed) ∧
  ∀ (s : State) (p : Pack) (o : Opnd), s.curPack? = some p →
    let a := p.readG o.a.toNat
    let b := p.opB o
    WritesD s p o (.setc o) (if condHolds o.f a b then 1 else 0) ∧
    WritesD s p o (.sel o) (if p.readG o.rc ≠ 0 then a else b) ∧
    WritesD s p o (.lea o) (a + b * BitVec.ofNat 64 (2 ^ o.f.toNat)) ∧
    WritesD s p o (.mov o) b

/-- R81, R42: the branches, at every length. -/
def Obligations.ScalarBranches : Prop :=
  ∀ (s : State) (p : Pack) (o : Opnd), s.curPack? = some p →
    let a := p.readG o.a.toNat
    let past := p.pc + BitVec.ofNat 64 o.len
    let target := targetAt p.pc o
    GoesTo s p (.br o) target ∧
    GoesTo s p (.bz o) (if a = 0 then target else past) ∧
    GoesTo s p (.bnz o) (if a ≠ 0 then target else past) ∧
    GoesTo s p (.bcc o) (if condHolds o.f a (p.opB o) then p.pc + o.x.imm16.signExtend 64 * 4 else past) ∧
    (∃ q, exec (.loop o) s = .next (s.after q) ∧ WritesG p q o.a.toNat (a - 1) ∧
      q = { p with g := q.g, prog := {}, pc := if a - 1 ≠ 0 then target else past })

/-- R82: the calls, jumps and the return, their fields and lengths; CALLR reads its target before it writes the link. -/
def Obligations.ScalarCalls : Prop :=
  (∀ o : Opnd, ((Instr.call o).WellFormed → o.f = 0 ∧ o.a = 0) ∧
    ((Instr.callr o).WellFormed ∨ (Instr.jmp o).WellFormed → o.f = 0 ∧ o.b = 0 ∧ o.d = 0 ∧ o.lit = none) ∧
    ((Instr.ret o).WellFormed → o = {})) ∧
  (∀ (a b d : BitVec 6) (n : BitVec 16) (v : Word) (x : Option Ext), x = none ∨ x = some {} →
    (Instr.call { b, d }).WellFormed ∧ (Instr.call { ext := some { imm16 := n } }).WellFormed ∧
    (Instr.call { ext := x, lit := some v }).WellFormed ∧
    (Instr.callr { a, ext := x }).WellFormed ∧ (Instr.jmp { a, ext := x }).WellFormed ∧ (Instr.ret {}).WellFormed) ∧
  ∀ (s : State) (p : Pack) (o : Opnd), s.curPack? = some p →
    let link := p.pc + BitVec.ofNat 64 o.len
    let target := targetAt p.pc o
    (∃ q, exec (.call o) s = .next (s.after q) ∧ WritesG p q 62 link ∧ q = { p with g := q.g, prog := {}, pc := target }) ∧
    (∃ q, exec (.callr o) s = .next (s.after q) ∧ WritesG p q 62 link ∧
      q = { p with g := q.g, prog := {}, pc := p.readG o.a.toNat }) ∧
    GoesTo s p (.jmp o) (p.readG o.a.toNat) ∧
    GoesTo s p (.ret o) (p.readG 62)

/-- R84-R87, R75: the scalar floating instructions read the low bits of their registers and write the rounded result, zeros above. -/
def Obligations.ScalarFloating : Prop :=
  ∀ (s : State) (p : Pack) (o : Opnd), s.curPack? = some p →
    let t := o.f
    let f := fmtOf t
    let rm := o.x.rm.toNat
    let low (t : BitVec 4) (x : Word) : Nat := x.toNat % 2 ^ typeBits t
    let a := low t (p.readG o.a.toNat)
    let b := low t (p.opB o)
    let c := low t (p.readG o.rc)
    let u := if o.ext.isSome then o.x.ty2 else 8
    let out (i : Instr) (x : Nat) : Prop := WritesD s p o i (BitVec.ofNat 64 x)
    out (.fadd o) (f.op rm [a, b] (Machine.Num.add rm (f.unpack a) (f.unpack b))) ∧
    out (.fsub o) (f.op rm [a, b] (Machine.Num.add rm (f.unpack a) (f.unpack b).neg)) ∧
    out (.fmul o) (f.op rm [a, b] (Machine.Num.mul (f.unpack a) (f.unpack b))) ∧
    out (.ffma o) (f.op rm [a, b, c] (Machine.Num.add rm (Machine.Num.mul (f.unpack a) (f.unpack b)) (f.unpack c))) ∧
    out (.fdiv o) (f.op rm [a, b] (Machine.Num.div (f.unpack a) (f.unpack b))) ∧
    out (.fsqrt o) (f.op rm [a] (f.unpack a).sqrt) ∧
    out (.fmin o) (f.pick false a b) ∧
    out (.fmax o) (f.pick true a b) ∧
    out (.fsetc o) (if floatCond o.f.toNat (fmtOf u) (low u (p.readG o.a.toNat)) (low u (p.opB o)) then 1 else 0) ∧
    WritesD s p o (.fcvt o)
      (let r := convert o.f o.x.ty2 rm false (low o.x.ty2 (p.readG o.a.toNat))
       if isSignedType o.f then BitVec.ofInt 64 (intVal o.f r) else BitVec.ofNat 64 r) ∧
    out (.fclass o) (f.classOf a)

/-! ### Lane instructions -/

/-- R127-R129, R131: the integer lane instructions whose operands pass their checks work element by element in the participating
lanes, wrapping or saturating; the field that VBFX extracts and VBFI inserts, bit by bit (R128). -/
def Obligations.LaneInteger : Prop :=
  ∀ (s : State) (p : Pack) (o : Opnd), s.curPack? = some p →
    let t := o.f
    let n := typeBits t
    let c := dCount t o
    let v (x : Nat) : Int := intVal t x
    let fit (x : Int) : Nat := intBits t o.x.sat x
    let k (b : Nat) : Nat := b % n
    let does (i : Instr) (f : Nat → Nat → Nat → Nat) : Prop := operandCheck i p = .go → Elementwise s p o i n c f
    does (.vadd o) (fun a b _ => fit (v a + v b)) ∧
    does (.vsub o) (fun a b _ => fit (v a - v b)) ∧
    does (.vmul o) (fun a b _ => fit (v a * v b)) ∧
    does (.vmulh o) (fun a b _ => wrapBits n (v a * v b / 2 ^ n)) ∧
    does (.vmad o) (fun a b c => fit (v a * v b + v c)) ∧
    does (.vmin o) (fun a b _ => if v b < v a then b else a) ∧
    does (.vmax o) (fun a b _ => if v a < v b then b else a) ∧
    does (.vabs o) (fun a _ _ => wrapBits n (v a).natAbs) ∧
    does (.vneg o) (fun a _ _ => wrapBits n (-(v a))) ∧
    does (.vand o) (fun a b _ => a &&& b) ∧
    does (.vor o) (fun a b _ => a ||| b) ∧
    does (.vxor o) (fun a b _ => a ^^^ b) ∧
    does (.vnot o) (fun a _ _ => 2 ^ n - 1 - a) ∧
    does (.vshl o) (fun a b _ => fit (v a * 2 ^ k b)) ∧
    does (.vshr o) (fun a b _ => a / 2 ^ k b) ∧
    does (.vsar o) (fun a b _ => wrapBits n ((BitVec.ofNat n a).toInt / 2 ^ k b)) ∧
    does (.vclz o) (fun a _ _ => leadingZeros a n) ∧
    does (.vpopc o) (fun a _ _ => popCount a n) ∧
    does (.vbfi o) (fun a b c => bfiBits n a (b % 2 ^ 32) c) ∧
    does (.vbfx o) (fun a b _ => vbfxElem o a b) ∧
    (∀ a b c j : Nat, j < n →
      let pos := b % 64
      let m := min (b / 64 % 128) n
      let field (i : Nat) : Bool := decide (pos + i < n) && a.testBit (pos + i)
      (vbfxElem o a b).testBit j = (if j < m then field j else isSignedType t && decide (0 < m) && field (m - 1)) ∧
      (bfiBits n a (b % 2 ^ 32) c).testBit j = (if pos ≤ j ∧ j < pos + m then c.testBit (j - pos) else a.testBit j))

/-- R129, R131: the lane instructions that compare, select, move, narrow and permute bytes. -/
def Obligations.LaneSelect : Prop :=
  ∀ (s : State) (p : Pack) (o : Opnd), s.curPack? = some p →
    let u := if o.ext.isSome then o.x.ty2 else 0
    let n := typeBits u
    let ca := (vOne u).count o.x.wa
    let cd := vAny.count o.x.wd
    (operandCheck (.vsetc o) p = .go → LaneSets s p o (.vsetc o) fun l => predD o ((List.range (32 * ca / n)).all fun e =>
      intCond o.f.toNat n (elem n ((p.lane l).readV o.va ca) e) (elem n (bValue o ca (p.lane l)) e))) ∧
    (operandCheck (.vsel o) p = .go → LaneWrites s p o (.vsel o) o.vd cd fun l =>
      some (if (p.lane l).pred o.rc then (p.lane l).readV o.va cd else bValue o cd (p.lane l))) ∧
    (operandCheck (.vmov o) p = .go → LaneWrites s p o (.vmov o) o.vd cd fun l => some (bValue o cd (p.lane l))) ∧
    (operandCheck (.vsat o) p = .go → ∃ val : Nat → Nat, LaneWrites s p o (.vsat o) o.vd (dCount o.f o) (fun l => some (val l)) ∧
      ∀ l e, e < elemCount o.f o.x.wd →
        let x := intVal o.x.ty2 (elem (typeBits o.x.ty2) ((p.lane l).readV o.va ((vType o.x.ty2).count o.x.wa)) e)
        let r := roundToInt o.rm (decide (x < 0)) x.natAbs (2 ^ (o.x.imm16.toNat % 64))
        elem (typeBits o.f) (val l) e = wrapBits (typeBits o.f) (sat o.f r) % 2 ^ typeBits o.f) ∧
    (operandCheck (.vbytp o) p = .go → ∃ val : Nat → Nat, LaneWrites s p o (.vbytp o) o.vd 1 (fun l => some (val l)) ∧
      ∀ l e, e < 4 →
        let sel := elem 8 (bValue o 1 (p.lane l)) e
        let b := elem 8 ((p.lane l).readV o.va 1) (sel % 4)
        elem 8 (val l) e = if sel.testBit 7 then 0 else if sel.testBit 6 then (if b.testBit 7 then 0xFF else 0) else b)

/-- R132-R134: the floating lane instructions work element by element as their scalar counterparts; a comparison holds when it holds for
every element. The results of the transcendentals that are not exact come from the model's precision (LOG 16). -/
def Obligations.LaneFloating : Prop :=
  ∀ (s : State) (p : Pack) (o : Opnd), s.curPack? = some p →
    let f := fmtOf o.f
    let rm := o.rm
    let u := if o.ext.isSome then o.x.ty2 else 8
    let n := typeBits u
    let ca := (vOne u).count o.x.wa
    let does (i : Instr) (f : Nat → Nat → Nat → Nat) : Prop :=
      operandCheck i p = .go → Elementwise s p o i (typeBits o.f) (dCount o.f o) f
    does (.vfadd o) (fun a b _ => f.add rm a b) ∧
    does (.vfsub o) (fun a b _ => f.sub rm a b) ∧
    does (.vfmul o) (fun a b _ => f.mul rm a b) ∧
    does (.vffma o) (fun a b c => f.fma rm a b c) ∧
    does (.vfmin o) (fun a b _ => f.pick false a b) ∧
    does (.vfmax o) (fun a b _ => f.pick true a b) ∧
    does (.vfdiv o) (fun a b _ => f.div rm a b) ∧
    does (.vfsqrt o) (fun a _ _ => f.sqrt rm a) ∧
    does (.vrcp o) (fun a _ _ => f.rcp rm a) ∧
    does (.vrsq o) (fun a _ _ => f.rsq rm a) ∧
    does (.vexp2 o) (fun a _ _ => f.special rm .exp2 a) ∧
    does (.vlog2 o) (fun a _ _ => f.special rm .log2 a) ∧
    does (.vsin o) (fun a _ _ => f.special rm .sin a) ∧
    does (.vcos o) (fun a _ _ => f.special rm .cos a) ∧
    does (.vtanh o) (fun a _ _ => f.special rm .tanh a) ∧
    does (.vfclass o) (fun a _ _ => f.classOf a) ∧
    (operandCheck (.vfsetc o) p = .go → LaneSets s p o (.vfsetc o) fun l => predD o ((List.range (32 * ca / n)).all fun e =>
      floatCond o.f.toNat (fmtOf u) (elem n ((p.lane l).readV o.va ca) e) (elem n (bValue o ca (p.lane l)) e)))

/-- R135-R138: conversion, block encoding and decoding, and the change between lane layout and bit planes; what VCVT makes of one element
between types (R57, R58, R135), and the block encoding and its decoding (R59, R60). -/
def Obligations.LaneConversions : Prop :=
  ∀ (s : State) (p : Pack) (o : Opnd), s.curPack? = some p →
    let a (l : Nat) : Nat := ((p.lane l).reg o.va).val.toNat
    let w := bxWidth (o.f.toNat % 4)
    let t := bxFloat (o.f.toNat / 4)
    let ns := typeBits o.x.ty2
    let block (j : Nat) : List Machine.Num := (List.range 32).map fun i =>
      if takes p o (32 * j + i) then (fmtOf t).unpack (a (32 * j + i) % 2 ^ typeBits t) else .fin false 0 1
    let bits0 (l : Nat) : Nat := if takes p o l then a l else 0
    let ex (j : Nat) : Nat := (((List.range p.width).find? fun l => takes p o l && l / 32 == j).map fun l => a l / 256 % 65536).getD 0
    (operandCheck (.vcvt o) p = .go → ∃ val : Nat → Nat, LaneWrites s p o (.vcvt o) o.vd (dCount o.f o) (fun l => some (val l)) ∧
      ∀ l e, e < elemCount o.f o.x.wd →
        let b := ((p.lane l).reg o.vb).val.toNat
        elem (typeBits o.f) (val l) e =
          vcvtElem o (b % 256) (b / 256 % 256) (elem ns ((p.lane l).readV o.va ((vType o.x.ty2).count o.x.wa)) e) % 2 ^ typeBits o.f) ∧
    (operandCheck (.venc o) p = .go → LaneWrites s p o (.venc o) o.vd 1 fun l =>
      let e := encodeBX w o.rm (block (l / 32))
      some (e.2.1 * 2 ^ 16 + e.1 * 2 ^ 8 + e.2.2.getD (l % 32) 0)) ∧
    (operandCheck (.vdec o) p = .go → LaneWrites s p o (.vdec o) o.vd 1 fun l =>
      some ((fmtOf t).round 0 (decodeBX w (a l / 256 % 256) (a l / 65536 % 256) (a l % 2 ^ w)))) ∧
    (operandCheck (.vbpt o) p = .go → ∃ val : Nat → Nat,
      LaneWrites s p o (.vbpt o) o.vd 1 (fun l => if o.f.getLsbD 2 ∨ l % 32 ≤ w then some (val l) else none) ∧
      ∀ l, let j := l / 32
        let q := l % 32
        if o.f.getLsbD 2 then
          val l / 256 = (if j % 2 = 0 then bits0 (32 * j + w) % 65536 else bits0 (32 * (j - 1) + w) / 65536) ∧
          ∀ k, k < 8 → (val l).testBit k = (decide (k < w) && (bits0 (32 * j + (w - 1 - k))).testBit q)
        else if q < w then val l < 2 ^ 32 ∧ ∀ i, i < 32 → (val l).testBit i = (bits0 (32 * j + i)).testBit (w - 1 - q)
        else q = w → val l = if j % 2 = 0 then ex j + ex (j + 1) * 2 ^ 16 else 0) ∧
    (let td := o.f
     let ts := o.x.ty2
     let nd := typeBits td
     let f := fmtOf ts
     let g := fmtOf td
     let clamp (v : Int) : Int := max (intMin td) (min (intMax td) v)
     let whole (neg : Bool) (n d : Nat) : Int := if neg then -(roundDiv o.rm neg n d : Int) else roundDiv o.rm neg n d
     let toInt (v : Machine.Num) : Nat := match v with
       | .nan => 0
       | .inf neg => wrapBits nd (if neg then intMin td else intMax td)
       | .fin neg n d => wrapBits nd (clamp (whole neg n d))
     let ofInt (v : Int) : Machine.Num := .fin (decide (v < 0)) v.natAbs 1
     ∀ e0 e1 a : Nat,
       let r := vcvtElem o e0 e1 a
       (ts ≠ 14 → td ≠ 14 →
         (isIntType ts = true → isIntType td = true → r = wrapBits nd (if o.x.sat then clamp (intVal ts a) else intVal ts a)) ∧
         (isIntType ts = true → isIntType td = false → r = g.round o.rm (ofInt (intVal ts a))) ∧
         (isIntType ts = false → isIntType td = true → r = toInt (f.unpack a)) ∧
         (isIntType ts = false → isIntType td = false →
           (f.isNan a = false → r = g.round o.rm (f.unpack a)) ∧
           (f.isNan a = true → f.hasInf = false ∨ g.hasInf = false → r = g.signed (f.sign a) g.canon) ∧
           (f.isNan a = true → f.hasInf = true → g.hasInf = true →
             r = g.quiet (g.signed (f.sign a)
               (g.infMag + (if f.fb ≤ g.fb then f.frac a * 2 ^ (g.fb - f.fb) else f.frac a / 2 ^ (f.fb - g.fb))))))) ∧
       (ts = 14 → (isIntType td = true → r = toInt (decodeBX 8 e0 e1 a)) ∧ (isIntType td = false → r = g.round o.rm (decodeBX 8 e0 e1 a))) ∧
       (ts ≠ 14 → td = 14 →
         (e0 = 0xFF ∨ e1 = 0xFF → r = 0xC0) ∧
         (e0 ≠ 0xFF → e1 ≠ 0xFF → r = encodeElem 8 o.rm e0 e1 (if isIntType ts then ofInt (intVal ts a) else f.unpack a)))) ∧
    (∀ w e0 e1 x : Nat,
      let m := x % 2 ^ (w - 2)
      let sgn := x.testBit (w - 1)
      let e := if x.testBit (w - 2) then e1 else e0
      (e0 = 0xFF ∨ e1 = 0xFF → decodeBX w e0 e1 x = .nan) ∧
      (e0 ≠ 0xFF → e1 ≠ 0xFF →
        (m = 0 → decodeBX w e0 e1 x = if sgn = true ∧ x.testBit (w - 2) = true then .nan else .fin false 0 1) ∧
        (m ≠ 0 → decodeBX w e0 e1 x = .fin sgn (m * 2 ^ (e - 127)) (2 ^ (127 - e))))) ∧
    (∀ (w rm : Nat) (xs : List Machine.Num), 4 ≤ w → w ≤ 8 → rm ≤ 4 → (∀ neg n d, Machine.Num.fin neg n d ∈ xs → 0 < d) →
      let most := 2 ^ (w - 2) - 1
      let quot (neg : Bool) (n d e : Nat) : Nat := roundDiv rm neg (n * 2 ^ (127 - e)) (d * 2 ^ (e - 127))
      let fits (e : Nat) : Prop := ∀ neg n d, Machine.Num.fin neg n d ∈ xs → quot neg n d e ≤ most
      let some_ : Prop := ∃ neg n d, Machine.Num.fin neg n d ∈ xs ∧ n ≠ 0
      let pack (neg sel : Bool) (q : Nat) : Nat :=
        if q = 0 then 0 else (if neg then 2 ^ (w - 1) else 0) + (if sel then 2 ^ (w - 2) else 0) + q
      let r := encodeBX w rm xs
      let e1 := r.2.1
      (¬ some_ → e1 = 127) ∧
      (some_ → w - 2 ≤ e1 ∧ e1 ≤ 254 ∧ (w - 2 < e1 → ¬ fits (e1 - 1)) ∧ (e1 < 254 → fits e1)) ∧
      r.1 = e1 - (w - 2) ∧ r.2.2 = xs.map (encodeElem w rm r.1 e1) ∧
      ∀ e0 e1 : Nat,
        encodeElem w rm e0 e1 .nan = 2 ^ (w - 1) + 2 ^ (w - 2) ∧
        (∀ neg, encodeElem w rm e0 e1 (.inf neg) = 2 ^ (w - 1) + 2 ^ (w - 2)) ∧
        ∀ neg n d, encodeElem w rm e0 e1 (.fin neg n d) =
          if quot neg n d e0 ≤ most then pack neg false (quot neg n d e0) else pack neg true (min (quot neg n d e1) most))

/-- R139-R143, R71, R72: the instructions across lanes. -/
def Obligations.LaneCross : Prop :=
  ∀ (s : State) (p : Pack) (o : Opnd), s.curPack? = some p →
    let lanes := (List.range 1024).filter (takes p o)
    let b (l : Nat) : Nat := bValue o 1 (p.lane l)
    let cd := vAny.count o.x.wd
    let a (l : Nat) : Nat := (p.lane l).readV o.va cd
    let size := 32 / 2 ^ (o.f.toNat / 4)
    let source (l : Nat) : Int :=
      match o.f.toNat % 4 with
      | 0 => ((l % size) ^^^ (b l % 32 % size) : Nat)
      | 1 => (l % size : Nat) - (b l % 32 : Nat)
      | 2 => (l % size : Nat) + (b l % 32 : Nat)
      | _ => ((l % size + b l % 32) % size : Nat)
    let yes (l : Nat) : Bool := takes p o l && (p.lane l).pred o.a.toNat
    (operandCheck (.vperm o) p = .go → LaneWrites s p o (.vperm o) o.vd cd fun l =>
      if takes p o (b l % 1024) then some (a (b l % 1024)) else if o.f = 0 then some 0 else none) ∧
    (operandCheck (.vshfx o) p = .go → LaneWrites s p o (.vshfx o) o.vd cd fun l =>
      let src := l - l % size + (source l).toNat
      some (if 0 ≤ source l ∧ source l < size ∧ takes p o src then a src else a l)) ∧
    (operandCheck (.vbcast o) p = .go → LaneWrites s p o (.vbcast o) o.vd cd fun _ =>
      let lo := lanes.headD 0
      some (if o.f = 0 then (if takes p o (b lo % 1024) then a (b lo % 1024) else 0)
        else if o.f = 1 then a lo else a (lanes.getLastD 0))) ∧
    (operandCheck (.vballot o) p = .go →
      (o.f = 0 → ∃ val : Nat → Nat, LaneWrites s p o (.vballot o) o.vd 1 (fun l => some (val l)) ∧
        ∀ l, val l < 2 ^ 32 ∧ ∀ i, i < 32 → (val l).testBit i = yes (l / 32 * 32 + i)) ∧
      (o.f = 1 → WritesD s p o (.vballot o) (BitVec.ofNat 64 (lanes.filter yes).length)) ∧
      (o.f = 2 → WritesD s p o (.vballot o) (if lanes.any yes then 1 else 0)) ∧
      (3 ≤ o.f.toNat → WritesD s p o (.vballot o) (if lanes.all yes then 1 else 0))) ∧
    (operandCheck (.velect o) p = .go → LaneSets s p o (.velect o) fun l => predD o
      (if o.f = 0 then lanes.head? == some l else if o.f = 1 then lanes.getLast? == some l
        else (lanes.filter fun m => m / 32 == l / 32).head? == some l)) ∧
    (operandCheck (.vrnd o) p = .go →
      LaneWrites s p o (.vrnd o) o.vd (if o.f.toNat < 2 then 1 else 2) fun l =>
        let x := rndMix ((p.lane l).reg o.va).val.toNat ((p.lane l).reg o.vb).val.toNat
        some (if o.f = 0 then x % 2 ^ 32 else if o.f = 1 then (fmtOf 8).roundRat 0 false (x / 256 % 2 ^ 24) (2 ^ 24) else x))

/-- R71-R73, R142: scans in ascending lane order and reductions by the tree over positions 0 to 1023. -/
def Obligations.LaneReductions : Prop :=
  ∀ (s : State) (p : Pack) (o : Opnd), s.curPack? = some p → p.width ≤ 1024 →
    let t := o.x.ty2
    let c := (vOne t).count o.x.wa
    let x (l : Nat) : Nat := (p.lane l).readV o.va c
    let op := scanOp (o.f.toNat % 8) t o.rm
    let join (acc : Option Nat) (v : Nat) : Option Nat := some (match acc with | none => v | some y => op y v)
    let before (l : Nat) : Option Nat := ((List.range l).filter (takes p o)).foldl (fun acc m => join acc (x m)) none
    let tree := redTree op (fun l => if takes p o l then some (x l) else none) 10 0
    (operandCheck (.vscan o) p = .go → LaneWrites s p o (.vscan o) o.vd c fun l =>
      if o.f.getLsbD 3 then some ((before l).getD (scanIdentity (o.f.toNat % 8) t)) else join (before l) (x l)) ∧
    (operandCheck (.vred o) p = .go →
      match tree with
      | none => exec (.vred o) s = .next (s.after { p with pc := p.pc + BitVec.ofNat 64 o.len, prog := {} })
      | some v =>
        if o.f.getLsbD 3 then LaneWrites s p o (.vred o) o.vd c fun _ => some v
        else WritesD s p o (.vred o) (if isSignedType t then BitVec.ofInt 64 (intVal t v) else BitVec.ofNat 64 v))

/-- R144-R148: masks, predicates and identity. -/
def Obligations.MasksAndPredicates : Prop :=
  ∀ (s : State) (p : Pack) (o : Opnd), s.curPack? = some p → p.width ≤ 1024 →
    let lanes := (List.range 1024).filter (takes p o)
    let occupied (l : Nat) : Bool := decide (l < p.width) && p.occ.getLsbD l
    let word (f : Nat → Bool) (j : Nat) : Nat := ((List.range 32).map fun i => if f (32 * j + i) then 2 ^ i else 0).sum
    let read (f : Nat → Bool) : Nat :=
      if o.a = 32 then ((List.range 32).map fun j => if word f j = 0 then 0 else 2 ^ j).sum else word f o.a.toNat
    let a (l : Nat) : Bool := (p.lane l).pred o.a.toNat
    let b (l : Nat) : Bool := (p.lane l).pred o.b.toNat
    let masked (i : Instr) (f : Nat → Bool) : Prop :=
      ∃ m : Lanes, (∀ l, l < 1024 → m.getLsbD l =
          (p.occ.getLsbD l && (if p.mask.getLsbD l && !(p.part o).getLsbD l then true else f l))) ∧
        exec i s = .next (s.after
          (let q := { p with mask := m, pc := p.pc + BitVec.ofNat 64 o.len, prog := {} }; if m = 0 then q.resume else q))
    (operandCheck (.kmov o) p = .go →
      (o.f = 0 → o.a.toNat ≤ 32 → WritesD s p o (.kmov o) (BitVec.ofNat 64 (read (p.part o).getLsbD))) ∧
      (o.f = 1 → o.d.toNat < 32 → masked (.kmov o) fun l =>
        if l / 32 = o.d.toNat then (p.opB o).getLsbD (l % 32) else p.mask.getLsbD l) ∧
      (o.f = 1 → o.d = 32 → exec (.kmov o) s = .next (s.after { p with pc := p.pc + BitVec.ofNat 64 o.len, prog := {} })) ∧
      (2 ≤ o.f.toNat → o.a.toNat ≤ 32 → WritesD s p o (.kmov o) (BitVec.ofNat 64 (read p.occ.getLsbD)))) ∧
    (operandCheck (.kop o) p = .go → masked (.kop o) fun l =>
      let t := decide (l < p.width) && a l
      if o.f = 0 then p.mask.getLsbD l && t else if o.f = 1 then p.mask.getLsbD l && !t
      else if o.f = 2 then p.mask.getLsbD l || (p.occ.getLsbD l && t) else p.occ.getLsbD l) ∧
    (operandCheck (.kpop o) p = .go → WritesD s p o (.kpop o)
      (if o.f = 0 then BitVec.ofNat 64 lanes.length
       else if o.f = 1 then BitVec.ofNat 64 ((List.range 1024).filter occupied).length
       else if o.f = 2 then (lanes.head?.map (BitVec.ofNat 64)).getD (BitVec.allOnes 64)
       else (lanes.getLast?.map (BitVec.ofNat 64)).getD (BitVec.allOnes 64))) ∧
    (operandCheck (.pmov o) p = .go →
      (o.f = 0 → LaneSets s p o (.pmov o) fun l => predD o (a l)) ∧
      (o.f = 1 → LaneSets s p o (.pmov o) fun l => predD o (bValue o 1 (p.lane l) != 0)) ∧
      (o.f = 2 → LaneWrites s p o (.pmov o) o.vd 1 fun l => some (if a l then 1 else 0)) ∧
      (o.f = 3 → LaneWrites s p o (.pmov o) o.vd 1 fun l => some (p.lane l).p.toNat) ∧
      (o.f = 4 → LaneSets s p o (.pmov o) fun l k => some ((bValue o 1 (p.lane l)).testBit k)) ∧
      (5 ≤ o.f.toNat → LaneSets s p o (.pmov o) fun l => predD o (!a l))) ∧
    (operandCheck (.pop o) p = .go → LaneSets s p o (.pop o) fun l => predD o
      (if o.f = 0 then a l && b l else if o.f = 1 then a l || b l else if o.f = 2 then a l != b l else if o.f = 3 then a l && !b l
        else if o.f = 4 then !a l else decide (o.f = 5))) ∧
    (operandCheck (.wid o) p = .go → LaneWrites s p o (.wid o) o.vd (vAny.count o.x.wd) fun l =>
      let it := (p.lane l).item
      let widths := (s.launch it.launch).task.widths
      some (if o.f = 6 then it.wid.toNat else if o.f = 7 then it.label.toNat else if o.f = 8 then it.arr % 2 ^ 32
        else if o.f = 9 then (match it.cls with | .u => 0 | .o => 1 | .a => 2)
        else it.wid.toNat / 2 ^ (widths.take o.f.toNat).sum % 2 ^ widths.getD o.f.toNat 0)) ∧
    (operandCheck (.laneid o) p = .go → LaneWrites s p o (.laneid o) o.vd 1 fun l =>
      some (if o.f = 0 then l else if o.f = 1 then l % 32 else if o.f = 2 then l / 32 else p.width))

/-! ### Words -/

/-- Words that the spec works out bit by bit decode as it says they do: those of R47's worked encodings, R45's borderline words and R20's system
register accesses that are named here; the encodings of the other chapters are not in this statement. -/
def Obligations.DecodeSpecWords : Prop :=
  decodeHalves [0x01C61404] = .ok (.add { b := 7, a := 6, d := 5 }) ∧
  decodeHalves [0x00061406, 0x00000000, 0x00000001] = .ok (.add { a := 6, d := 5, lit := some 0x100000000 }) ∧
  decode [0x01, 0x11, 0x85, 0x01, 0, 0, 0, 0, 0x00, 0x13, 0, 0] =
    .ok (.vadd { b := 6, a := 5, d := 4, ext := some { pe := true, pg := 3 } }) ∧
  decodeHalves [0x8289218D, 0x024002C3, 0x00000000] =
    .ok (.vffma { f := 8, b := 10, a := 9, d := 8, ext := some { dh := 3, c := 11, ea := true, rm := 1 } }) ∧
  decodeHalves [0x00000274] = .ok (.endItems {}) ∧
  decodeHalves [0x000017C4] = .ok (.srd { d := 5 }) ∧
  decodeHalves [0x00121FC4] = .ok (.srd { a := 18, d := 7 }) ∧
  decodeHalves [0x0049C3C8] = .ok (.swr { b := 1, a := 9, d := 48 }) ∧
  decodeHalves [0x00000000] = .error .opcode ∧
  decodeHalves [0x000003FC] = .error .opcode ∧
  decodeHalves [0x000003C3, 0, 0, 0, 0] = .error (.illegal .length) ∧
  decodeHalves [0x01851102, 0, 0] = .error (.illegal .literal) ∧
  decodeHalves [0xC0C20464] = .error (.illegal .function) ∧
  decodeHalves [0x00C50901, 0x00010000, 0x00000000] = .error (.illegal .width)

/-- Decoding gives back every well-formed instruction from its bytes, whatever follows them; they are the 4, 12 or 20 bytes that its
length field names. -/
def Obligations.DecodeEncode : Prop :=
  ∀ (i : Instr) (rest : List Byte), i.WellFormed →
    decode (encodeBytes i ++ rest) = .ok i ∧ (encodeBytes i).length = (opndOf i).len

/-- What decodes is well formed, and its bytes are those that were decoded: no two words mean the same instruction. -/
def Obligations.EncodeDecode : Prop :=
  ∀ (bs : List Byte) (i : Instr), decode bs = .ok i → i.WellFormed ∧ bs.take (opndOf i).len = encodeBytes i

/-- R43 and R45, cases 1 and 8: bytes whose first word has opcode 0x00 or a reserved cell of the map, and bytes whose extension has a
bit of 47:45 set, are no instruction, whatever else stands in them. -/
def Obligations.ReservedRefused : Prop :=
  (∀ (w : Half) (rest : List Half), lenOf (lOf w) ≤ 4 * (rest.length + 1) →
    opOf w ∈ [0x00, 0x1D, 0x1E, 0x1F, 0x29, 0x2A, 0x2B, 0x2C, 0x2D, 0x2E, 0x2F, 0x3B, 0x3F, 0x5B, 0x5C, 0x5D, 0x5E, 0x5F, 0x75, 0x76,
        0x77, 0x85, 0x88, 0x89, 0x8A, 0x8B, 0x8C, 0x8D, 0x8E, 0x8F, 0x9E, 0x9F, 0xCD, 0xCE, 0xCF, 0xFB, 0xFC, 0xFD, 0xFE, 0xFF] ∨
      0xB3 ≤ opOf w ∧ opOf w ≤ 0xBF ∨ 0xDA ≤ opOf w ∧ opOf w ≤ 0xDF ∨ 0xE4 ≤ opOf w ∧ opOf w ≤ 0xEF →
    decodeHalves (w :: rest) = .error .opcode ∨ decodeHalves (w :: rest) = .error .reserved) ∧
  (∀ (w x0 x1 : Half) (rest : List Half), (lOf w).getLsbD 0 = true → lenOf (lOf w) ≤ 4 * (rest.length + 3) →
    x1.extractLsb' 13 3 ≠ 0 → decodeHalves (w :: x0 :: x1 :: rest) = .error .reserved)

/-! ### Reset, the step, and fetch -/

/-- R343, R10: right after power-on the device is in Boot, its memory lists nothing, and no context, no pack and no trigger exists; no bank
record, taken record, launch, resume record, frame or engine operation is queued and no pack is saved, no guard is waited for, and no
turn of the agenda is due. The reset values that the spec does not give are the model's (LOG 3, 8). -/
def Obligations.ResetBoot : Prop :=
  State.reset.dev.service = .boot ∧ State.reset.mem = [] ∧ State.reset.packs = [] ∧ State.reset.ctxs = [] ∧
    State.reset.dev.tripped = false ∧ State.reset.dev.triggers = [] ∧ State.reset.dev.snapshot = none ∧
    State.reset.launches = [] ∧ State.reset.resumes = [] ∧ State.reset.frames = [] ∧ State.reset.guardQ = [] ∧ State.reset.colls = [] ∧
    State.reset.mismatches = [] ∧ State.reset.journals = [] ∧ State.reset.agenda = [] ∧
    (∀ k, State.reset.cluster k = {}) ∧ (∀ c, State.reset.core c = {}) ∧ (∀ d, State.reset.die d = {})

/-- The state after reset keeps the invariant. The reset values that the spec does not give are the model's (LOG 3, 8). -/
def Obligations.ResetInv : Prop := State.reset.Inv

/-- No step ends in a fault or a refusal: every state whose memory is in its canonical form and in which nobody is issuing has a next
one, of which the same holds. -/
def Obligations.StepKeepsInv : Prop := ∀ s : State, s.Inv → ∃ t, step s = .next t ∧ t.Inv

/-- A step in which a core has its turn runs the decoded instruction: where the words at the chosen pack's PC are those of a well-formed
instruction, or it goes on with one of which a part has been done and which is not fetched again (LOG 40), and no replay or residue mismatch is due, the step is `exec` of it with the pack issuing, followed by what `followed` adds (the
cycles it takes, the counts of selection, the strike journals); a pack whose wait at a YIELD is over waits no longer. A mismatch does not stop
an instruction that names a register above the allotment (R45). A pack whose last instruction still owes issue cycles takes those and comes to
no other (R95, R289): nothing of it changes but what it owes and the model's notes of selection. A core has its turn by the agenda, or by the
default order when no internal event is due. Which of the pending turns comes first is the model's choice (LOG 1). -/
def Obligations.StepRunsDecoded : Prop :=
  (∀ (s : State) (core slot : Nat) (p : Pack) (aware : Bool) (i : Instr),
    s.choose core = some (slot, aware) → s.pack? core slot = some p → i.WellFormed →
    let q := if p.yields then { p with prog := { p.prog with wait := none } } else p
    let s0 := { s.setPack core slot q with cur := some (core, slot) }
    p.owed = 0 → p.pc.toNat < 2 ^ 57 → p.pc.toNat % 4 = 0 → p.prog.replay = none →
    mismatchAt s0 core slot q i = none ∨ allotted q i = false →
    p.prog.begun = some i ∨ (p.prog.begun = none ∧
      ∀ j (h : j < (encode i).length), Fetches s0 (issuer (core, slot) p) (p.pc.toNat + 4 * j) (encode i)[j]) →
    s.issueCore core = followed s core slot q i aware (exec i s0)) ∧
  (∀ (s : State) (core slot : Nat) (p : Pack) (aware : Bool),
    s.choose core = some (slot, aware) → s.pack? core slot = some p → p.owed ≠ 0 → s.journals = [] →
    ∃ t q, s.issueCore core = .next t ∧ t.pack? core slot = some q ∧ t.mem = s.mem ∧ t.ctxs = s.ctxs ∧ t.launches = s.launches ∧
      q.owed ≤ p.owed ∧ q.pc = p.pc ∧ q.g = p.g ∧ q.lanes = p.lanes ∧ q.sys = p.sys ∧ q.mask = p.mask ∧ q.stack = p.stack ∧
      q.status = p.status ∧ q.priv = p.priv ∧ (t.core core).issueCycles = (s.core core).issueCycles + (p.owed - q.owed)) ∧
  (∀ (s : State) (core : Nat) (r : List Turn), s.runs = true → s.agenda = .core core :: r →
    step s = { s with agenda := r }.issueCore core) ∧
  (∀ (s : State) (core : Nat), s.runs = true → s.agenda = [] → s.evTurn = true → s.nextEvent = none → s.nextCore = some core →
    step s = { s with focus := core + 1, evTurn := true }.issueCore core)

/-- R11, R45, R46: the checks of a fetch, in their order: PC in bounds, PC aligned, and the translation of each word of the instruction.
What stops a fetch is what the issue comes to: the trap is taken, with TL zero as no L field has been read (LOG 38), a page fault or a missing
translation is met, as by an instruction. An illegal word takes cause 0x01 with the word as its value and its L field in TSTAT.TL. Of these
traps nothing else changes, and the pack stands at its handler. -/
def Obligations.FetchChecks : Prop :=
  (∀ (s : State) (k : Nat × Nat) (p : Pack), s.cur = some k → s.curPack? = some p →
      let w := startW s (issuer k p) (.nop {})
      (2 ^ 57 ≤ p.pc.toNat → fetch s = .stop (.trap 0x05 p.pc none none)) ∧
      (p.pc.toNat < 2 ^ 57 → p.pc.toNat % 4 ≠ 0 → fetch s = .stop (.trap 0x06 p.pc none none)) ∧
      (∀ (ws : List Half), p.pc.toNat < 2 ^ 57 → p.pc.toNat % 4 = 0 →
        let va := p.pc.toNat + 4 * ws.length
        let at_ := BitVec.ofNat 64 va
        (∀ j (h : j < ws.length), Fetches s (issuer k p) (p.pc.toNat + 4 * j) ws[j]) →
        (∀ w0, ws.head? = some w0 → ws.length < lenOf (lOf w0) / 4) → va < 2 ^ 57 →
        (lookup w va = .absent → fetch s = .stop (.pageFault at_ 1 4 none)) ∧
        (lookup w va = .miss → fetch s = .stop (.miss [va] 4)) ∧
        (∀ e, lookup w va = .entry e → e.exe = false → fetch s = .stop (.trap 0x08 at_ none none)))) ∧
  (∀ (s : State) (core slot : Nat) (p : Pack) (aware : Bool) (w : Half), s.pack? core slot = some p →
      let q := if p.yields then { p with prog := { p.prog with wait := none } } else p
      let s0 := { s.setPack core slot q with cur := some (core, slot) }
      let tvec := (s.ctx p.id.ctx).tvec &&& 0xFFFFFFFFFFFFFFFC
      let entered (cause val tl : Word) : Pack := { p with
        sys := { p.sys with tpc := p.pc, tcause := cause, tval := val, tstat := tl <<< 2 }, priv := 1, pc := tvec, prog := {} }
      let issues (o : Host.Outcome State Fault Refusal) : Prop := s.issue core slot p aware = followed s core slot q (.nop {}) aware o
      p.owed = 0 → p.prog.begun = none →
      (fetch s0 = .illegal w → p.priv = 0 → tvec ≠ 0 → issues (.next (s0.after (entered 0x01 (w.setWidth 64) ((lOf w).setWidth 64))))) ∧
      (∀ e, fetch s0 = .stop e → issues (perform (.nop {}) (throw e) s0)) ∧
      (∀ cause val, fetch s0 = .stop (.trap cause val none none) → p.priv = 0 → tvec ≠ 0 →
        issues (.next (s0.after (entered (BitVec.ofNat 64 (cause % 256)) val 0)))))

/-! ### Traps and returns -/

/-- R22: taking a trap at user level with a handler installed, for any cause and value: the trap registers are written, the level
becomes handler, PC becomes TVEC, and nothing else changes. TRAP takes cause 0x10 with operand B so (R302). -/
def Obligations.TrapTaken : Prop :=
  ∀ (s : State) (p : Pack), s.curPack? = some p →
    let tvec := (s.ctx p.id.ctx).tvec &&& 0xFFFFFFFFFFFFFFFC
    let entered (cause : Nat) (val : Word) (l : BitVec 2) : Pack := { p with
      sys := { p.sys with tpc := p.pc, tcause := BitVec.ofNat 64 (cause % 256), tval := val, tstat := l.setWidth 64 <<< 2 }
      priv := 1, pc := tvec, prog := {} }
    p.priv = 0 → tvec ≠ 0 →
    (∀ (i : Instr) (cause : Nat) (val : Word),
      perform i (throw (.trap cause val none none)) s = .next (s.after (entered cause val (opndOf i).l))) ∧
    (∀ (o : Opnd), exec (.trap o) s = .next (s.after (entered 0x10 (p.opB o) o.l)))

/-- R23: a trap of any cause and value at handler level, or with no handler installed, stops the pack with its trap registers as they were,
and a context-fault record with PACKID, PC, cause and value is posted: into the ring where it has room, and otherwise behind it. Nothing
else changes: no other pack, context, core or cluster and no other byte. TRAP's cause is 0x10. In the ring's case no trigger is latching and
no memory snapshot is in progress; that a write which covers a word of HBM clears its poison is R319 (LOG 27). -/
def Obligations.TrapStops : Prop :=
  ∀ (s : State) (k : Nat × Nat) (p : Pack), s.cur = some k → s.curPack? = some p →
    let x := s.ctx p.id.ctx
    let stops (out : Host.Outcome State Fault Refusal) (cause : Nat) (val : Word) : Prop :=
      let rec_ := contextRecord 1 x.fqSeq (packId k.1 k.2 p.width) (cause % 256) p.id.ctx p.pc val
      let stopped : Pack := { p with status := .stopped cause val none none, prog := {} }
      let a := canonPa s.dev (x.fqBase + 32 * (x.fqPosted % x.fqSize))
      let room := x.fqWaiting = [] ∧ x.fqPosted < x.fqFreed + x.fqSize
      (room → s.Calm → Memory.wf s.mem → ∃ t, out = .next t ∧ Table.get? t.packs k = some stopped ∧
        t = { s.after stopped with ctxs := t.ctxs, mem := t.mem, touched := t.touched, hbmPoison := t.hbmPoison, hbmUe := t.hbmUe } ∧
        t.ctx p.id.ctx = { x with fqSeq := x.fqSeq + 1, fqPosted := x.fqPosted + 1 } ∧ (∀ d, d ≠ p.id.ctx → t.ctx d = s.ctx d) ∧
        (∀ j, j < 32 → Memory.read t.mem (a + j) = rec_.extractLsb' (8 * j) 8) ∧
        (∀ j, j < a ∨ a + 32 ≤ j → Memory.read t.mem j = Memory.read s.mem j) ∧
        (∀ w, (w ∈ t.hbmPoison ↔ w ∈ s.hbmPoison ∧ 32 * w ≠ a) ∧ (w ∈ t.hbmUe ↔ w ∈ s.hbmUe ∧ 32 * w ≠ a))) ∧
      (¬ room → ∃ t, out = .next t ∧ Table.get? t.packs k = some stopped ∧ t = { s.after stopped with ctxs := t.ctxs } ∧
        t.ctx p.id.ctx = { x with fqSeq := x.fqSeq + 1, fqWaiting := x.fqWaiting ++ [rec_] } ∧
        ∀ d, d ≠ p.id.ctx → t.ctx d = s.ctx d)
    p.priv ≠ 0 ∨ x.tvec &&& 0xFFFFFFFFFFFFFFFC = 0 →
    (∀ (i : Instr) (cause : Nat) (val : Word), stops (perform i (throw (.trap cause val none none)) s) cause val) ∧
    (∀ (o : Opnd), stops (exec (.trap o) s) 0x10 (p.opB o))

/-- R24, R306, R310, R315: at handler level ERET returns to TPC at the level saved in TSTAT and leaves the trap registers; FRESUME does the
same and sets the replay from the 128-byte lane image at FLTMASKP. Between a pre-emption entry and the return, both vacate the slot instead,
and the frame takes the pack's counters; between a restore entry and the return, the frame's full and poisoned bits, its counters and what
was due of a region come back first, and the frame is gone. -/
def Obligations.TrapReturns : Prop :=
  ∀ (s : State) (k : Nat × Nat) (p : Pack) (o : Opnd), s.cur = some k → s.curPack? = some p → p.priv ≠ 0 →
    let back (p : Pack) : Pack := { p with pc := p.sys.tpc, priv := p.sys.tstat.extractLsb' 0 2, prog := {} }
    let w0 := startW s (issuer k p) (.fresume o)
    (p.pre = none →
      exec (.eret o) s = .next (s.after (back p)) ∧
      (∀ (virt : Bool) (va key : Nat), scalarAccess .rd 0 p.sys.fltmaskp 128 w0 = .ok (virt, va, key) w0 → consumes s key 128 = none →
        ∃ img : Lanes, (∀ j, j < 128 → img.extractLsb' (8 * j) 8 = Memory.read s.mem (key + j)) ∧
          exec (.fresume o) s = .next (s.after { back p with prog := { replay := some img } }))) ∧
    (∀ (r : Preempted) (i : Instr), p.pre = some r → r.restore = false → i = .eret o ∨ i = .fresume o →
      (s.ctx p.id.ctx).pre = .none ∨ (∃ e ∈ s.packs, e.1.1 = k.1 ∧ e.1 ≠ k ∧ e.2.id.ctx = p.id.ctx) →
      exec i s = .next { (s.dropPack k.1 k.2).clearYields k.1 p.id.uid with
        cur := none
        frames := s.frames.map fun f => if f.1 = (p.id.ctx, r.frame) then
          (f.1, { f.2 with pack := { f.2.pack with cnt := p.cnt, issued := p.issued } }) else f }) ∧
    (∀ (r : Preempted) (f : Frame), p.pre = some r → r.restore = true → Table.get? s.frames (p.id.ctx, r.frame) = some f →
      let saved := f.pack
      let rest (t : State) : State := { t with frames := Table.del s.frames (p.id.ctx, r.frame) }
      ∃ q : Pack, exec (.eret o) s = .next (rest (s.after (back q))) ∧
        (let w1 : W := { w0 with st := rest (s.setCurPack q) }
         ∀ (virt : Bool) (va key : Nat), scalarAccess .rd 0 p.sys.fltmaskp 128 w1 = .ok (virt, va, key) w1 → consumes s key 128 = none →
           ∃ img : Lanes, (∀ j, j < 128 → img.extractLsb' (8 * j) 8 = Memory.read s.mem (key + j)) ∧
             exec (.fresume o) s = .next (rest (s.after { back q with prog := { replay := some img } }))) ∧
        q = { p with lanes := q.lanes, cnt := q.cnt, queries := p.queries + saved.queries, restart := saved.restart
                     pendingTrap := saved.pendingTrap, pre := none } ∧
        (∀ e, q.cnt.of e = p.cnt.of e + saved.cnt.of e) ∧
        ∀ l, l < p.width → l < 1024 → (q.lane l).p = (p.lane l).p ∧ (q.lane l).item = (p.lane l).item ∧
          ∀ n, n < p.allot → (q.lane l).reg n = { (p.lane l).reg n with
            full := ((saved.lane l).reg n).full, due := ((saved.lane l).reg n).due, sc := ((saved.lane l).reg n).sc, bad := ((saved.lane l).reg n).bad })

/-- R12, R16: at user level an instruction that needs handler level raises cause 0x03 with its first word, and has no other effect:
ERET, FRESUME, TLBW, TLBINV, SNAPT of a context without leave, SRD and SWR of a register that the level may not reach. -/
def Obligations.PrivilegeTraps : Prop :=
  ∀ (s : State) (p : Pack) (o : Opnd) (i : Instr), s.curPack? = some p → p.priv = 0 →
    let x := s.ctx p.id.ctx
    let tvec := x.tvec &&& 0xFFFFFFFFFFFFFFFC
    tvec ≠ 0 →
    i = .eret o ∨ i = .fresume o ∨ i = .tlbw o ∨ i = .tlbinv o ∨ (i = .snapt o ∧ x.snapok = false) ∨
      (i = .srd o ∧ sysAt (srdNumber o) 0 = .trap) ∨ (i = .swr o ∧ sysAt (swrNumber o) 0 = .trap) →
    exec i s = .next (s.after { p with
      sys := { p.sys with tpc := p.pc, tcause := 0x03, tval := (firstWord i).setWidth 64, tstat := o.l.setWidth 64 <<< 2 }
      priv := 1, pc := tvec, prog := {} })

/-- R20, R16, R6, R7, R21: the access of every register at each level; SRD writes the register's value to gD; SWR writes what the register's
map admits, discards a write to a register that is read-only at the level, and a read after a write gives what the map admitted; the maps of
TVEC, TSTAT, CKI, TRLCTL and TRLBASE by their bits; NOP only advances PC. FENCE advances PC, and a store hash that lags catches up (R217,
R299): that every access is performed at its own step, so that nothing else waits, is the model's (LOG 2). -/
def Obligations.SystemRegisters : Prop :=
  ∀ (s : State) (k : Nat × Nat) (p : Pack) (o : Opnd), s.cur = some k → s.curPack? = some p →
    let x := p.readG o.a.toNat
    let n := swrNumber o
    let past : Pack := { p with pc := p.pc + BitVec.ofNat 64 o.len, prog := {} }
    let c := s.ctx p.id.ctx
    (sysAt (srdNumber o) p.priv ≠ .trap → WritesD s p o (.srd o) (sysRead s k.1 k.2 p (srdNumber o))) ∧
    (sysAt n p.priv = .ro → exec (.swr o) s = .next (s.after past)) ∧
    (sysAt n p.priv = .rw → ∃ t q, exec (.swr o) s = .next t ∧ Table.get? t.packs k = some q ∧
      sysRead t k.1 k.2 q n = writeMask n (sysRead s k.1 k.2 p n) x ∧
      (∀ m, m ≠ n → sysRead t k.1 k.2 q m = sysRead s k.1 k.2 p m) ∧
      q = { past with sys := q.sys } ∧ t = { s.after q with ctxs := t.ctxs } ∧
      (∀ d, d ≠ p.id.ctx → t.ctx d = s.ctx d) ∧
      (let y := t.ctx p.id.ctx
       y = { c with tvec := y.tvec, trlctl := y.trlctl, trlbase := y.trlbase, quiet := y.quiet, heelsp := y.heelsp })) ∧
    exec (.nop o) s = .next (s.after past) ∧
    exec (.fence o) s = .next (s.after (match p.lag with
      | none => past
      | some l => { past with sys := { p.sys with shash := l.foldl (fun h e => h.rotateLeft 5 ^^^ e.1 ^^^ e.2) p.sys.shash }, lag := some [] })) ∧
    sysRead s k.1 k.2 p 0x001 = BitVec.ofNat 64 (k.1 * 4096 + k.2 * 64 + p.width / 32) ∧
    sysRead s k.1 k.2 p 0x002 = BitVec.ofNat 64 (c.tenant.toNat * 256 + p.id.ctx) ∧
    (∀ e ∈ ([(0x000, .ro, .ro), (0x001, .ro, .ro), (0x002, .ro, .ro), (0x010, .ro, .rw), (0x011, .trap, .rw), (0x012, .trap, .rw),
        (0x013, .trap, .rw), (0x014, .trap, .rw), (0x015, .trap, .rw), (0x020, .rw, .rw), (0x021, .ro, .rw), (0x022, .ro, .rw),
        (0x030, .trap, .rw), (0x031, .trap, .rw), (0x032, .trap, .rw), (0x033, .trap, .rw), (0x040, .ro, .rw), (0x050, .trap, .rw),
        (0x051, .trap, .rw), (0x052, .ro, .rw), (0x053, .ro, .rw), (0x060, .trap, .rw), (0x061, .trap, .rw), (0x070, .ro, .rw),
        (0x080, .trap, .rw)] : List (Nat × Access × Access)),
      sysAt e.1 0 = e.2.1 ∧ sysAt e.1 1 = e.2.2) ∧
    (∀ (old v : Word) (j : Nat), j < 64 →
      (writeMask 0x010 old v).getLsbD j = (decide (2 ≤ j) && v.getLsbD j) ∧
      (writeMask 0x014 old v).getLsbD j = (decide (j < 4) && (if j < 2 ∧ v.getLsbD 1 = true then old.getLsbD j else v.getLsbD j)) ∧
      (writeMask 0x020 old v).getLsbD j =
        (if j < 2 then old.getLsbD j && v.getLsbD j
         else if j = 32 ∨ j = 33 then v.getLsbD j
         else decide (48 ≤ j ∧ v.toNat / 2 ^ 48 ≠ 0) && old.getLsbD j) ∧
      (writeMask 0x050 old v).getLsbD j =
        (if j < 2 then (if v.toNat % 4 = 3 then old.getLsbD j else v.getLsbD j)
         else if j < 7 then (if 16 < v.toNat / 4 % 32 then old.getLsbD j else v.getLsbD j)
         else decide (j = 8) && old.getLsbD j && v.getLsbD j) ∧
      (writeMask 0x051 old v).getLsbD j = (decide (9 ≤ j ∧ j < 57) && v.getLsbD j))

/-! ### Rounding -/

/-- R53: rounding a magnitude n/d to an integer gives one of the two integers beside it, itself when it is one, and of the two the
one that the mode picks: the nearer with ties to even (0) or away from zero (4), toward zero (1), up (2), down (3). -/
def Obligations.Rounding : Prop :=
  ∀ (rm : Nat) (neg : Bool) (n d : Nat), 0 < d → rm ≤ 4 →
    let r := roundDiv rm neg n d
    let lo := n / d
    (n % d = 0 → r = lo) ∧
    (n % d ≠ 0 →
      (r = lo ∨ r = lo + 1) ∧
      (rm = 0 → (2 * (n % d) < d → r = lo) ∧ (d < 2 * (n % d) → r = lo + 1) ∧ (2 * (n % d) = d → r % 2 = 0)) ∧
      (rm = 1 → r = lo) ∧
      (rm = 2 → r = if neg then lo else lo + 1) ∧
      (rm = 3 → r = if neg then lo + 1 else lo) ∧
      (rm = 4 → (r = lo ↔ 2 * (n % d) < d)))

/-! ### Scalar memory -/

/-- R88, R89, R298, R299: a scalar access that passes its checks. LD writes the bytes at the accessed address to gD, extended as its type
says (an .inv load those of the copies that the caches give its launch, LOG 2); ST stores the low bytes of gD there; AMO writes the old value
to gD and stores the new one, and a compare-and-swap that fails stores nothing. A store into slot 0 of the handle table is discarded
(R14); a store of a recorded launch steps the store hash, or is kept while the hash lags (LOG 2). An AMO of a recorded launch on a site is
logged, or advances the replay, and TRLPOS counts it; one that the Leash holds back waits. No other byte and no other register changes.
On a page that is none of AtomicOps, AMO reads what stood there before a host processor's write that falls between its read and its write (R177).
That MODE and the sites are those of the launch's start, and what a full area does, is LOG 36; AMO is stated with no region open. -/
def Obligations.ScalarMemory : Prop :=
  ∀ (s : State) (k : Nat × Nat) (p : Pack) (o : Opnd) (virt : Bool) (va key : Nat), s.cur = some k → s.curPack? = some p →
    s.Calm →
    let x := s.ctx p.id.ctx
    let passes (i : Instr) (acc : Acc) (n : Nat) : Prop :=
      scalarAccess acc o.a.toNat (scalarOffset p o n) n (startW s (issuer k p) i) = .ok (virt, va, key) (startW s (issuer k p) i)
    let given (n : Nat) : Nat := leNat ((List.range n).map fun j =>
      if o.x.inv then invByte (s.core k.1) p.id.launch key j (Memory.read s.mem (key + j)) else Memory.read s.mem (key + j))
    let past : Pack := { p with pc := p.pc + BitVec.ofNat 64 o.len, prog := {} }
    let slot0 : Prop := virt = true ∧ x.htab.toNat ≤ va ∧ va < x.htab.toNat + 64
    let retired (q : Pack) (bs : List Byte) : Pack := q.retires (s.records p) (storeParts va bs)
    (let n := typeBytes o.f
     (passes (.ld o) .rd n → consumes s key n = none →
       WritesD s p o (.ld o) (if isSignedType o.f then BitVec.ofInt 64 (intVal o.f (given n)) else BitVec.ofNat 64 (given n))) ∧
     (passes (.st o) .wr n → Memory.wf s.mem →
       let bs := leBytes n (p.readG o.d.toNat).toNat
       ∃ t, exec (.st o) s = .next t ∧ t = { s.after (retired past bs) with mem := t.mem, touched := t.touched } ∧
         if slot0 then t.mem = s.mem else Stored s t key bs)) ∧
    (let t := o.x.ty2
     let n := typeBytes t
     let plain : Bool := ((entryOf (startW s (issuer k p) (.amo o)) va).map (·.ha)).getD false
     let old := leNat ((List.range n).map fun j =>
       if plain then Memory.read s.mem (key + j) else rmwByte s (key + j) (Memory.read s.mem (key + j)))
     let new := p.amoNew o old
     let own : List (Nat × List Byte) := if slot0 then [] else match new with
       | some v => [(key, leBytes n v)]
       | none => []
     let done (q : Pack) : Pack := match new with
       | some v => retired q (leBytes n v)
       | none => q
     let got : Word := if isSignedType t then BitVec.ofInt 64 (intVal t old) else BitVec.ofNat 64 old
     passes (.amo o) .rmw n → Memory.wf s.mem → consumes s key n = none → t.toNat < 4 → p.sys.rgnpc = 0 →
       (∀ e, virt = true → entryOf (startW s (issuer k p) (.amo o)) va = some e → haRefuses e (isAtomicOp o.f.toNat t) = false) →
       let site := if virt ∧ s.records p then siteOf x.trail va n else none
       (site = none → ∃ u q, exec (.amo o) s = .next u ∧ WritesG p q o.d.toNat got ∧ q = { done past with g := q.g } ∧
         u = { s.after q with mem := u.mem, touched := u.touched } ∧ StoredAll s u own) ∧
       (∀ (j : Nat) (tk : Nat → Nat), site = some j → TrailMapped s k.1 p.id.ctx j tk key n →
         let word (a : Nat) : Nat := leNat ((List.range 4).map fun i => Memory.read s.mem (tk a + i))
         (x.leashed p.id.lpid.toNat j word →
           exec (.amo o) s = .next (s.after { p with prog := { p.prog with wait := some { why := .leash j, instr := .amo o } } })) ∧
         (¬ x.leashed p.id.lpid.toNat j word → x.trail.mode = 1 ∨ x.trail.mode = 2 →
           let logged := x.siteLogged p.id.lpid.toNat j word
           let s1 := match logged.2 with
             | some y => s.setCtx p.id.ctx y
             | none => s
           ∃ u q, exec (.amo o) s = .next u ∧ WritesG p q o.d.toNat got ∧
             q = { done past with g := q.g, sys := { (done past).sys with trlpos := p.sys.trlpos + 1 } } ∧
             u = { s1.after q with mem := u.mem, touched := u.touched } ∧ StoredAll s u (own ++ logged.1.map fun e => (tk e.1, leBytes 4 e.2)))))

/-- R13-R15, R171, R179: the checks of a scalar access through a handle whose record has been read, in their order: bounds, the scratchpad
window, alignment, the handle's RO bit, then the page; each with its TVAL. An invalid record has extent 0. That a misaligned access which begins
inside the window and ends beyond it takes cause 0x05, and not 0x06, is the model's reading (LOG 28). -/
def Obligations.ScalarAccessOrder : Prop :=
  ∀ (s : State) (who : Who) (i : Instr) (acc : Acc) (h n rec_ : Nat) (off : Word),
    let w := startW s who i
    let r := parseHnd rec_
    let va := (r.base + r.swizzle off.toNat) % 2 ^ 57
    let at_ := BitVec.ofNat 64 va
    let got := scalarAccess acc h off n w
    readRecord h none w = .ok rec_ w →
    (recordOk rec_ = false → r.extent = 0) ∧
    (r.extent < off.toNat + n → got = .error (.trap 0x05 off none none) w) ∧
    (off.toNat + n ≤ r.extent →
      (r.space = true → scratchAt s who va n = none → got = .error (.trap 0x05 at_ none none) w) ∧
      ((r.space = true → scratchAt s who va n ≠ none) →
        (va % n ≠ 0 → got = .error (.trap 0x06 at_ none none) w) ∧
        (va % n = 0 →
          (acc = .wr ∨ acc = .rmw → r.ro = true → got = .error (.trap 0x08 at_ none none) w) ∧
          (acc = .rd ∨ r.ro = false → acc ≠ .ex →
            (∀ key, r.space = true → scratchAt s who va n = some key → got = .ok (false, va, key) w) ∧
            (r.space = false →
              (∀ key, translate acc va w = .ok key w → got = .ok (true, va, key) w) ∧
              (∀ e, translate acc va w = .error e w → got = .error e w))))))

/-! ### The checks of lane instructions -/

/-- R130: VMOVX reads and VMOVXW writes, in each lane, the registers that the lane's own index names; where a lane names none, the lowest
such lane traps with cause 0x05. -/
def Obligations.LaneMoveIndexed : Prop :=
  ∀ (s : State) (k : Nat × Nat) (p : Pack) (o : Opnd), s.cur = some k → s.curPack? = some p →
    let index (w l : Nat) : Int :=
      let idx := ((p.lane l).reg o.va).val.toNat % 256
      o.x.imm16.toInt + (if o.f = 0 then idx else idx * w : Nat)
    let outside (w l : Nat) : Bool := index w l < 0 || index w l + w > p.allot || index w l % w ≠ 0
    let tval (w l : Nat) : Word := BitVec.ofNat 64 (2 ^ 63 + l * 2 ^ 16) ||| (BitVec.ofInt 16 (index w l)).setWidth 64
    let badLane (i : Instr) (w : Nat) : Prop :=
      ∀ l, takes p o l = true → outside w l = true → (∀ m, m < l → takes p o m = true → outside w m = false) →
        exec i s = perform i (throw (.trap 0x05 (tval w l) none none)) s
    let wx := vAny.count o.x.wd
    let ww := vAny.count o.x.wb
    (operandCheck (.vmovx o) p = .go →
      badLane (.vmovx o) wx ∧
      (movxCheck o wx false (startW s (issuer k p) (.vmovx o)) = .ok () (startW s (issuer k p) (.vmovx o)) →
        LaneWrites s p o (.vmovx o) o.vd wx fun l => some ((p.lane l).readV (index wx l).toNat wx))) ∧
    (operandCheck (.vmovxw o) p = .go →
      badLane (.vmovxw o) ww ∧
      (movxCheck o ww true (startW s (issuer k p) (.vmovxw o)) = .ok () (startW s (issuer k p) (.vmovxw o)) →
        ∃ q, exec (.vmovxw o) s = .next (s.after q) ∧ LanesOnly p q o ∧
          (∀ l, (q.lane l).p = (p.lane l).p ∧ (q.lane l).item = (p.lane l).item) ∧
          ∀ l r, (q.lane l).reg r =
            if takes p o l ∧ (index ww l).toNat ≤ r ∧ r < (index ww l).toNat + ww then
              { val := BitVec.ofNat 32 ((p.lane l).readV o.vb ww / 2 ^ (32 * (r - (index ww l).toNat))) }
            else (p.lane l).reg r))

/-- R35, R36, R125: a lane instruction whose operands fail their checks does what the check says and nothing else: a register at or
above the allotment is the illegal-instruction trap with the first word; an empty source under its empty action traps with cause 0x04,
naming register, operand and the lowest such lane, the first of A, B and C; otherwise an empty source makes the pack wait for its registers
to be full, and then a destination register with a value due makes it wait until none is due. Between a pre-emption or restore entry and the
return only a source register's own error counts (R310, R321). That a poisoned source is looked at before an empty one traps is the model's (LOG 42). -/
def Obligations.LaneChecks : Prop :=
  ∀ (s : State) (p : Pack) (o : Opnd), s.curPack? = some p →
    (∀ (i : Instr) (op : Nat) (e : Stop), wordOf i = some (op, o) → 0x40 ≤ op ∧ op < 0x90 → operandCheck i p = .stop e →
      exec i s = perform i (throw e) s) ∧
    (let i := Instr.vadd o
     let c := dCount o.f o
     let part (l : Nat) : Prop := takes p o l = true
     let clean (l n : Nat) : Prop := ∀ j, j < c → ((p.lane l).reg (n + j)).bad = none
     let full (l n : Nat) : Prop := ∀ j, j < c → ((p.lane l).reg (n + j)).full = true
     o.x.wa = o.x.wd → o.x.wb = o.x.wd → o.lit = none →
     (p.allot < o.va + c ∨ p.allot < o.vb + c ∨ p.allot < o.vd + c →
       operandCheck i p = .stop (.trap 0x01 ((firstWord i).setWidth 64) none none)) ∧
     (o.va + c ≤ p.allot → o.vb + c ≤ p.allot → o.vd + c ≤ p.allot → p.pre = none →
       (∀ l, part l → clean l o.va ∧ clean l o.vb) →
       (∀ l j, o.x.ea = true → part l → j < c → ((p.lane l).reg (o.va + j)).full = false →
         (∀ i, i < j → ((p.lane l).reg (o.va + i)).full = true) → (∀ m, m < l → part m → full m o.va) →
         operandCheck i p = .stop (.trap 0x04 (BitVec.ofNat 64 (o.va + j + l * 65536)) none none)) ∧
       (∀ l, o.x.ea = false → o.x.eb = false → part l → ¬ full l o.va ∨ ¬ full l o.vb →
         ∃ regs, operandCheck i p = .stop (.block (.full regs))))) ∧
    (o.lit = none →
      (formOf (.vmad o)).map (fun fm => sources fm o) = some
        [{ which := 0, base := o.va, count := (vType o.f).count o.x.wa, trap := o.x.ea },
         { which := 1, base := o.vb, count := (vType o.f).count o.x.wb, trap := o.x.eb },
         { which := 2, base := o.vc, count := (vType o.f).count o.x.wc, trap := o.x.ec }] ∧
      (formOf (.vst o)).map (fun fm => sources fm o) = some [{ which := 3, base := o.vd, count := (vType o.f).count o.x.wd, trap := false }]) ∧
    (∀ (i : Instr) (fm : Form), formOf i = some fm → opndOf i = o →
      let ss := sources fm o
      let dest := destRegs fm o
      let above := (∃ x ∈ ss, p.allot < x.base + x.count) ∨ (fm.d.isV = true ∧ p.allot < o.vd + fm.d.count o.x.wd)
      let part (l : Nat) : Prop := takes p o l = true
      let empty (x : Src) (l n : Nat) : Prop := x.base ≤ n ∧ n < x.base + x.count ∧ ((p.lane l).reg n).full = false
      let due (l n : Nat) : Prop := n ∈ dest ∧ p.mustSettle l n = true
      let trapped (x : Src) : Prop := x.trap = true ∧ ∃ l n, part l ∧ empty x l n
      (above → operandCheck i p = .stop (.trap 0x01 ((firstWord i).setWidth 64) none none)) ∧
      let sound := ∀ x ∈ ss, ∀ l n, part l → x.base ≤ n → n < x.base + x.count → ((p.lane l).reg n).ue = false
      (¬ above → p.pre.isSome = true → (sound → operandCheck i p = .go) ∧ (¬ sound → operandCheck i p = .damaged)) ∧
      (¬ above → p.pre = none → (∀ x ∈ ss, ∀ l n, part l → x.base ≤ n → n < x.base + x.count → ((p.lane l).reg n).bad = none) →
        (∀ a x b l n, ss = a ++ x :: b → (∀ y ∈ a, ¬ trapped y) → x.trap = true → part l → empty x l n →
          (∀ m j, part m → empty x m j → l < m ∨ (l = m ∧ n ≤ j)) →
          operandCheck i p = .stop (.trap 0x04 (BitVec.ofNat 64 (n + x.which * 256 + l * 65536)) none none)) ∧
        ((∀ x ∈ ss, ¬ trapped x) →
          ((∃ x ∈ ss, ∃ l n, part l ∧ empty x l n) → ∃ regs, operandCheck i p = .stop (.block (.full regs)) ∧
            ∀ l n, (l, n) ∈ regs ↔ part l ∧ ∃ x ∈ ss, empty x l n) ∧
          ((∀ x ∈ ss, ∀ l n, part l → ¬ empty x l n) →
            ((∃ l n, part l ∧ due l n) → ∃ regs, operandCheck i p = .stop (.block (.settled regs)) ∧
              ∀ l n, (l, n) ∈ regs ↔ part l ∧ due l n) ∧
            ((∀ l n, part l → ¬ due l n) →
              (sound → operandCheck i p = .go) ∧ (¬ sound → operandCheck i p = .damaged))))))

/-! ### Divergence and flows -/

/-- R111, R112, R114, R324: VBR splits the active lanes, VBRK takes lanes out to the topmost exit entry, and RECV falls through,
exchanges with a pending entry, or merges a join or exit entry and looks at the next; no region being open. A push beyond 256 entries, and a VBRK
with no exit entry, is a flow error (R100): of VBR it names the lowest taken lane or, with none, the lowest active one, of VBRK the lowest
lane that takes part. -/
def Obligations.Divergence : Prop :=
  ∀ (s : State) (p : Pack) (o : Opnd), s.curPack? = some p → p.sys.rgnpc = 0 →
    let past : Pack := { p with pc := p.pc + BitVec.ofNat 64 o.len, prog := {} }
    let tgt := p.pc + o.lit.getD ((o.b ++ o.d).signExtend 64 * 4)
    let ra := p.pc + o.x.imm16.signExtend 64 * 4
    let tk := p.taken o
    let f := p.mask &&& ~~~tk
    let resumed (q : Pack) : Pack := if q.mask = 0 then q.resume else q
    let flowError (i : Instr) (reason lane : Nat) : Prop :=
      exec i s = perform i (throw (.trap 0x0B (BitVec.ofNat 64 (reason + lane * 65536)) none none)) s
    let lowest (f : Nat → Bool) (lane : Nat) : Prop := f lane = true ∧ ∀ m, m < lane → f m = false
    let named (f g : Nat → Bool) (lane : Nat) : Prop :=
      lowest f lane ∨ ((∀ l, f l = false) ∧ (lowest g lane ∨ ((∀ l, g l = false) ∧ lane = 0)))
    let isTaken (l : Nat) : Bool := takes p o l && (p.lane l).pred o.a.toNat
    let isActive (l : Nat) : Bool := decide (l < p.width) && p.mask.getLsbD l
    (∀ l, tk.getLsbD l = isTaken l) ∧
    (tgt ≠ ra →
      (tk = 0 → exec (.vbr o) s = .next (s.after past)) ∧
      (tk ≠ 0 → f = 0 → exec (.vbr o) s = .next (s.after { p with pc := tgt, prog := {} })) ∧
      (tk ≠ 0 → f ≠ 0 → p.stack.length < 256 → exec (.vbr o) s = .next (s.after
        { past with mask := f, stack := { kind := .pending, pc := tgt, mask := tk, ra } :: p.stack })) ∧
      (tk ≠ 0 → f ≠ 0 → 256 ≤ p.stack.length → ∃ lane, lowest isTaken lane ∧ flowError (.vbr o) 3 lane)) ∧
    (tgt = ra → 256 ≤ p.stack.length → (∀ e, p.stack.head? = some e → e.kind ≠ .exit ∨ e.ra ≠ ra) →
      ∃ lane, named isTaken isActive lane ∧ flowError (.vbr o) 3 lane) ∧
    (tgt = ra → ∀ st : List Entry,
      (∀ e r, p.stack = e :: r → e.kind = .exit → e.ra = ra → st = { e with mask := e.mask ||| tk } :: r) →
      ((∀ e, p.stack.head? = some e → e.kind ≠ .exit ∨ e.ra ≠ ra) → p.stack.length < 256 ∧
        st = { kind := .exit, pc := ra, mask := tk, ra } :: p.stack) →
      exec (.vbr o) s = .next (s.after (if f = 0 then ({ p with stack := st, prog := {} }).resume else { past with mask := f, stack := st }))) ∧
    ((∀ e, p.stack.head? = some e → e.ra ≠ p.pc) → exec (.recv o) s = .next (s.after { p with pc := p.pc + 4, prog := {} })) ∧
    (∀ e r, p.stack = e :: r → e.ra = p.pc →
      (e.kind = .pending → exec (.recv o) s = .next (s.after (resumed { p with
        stack := { kind := .join, pc := p.pc, mask := p.mask, ra := p.pc } :: r, mask := e.mask &&& p.occ, pc := e.pc, prog := {} }))) ∧
      (e.kind ≠ .pending → exec (.recv o) s = exec (.recv o) (s.setCurPack { p with stack := r, mask := (p.mask ||| e.mask) &&& p.occ }))) ∧
    (∀ above e r, p.stack = above ++ e :: r → e.kind = .exit → (∀ x ∈ above, x.kind ≠ .exit) →
      exec (.vbrk o) s = .next (s.after (resumed { past with
        stack := above ++ { e with mask := e.mask ||| p.part o } :: r, mask := p.mask &&& ~~~(p.part o) }))) ∧
    ((∀ x ∈ p.stack, x.kind ≠ .exit) → ∃ lane, named (takes p o) (fun _ => false) lane ∧ flowError (.vbrk o) 4 lane)

/-- R113: Resume makes the top entry's path current, a pending one leaving a join behind; an entry with no lane left is passed over;
with an empty stack nothing changes. -/
def Obligations.Resume : Prop :=
  ∀ (p : Pack),
    (p.stack = [] → p.resume = p) ∧
    (∀ e r, p.stack = e :: r →
      let m := e.mask &&& p.occ
      let join : Entry := { kind := .join, pc := e.ra, mask := 0, ra := e.ra }
      let q : Pack := if e.kind = .pending then { p with stack := join :: r, mask := m, pc := e.pc }
        else { p with stack := r, mask := m, pc := e.ra }
      (m ≠ 0 → p.resume = q) ∧ (m = 0 → p.resume = q.resume))

/-- R97, R100, R103, R150, R152: FLOW makes the labels that its lanes name active with its class and pins them; FDONE completes the slots
of its lanes' items; each leaves every other flow, every register and every byte. No region is open, and at FDONE no Whistle trigger is
latching. -/
def Obligations.FlowsOpenAndComplete : Prop :=
  ∀ (s : State) (p : Pack) (o : Opnd), s.curPack? = some p → p.sys.rgnpc = 0 →
    let past : Pack := { p with pc := p.pc + BitVec.ofNat 64 o.len, prog := {} }
    let n := p.id.ctx
    let x := s.ctx n
    let item (l : Nat) : Item := (p.lane l).item
    let label (l : Nat) : BitVec 32 := BitVec.ofNat 32 (bValue o 1 (p.lane l))
    let cls : FlowClass := if o.f = 0 then .u else if o.f = 1 then .o else .a
    let fresh := (((p.partList o).map label).filter fun y => (x.flow? y).isNone).dedup
    (operandCheck (.flow o) p = .go →
      (∀ l f, takes p o l = true → x.flow? (label l) = some f → f.cls = cls) → (fresh = [] ∨ x.flows.length + fresh.length ≤ x.flowCap) →
      ∃ t, exec (.flow o) s = .next t ∧ t = { s.after past with ctxs := t.ctxs } ∧ (∀ c, c ≠ n → t.ctx c = s.ctx c) ∧
        t.ctx n = { x with flows := (t.ctx n).flows } ∧
        ∀ y, (∀ l, takes p o l = true → label l ≠ y) ∧ (t.ctx n).flow? y = x.flow? y ∨
          ∃ l f, takes p o l = true ∧ label l = y ∧ (t.ctx n).flow? y = some f ∧
            (let old : Flow := (x.flow? y).getD { cls }
             f = { old with pins := f.pins } ∧
             ∀ k, k ∈ f.pins ↔ k ∈ old.pins ∨ ∃ m, takes p o m = true ∧ label m = y ∧ (item m).launch = k)) ∧
    (x.Apart → s.dev.triggers = [] →
      ∃ t q, exec (.fdone o) s = .next t ∧ t = { s.after q with ctxs := t.ctxs, launches := t.launches } ∧
        q = { past with lanes := q.lanes } ∧
        (∀ l, q.lane l = if takes p o l then { p.lane l with item := { item l with done := true } } else p.lane l) ∧
        Completed s t p (p.partList o))

/-- R103, R109, R113, R115, R116, R151, R155, R300: END takes its active lanes out of the pack, completes the slots of their items, and the
pack goes on, takes up stacked work, or, when no lane is left and nothing is outstanding, gives up its slot; in a recorded launch it then
first stores the store hash, one that lags having caught up, or in replay compares it and takes the divergence trap (R299, R300). FRELAB of lanes whose new flows stand, with no launch held back before them (R99; LOG 10), queues a resume
record for each and takes them out as well, and of all lanes gives up the slot; VBRD branches as VBR in a deterministic launch, and
otherwise opens a window. No region is open and no Whistle trigger is latching; the launch of a pack that gives up its slot pins no flow. -/
def Obligations.LanesLeave : Prop :=
  ∀ (s : State) (k : Nat × Nat) (p : Pack) (o : Opnd), s.cur = some k → s.curPack? = some p → p.sys.rgnpc = 0 → s.Calm →
    let n := p.id.ctx
    let x := s.ctx n
    let ls := p.part o
    let past := p.pc + BitVec.ofNat 64 o.len
    let left (q : Pack) : Pack := { p with
      occ := p.occ &&& ~~~ls, mask := p.mask &&& ~~~ls, stack := p.stack.map fun e => { e with mask := e.mask &&& ~~~ls }
      lanes := q.lanes, pc := past, prog := {} }
    let goesOn (q : Pack) : Pack := if (left q).mask = 0 then (left q).resume else left q
    let quiet : Prop := p.id.walker = none ∧ p.openOps = 0 ∧ p.cnt = {} ∧ p.fills = [] ∧ p.held = [] ∧
      (∀ l r, ((p.lane l).reg r).due = false) ∧ x.pre = .none ∧ p.sys.asyncerr = 0 ∧ p.sys.cki &&& 3 = 0 ∧
      ∀ e ∈ x.flows, ∀ id ∈ p.launches, id ∉ e.2.pins
    let gone (t : State) : Prop := Table.get? t.packs k = none ∧
      ∀ j, j ≠ k → (Table.get? t.packs j).map (fun q => (q.g, q.pc, q.lanes, q.mask, q.occ, q.stack, q.sys)) =
        (Table.get? s.packs j).map fun q => (q.g, q.pc, q.lanes, q.mask, q.occ, q.stack, q.sys)
    (p.occ &&& ~~~ls ≠ 0 →
      ∃ t q, exec (.endItems o) s = .next t ∧ q = goesOn q ∧ t = { s.after q with ctxs := t.ctxs, launches := t.launches } ∧
        (∀ l, q.lane l = if takes p o l then { p.lane l with item := { (p.lane l).item with done := true } } else p.lane l) ∧
        (x.Apart → Completed s t p (p.partList o))) ∧
    (p.occ &&& ~~~ls = 0 → quiet →
      let ends (t : State) : Prop := exec (.endItems o) s = .next t ∧ gone t ∧ (x.Apart → Completed s t p (p.partList o)) ∧
        (∀ c, t.core c = { s.core c with inv := (t.core c).inv, code := (t.core c).code }) ∧
        t = { s with packs := t.packs, ctxs := t.ctxs, launches := t.launches, cores := t.cores, mem := t.mem, touched := t.touched, cur := none }
      let hash : Word := match p.lag with
        | some l => l.foldl (fun h e => h.rotateLeft 5 ^^^ e.1 ^^^ e.2) p.sys.shash
        | none => p.sys.shash
      let caught : Pack := { p with sys := { p.sys with shash := hash }, lag := p.lag.map fun _ => [] }
      let w : W := startW (s.setCurPack caught) (issuer k p) (.endItems o)
      let entry := x.trlbase + 512 + BitVec.ofNat 64 (8 * p.id.lpid.toNat)
      (s.records p = false → ∃ t, ends t ∧ t.mem = s.mem) ∧
      (s.records p = true → ∀ (virt : Bool) (va key : Nat),
        (x.trail.mode = 1 → Memory.wf s.mem → scalarAccess .wr 0 entry 8 w = .ok (virt, va, key) w → ¬ (virt = true ∧ inSlot0 x va = true) →
          ∃ t, ends t ∧ Stored s t key (leBytes 8 hash.toNat)) ∧
        (x.trail.mode ≠ 1 → scalarAccess .rd 0 entry 8 w = .ok (virt, va, key) w → consumes s key 8 = none →
          let recorded := leNat ((List.range 8).map fun j => Memory.read s.mem (key + j))
          (recorded = hash.toNat → ∃ t, ends t ∧ t.mem = s.mem) ∧
          (recorded ≠ hash.toNat →
            exec (.endItems o) s = perform (.endItems o) (throw (.trap 0x14 (BitVec.ofNat 64 recorded) none none)) (s.setCurPack caught))))) ∧
    (let label (l : Nat) : BitVec 32 := BitVec.ofNat 32 (bValue o 1 (p.lane l))
     let cls : FlowClass := if o.f = 0 then .u else if o.f = 1 then .o else .a
     operandCheck (.frelab o) p = .go → p.dueRegs (p.partList o) = [] → s.bankFull (clusterOf k.1) 1 n (p.partList o).length false = false →
     ls ≠ 0 →
     (∀ l, takes p o l = true → ∃ f, x.flow? (label l) = some f ∧ f.cls = cls ∧ f.pins ≠ [] ∧ f.live + 1024 ≤ 2 ^ 31 - 1 ∧
       s.heldBack n (s.fresh + 1) [label l] = false) →
     let queued (t : State) : Prop := ∀ i l, (p.partList o)[i]? = some l →
       ∃ r, Table.get? t.resumes (s.fresh + i) = some r ∧ r.g = p.g ∧ r.pc = past ∧
         r.lane.v = (p.lane l).v ∧ r.lane.p = (p.lane l).p ∧ r.lane.item.wid = (p.lane l).item.wid ∧
         r.lane.item.label = label l ∧ r.lane.item.cls = cls ∧ r.lane.item.done = false
     (p.occ &&& ~~~ls ≠ 0 →
       ∃ t q, exec (.frelab o) s = .next t ∧ q = goesOn p ∧ Table.get? t.packs k = some q ∧ t.mem = s.mem ∧ queued t) ∧
     (p.occ &&& ~~~ls = 0 → quiet → ∃ t, exec (.frelab o) s = .next t ∧ gone t ∧ t.mem = s.mem ∧ queued t)) ∧
    (p.id.det = true ∨ p.mask = 0 → ∀ q, p.vbr o = some q → exec (.vbrd o) s = .next (s.after q)) ∧
    (p.id.det = false → p.mask ≠ 0 → p.cnt = {} → p.openOps = 0 → p.held = [] → (s.core k.1).repacks = [] →
      exec (.vbrd o) s = .next ((s.setCore k.1 { s.core k.1 with
        repacks := [{ pc := p.pc, first := k.2, members := [(k.2, .vbrd o)] }] }).after
          { p with prog := { p.prog with wait := some { why := .repack, instr := .vbrd o } } }))

/-- R99, R103, R105, R154, R223: HLD.test and HLD.wait on the turn of the lanes' items, by the order of arrival numbers, and on the held stores of
earlier items whose release is due and can be had (LOG 29), HRD's two readings, and YIELD, which issues and waits at the next instruction for the
other packs that were ready. No run of incomplete numbers is empty or longer than LIVE allows. -/
def Obligations.Turns : Prop :=
  ∀ (s : State) (k : Nat × Nat) (p : Pack) (o : Opnd), s.cur = some k → s.curPack? = some p →
    let x := s.ctx p.id.ctx
    let past : Pack := { p with pc := p.pc + BitVec.ofNat 64 o.len, prog := {} }
    let waits (i : Instr) (why : Wait) : Pack := { p with prog := { p.prog with wait := some { why, instr := i } } }
    let prec (a b : Nat) : Bool :=
      let d := (b + (2 ^ 32 - a % 2 ^ 32)) % 2 ^ 32
      decide (1 ≤ d ∧ d < 2 ^ 31)
    let earlierDone (n : Nat) (label : BitVec 32) (arr : Nat) : Bool := match (s.ctx n).flow? label with
      | some f => f.incomplete.all fun e => (List.range e.2).all fun i => !prec (e.1 + i) arr
      | none => true
    let held (c : Nat) (e : HeelEntry) : Prop := ∃ y ∈ s.cores, y.1 = c ∧ e ∈ y.2.heel
    -- a held store of core `c` that cannot be released now, where those that satisfy `S` cannot
    let stays (S : Nat → HeelEntry → Prop) (c : Nat) (e : HeelEntry) : Prop :=
      (s.ctx e.ctx).pre ≠ .none ∨ Table.get? (s.core c).heelStop e.ctx ≠ none ∨ earlierDone e.ctx e.label e.arr = false ∨
        ∃ d f, S d f ∧ e.ctx = f.ctx ∧ ((e.label = f.label ∧ prec f.arr e.arr = true) ∨ (e.item = f.item ∧ f.stamp < e.stamp))
    let come (it : Item) : Bool := it.cls != .o || it.done || earlierDone p.id.ctx it.label it.arr
    let behind (it : Item) : Bool := it.cls == .o && !it.done && s.cores.any fun c => c.2.heel.any fun e =>
      e.ctx == p.id.ctx && e.label == it.label && prec e.arr it.arr && earlierDone p.id.ctx e.label (e.arr + 1) && !s.stuckHeld.contains (c.1, e)
    (∀ n, ∀ f ∈ (s.ctx n).flows, ∀ e ∈ f.2.incomplete, 1 ≤ e.2 ∧ e.2 ≤ 2 ^ 31 - 1) →
    (∀ c e, (c, e) ∈ s.stuckHeld ↔ ∀ S : Nat → HeelEntry → Prop, (∀ d f, held d f → stays S d f → S d f) → S c e) ∧
    let reached := (p.partList o).all fun l => p.ownTurn x l && !behind (p.lane l).item
    let ids := (p.partList o).map fun l => (p.lane l).item.id
    (o.f = 0 → LaneSets s p o (.hld o) fun l => predD o (come (p.lane l).item && !behind (p.lane l).item)) ∧
    (o.f ≠ 0 → reached = true → exec (.hld o) s = .next (s.after past)) ∧
    (o.f ≠ 0 → reached = false → exec (.hld o) s = .next (s.after (waits (.hld o) .turn))) ∧
    (∀ l, come (p.lane l).item = true → p.ownTurn x l = true) ∧
    (operandCheck (.hrd o) p = .go →
      (o.f = 0 → WritesD s p o (.hrd o) (BitVec.ofNat 64 (s.cores.map fun c =>
        (c.2.heel.filter fun e => e.ctx == p.id.ctx && ids.contains e.item).length).sum)) ∧
      (o.f ≠ 0 → LaneWrites s p o (.hrd o) o.vd 1 fun l =>
        let it := (p.lane l).item
        some (match x.flow? it.label with
          | some f => if it.cls = .o ∧ it.done = false then (it.arr + 2 ^ 32 - f.turn % 2 ^ 32) % 2 ^ 32 else 0
          | none => 0))) ∧
    (s.readyOthers k.1 k.2 = [] → exec (.yield o) s = .next (s.after past)) ∧
    (s.readyOthers k.1 k.2 ≠ [] →
      exec (.yield o) s = .next (s.after { past with prog := { wait := some { why := .yielded (s.readyOthers k.1 k.2), instr := .yield o } } }))

/-! ### Lane memory -/

/-- R125, R204, R206, R208-R210: lane loads whose accesses pass their checks read when they issue; each lane's destination registers become
empty with a value due, the values are on their way, and PC advances. VLD reads at the uniform offset plus the lane's place, VLDX at the
lane's own offset, both through the handle; LDS reads the cluster scratchpad, waits for its granules where C asks for it, and empties them
with C = 2, a granule that carries the poison marker aside (R211). That a load reads at issue and that its values come in one delivery is the
model's (LOG 20), and so are the copies that the caches give an .inv load (LOG 2). -/
def Obligations.LaneLoads : Prop :=
  ∀ (s : State) (k : Nat × Nat) (p : Pack) (o : Opnd), s.cur = some k → s.curPack? = some p →
    let c := dCount o.f o
    let n := 4 * c
    let disp := o.x.imm16.signExtend 64 * BitVec.ofNat 64 (typeBytes o.f)
    let own (l : Nat) : Word := vectorOffset o (p.lane l) + disp
    let loaded (inv : Bool) (accs : List LaneAcc) (q : Pack) : Prop :=
      Loads s p q o c (fun a j => if inv then invByte (s.core k.1) p.id.launch a j (Memory.read s.mem (a + j)) else Memory.read s.mem (a + j)) accs
    let through (i : Instr) (off : Nat → Word) : Prop :=
      operandCheck i p = .go → ∀ (ts : LaneSet) (rec_ : Nat),
        laneAccess .rd true o.a.toNat n (p.part o) ((p.partList o).map fun l => (l, (off l).toNat)) (startW s (issuer k p) i) =
          .ok ts (startW s (issuer k p) i) → ts.unfinished = [] →
        readRecord o.a.toNat (some (p.part o)) (startW s (issuer k p) i) = .ok rec_ (startW s (issuer k p) i) →
        (∃ q, exec i s = .next ((s.numbered ts.accs).after q) ∧ loaded o.x.inv ts.accs q) ∧
        ts.accs.map (fun a => (a.lane, a.va)) = (p.partList o).map fun l => (l, (parseHnd rec_).addr (off l).toNat)
    through (.vld o) (fun l => p.opB o + disp + BitVec.ofNat 64 (l * n)) ∧
    through (.vldx o) own ∧
    (operandCheck (.lds o) p = .go → ∀ accs : List LaneAcc,
      scratchAccess n ((p.partList o).map fun l => (l, (p.readG o.a.toNat + own l).toNat)) (startW s (issuer k p) (.lds o)) =
        .ok accs (startW s (issuer k p) (.lds o)) →
      let touched (g : Nat) : Prop := ∃ a ∈ accs, g ∈ granulesOf a.key n
      (o.rc = 0 ∨ (∀ g, touched g → g ∉ s.granEmpty ∨ g ∈ s.granPoison) →
        ∃ t q, exec (.lds o) s = .next t ∧ loaded false accs q ∧ t = { (s.numbered accs).after q with granEmpty := t.granEmpty, touched := t.touched } ∧
          ∀ g, g ∈ t.granEmpty ↔ g ∈ s.granEmpty ∨ (o.rc = 2 ∧ touched g ∧ g ∉ s.granPoison)) ∧
      (o.rc ≠ 0 → (∃ g, touched g ∧ g ∈ s.granEmpty ∧ g ∉ s.granPoison) →
        ∃ gs, exec (.lds o) s = .next (s.after { p with prog := { p.prog with wait := some { why := .granules gs, instr := .lds o } } })))

/-- R104, R204, R206, R208-R210, R299: lane stores whose accesses pass their checks. Without .hld each lane's bytes stand at its address,
a higher lane's over a lower one's, a store into slot 0 of the handle table is discarded, and no other byte changes; a recorded launch
steps the store hash lane by lane, or keeps the steps while the hash lags (LOG 2); STS with C = 1 makes its granules full. With .hld the stores
of ordered items whose turn has not come stand in the core's Heel and no byte changes. That the stored bytes clear the poison of a word of HBM
only where they cover it whole, and that of a granule only where they make it full, is the model's reading of R319 (LOG 27). -/
def Obligations.LaneStores : Prop :=
  ∀ (s : State) (k : Nat × Nat) (p : Pack) (o : Opnd), s.cur = some k → s.curPack? = some p → s.Calm →
    let c := dCount o.f o
    let n := 4 * c
    let x := s.ctx p.id.ctx
    let disp := o.x.imm16.signExtend 64 * BitVec.ofNat 64 (typeBytes o.f)
    let own (l : Nat) : Word := vectorOffset o (p.lane l) + disp
    let data (l : Nat) : List Byte := leBytes n ((p.lane l).readV o.vd c)
    let past (accs : List LaneAcc) : Pack :=
      ({ p with pc := p.pc + BitVec.ofNat 64 o.len, prog := {} } : Pack).retires (s.records p)
        (accs.flatMap fun a => storeParts a.va (data a.lane))
    let slot0 (virt : Bool) (a : LaneAcc) : Bool := virt && decide (x.htab.toNat ≤ a.va ∧ a.va < x.htab.toNat + 64)
    let stores (i : Instr) (virt full : Bool) (accs : List LaneAcc) : Prop :=
      let parts := (accs.filter fun a => !slot0 virt a).map fun a => (a.key, data a.lane)
      let touched (g : Nat) : Prop := full = true ∧ ∃ a ∈ accs, g ∈ granulesOf a.key n
      o.x.hld = false → Memory.wf s.mem →
      ∃ t, exec i s = .next t ∧ StoredAll s t parts ∧
        t = { s.after (past accs) with mem := t.mem, touched := t.touched, hbmPoison := t.hbmPoison, hbmUe := t.hbmUe, granEmpty := t.granEmpty
                                       granPoison := t.granPoison, granUe := t.granUe } ∧
        (∀ u, u ∈ t.hbmPoison ↔ u ∈ s.hbmPoison ∧ ∃ j, j < 32 ∧ ∀ e ∈ parts, ¬ (e.1 ≤ 32 * u + j ∧ 32 * u + j < e.1 + n)) ∧
        (∀ g, (g ∈ t.granEmpty ↔ g ∈ s.granEmpty ∧ ¬ touched g) ∧ (g ∈ t.granPoison ↔ g ∈ s.granPoison ∧ ¬ touched g))
    let holds (i : Instr) (scratch full : Bool) (accs : List LaneAcc) : Prop :=
      let c0 := s.core k.1
      o.x.hld = true →
      (∀ l, takes p o l = true → (p.lane l).item.cls = .o ∧ (p.lane l).item.done = false ∧ turnCome x (p.lane l).item = false) →
      (c0.heel.filter fun e => !e.spilled).length + accs.length * ((n + 15) / 16) ≤ Config.heelEntries →
      ∃ t, exec i s = .next t ∧ t = { s.after (past accs) with fresh := t.fresh, cores := t.cores } ∧
        (∀ d, d ≠ k.1 → t.core d = s.core d) ∧ t.core k.1 = { c0 with heel := (t.core k.1).heel } ∧
        (t.core k.1).heel.map (fun e => { e with stamp := 0 }) = c0.heel.map (fun e => { e with stamp := 0 }) ++
          accs.flatMap fun a => (heelParts (BitVec.ofNat 64 a.va) (data a.lane)).map fun e =>
            let it := (p.lane a.lane).item
            { ctx := p.id.ctx, uid := p.id.uid, item := it.id, stamp := 0, label := it.label, arr := it.arr, launch := it.launch
              scratch, addr := e.1, bytes := e.2, full, spilled := false, region := p.sys.rgnpc }
    let through (i : Instr) (off : Nat → Word) : Prop :=
      operandCheck i p = .go → ∀ ts : LaneSet,
        laneAccess .wr true o.a.toNat n (p.part o) ((p.partList o).map fun l => (l, (off l).toNat)) (startW s (issuer k p) i) =
          .ok ts (startW s (issuer k p) i) → ts.unfinished = [] →
        stores i ts.virtual false ts.accs ∧ holds i (!ts.virtual) false ts.accs
    through (.vst o) (fun l => p.opB o + disp + BitVec.ofNat 64 (l * n)) ∧
    through (.vstx o) own ∧
    (operandCheck (.sts o) p = .go → ∀ accs : List LaneAcc,
      scratchAccess n ((p.partList o).map fun l => (l, (p.readG o.a.toNat + own l).toNat)) (startW s (issuer k p) (.sts o)) =
        .ok accs (startW s (issuer k p) (.sts o)) →
      stores (.sts o) false (o.rc == 1) accs ∧ holds (.sts o) true (o.rc == 1) accs)

/-- R89, R212, R213, R298, R299: VATOM and XCHL perform their lanes' atomics one after another in ascending lane order; each lane's old value
is on its way to D, and memory holds what the operations leave; in a recorded launch each write steps the store hash. Where the lanes address
sites of the Trail and the Leash holds the first one, the pack waits; the atomic of a single lane on a site is logged, or advances the replay,
and TRLPOS counts it. No region is open, and no turn has bounded how many lanes are performed before other parties (LOG 2). On a page that is
none of AtomicOps, the first operation at a byte reads what stood there before a host processor's write that falls between its read and its
write (R177). -/
def Obligations.LaneAtomics : Prop :=
  ∀ (s : State) (k : Nat × Nat) (p : Pack) (o : Opnd), s.cur = some k → s.curPack? = some p → s.Calm → p.sys.rgnpc = 0 →
    let x := s.ctx p.id.ctx
    let atomics (i : Instr) (op : Nat) (t : BitVec 4) (operand : Nat → Nat) : Prop :=
      let c := (vOne t).count o.x.wd
      let n := 4 * c
      let discard (virt : Bool) (a : LaneAcc) : Bool := virt && decide (x.htab.toNat ≤ a.va ∧ a.va < x.htab.toNat + 64)
      let new (a : LaneAcc) (old : Nat) : Option Nat := atomicOp op t old (operand a.lane) ((p.lane a.lane).readV o.vd c)
      let read (m : Nat → Byte) (key : Nat) : Nat := leNat ((List.range n).map fun j => m (key + j))
      let plain (a : LaneAcc) : Bool := ((entryOf (startW s (issuer k p) i) a.va).map (·.ha)).getD false
      let raced (b : Nat) : Byte := rmwByte s b (Memory.read s.mem b)
      let one (virt : Bool) (m : (Nat → Byte) × (Nat → Byte) × List (LaneAcc × Nat)) (a : LaneAcc) :
          (Nat → Byte) × (Nat → Byte) × List (LaneAcc × Nat) :=
        let old := read (if plain a then m.1 else m.2.1) a.key
        let put (f : Nat → Byte) : Nat → Byte := match new a old with
          | some v => fun b => if a.key ≤ b ∧ b < a.key + n ∧ discard virt a = false then (leBytes n v).getD (b - a.key) 0 else f b
          | none => f
        (put m.1, put m.2.1, m.2.2 ++ [(a, old)])
      let parts (a : LaneAcc) (old : Nat) : List (Word × Word) := match new a old with
        | some v => storeParts a.va (leBytes n v)
        | none => []
      let after (q : Pack) (done : List (LaneAcc × Nat)) : Prop :=
        q = { ({ p with
          lanes := q.lanes, pc := p.pc + BitVec.ofNat 64 o.len, prog := {}
          fills := p.fills ++ done.map fun e => { op := s.fresh, lane := e.1.lane, reg := o.vd, vals := valuesOf c e.2
                                                  bad := (consumes s e.1.key n).map fun ue => { ue, addr := BitVec.ofNat 64 e.1.va }
                                                  region := false } } : Pack).retires (s.records p) (done.flatMap fun e => parts e.1 e.2) with
          sys := q.sys } ∧
        (∀ l, (q.lane l).p = (p.lane l).p ∧ (q.lane l).item = (p.lane l).item) ∧
        ∀ l r, (q.lane l).reg r = if takes p o l ∧ o.vd ≤ r ∧ r < o.vd + c then
          { (p.lane l).reg r with full := false, due := true, sc := false, bad := none } else (p.lane l).reg r
      let hashed (done : List (LaneAcc × Nat)) : PackSys := (p.retires (s.records p) (done.flatMap fun e => parts e.1 e.2)).sys
      operandCheck i p = .go → ∀ ts : LaneSet,
        laneAccess .rmw (isAtomicOp op t) o.a.toNat n (p.part o)
          ((p.partList o).map fun l => (l, (vectorOffset o (p.lane l) + o.x.imm16.signExtend 64 * BitVec.ofNat 64 (typeBytes t)).toNat))
          (startW s (issuer k p) i) = .ok ts (startW s (issuer k p) i) → ts.unfinished = [] → Memory.wf s.mem →
        (∀ f, p.prog.first = some f → ts.accs.length ≤ max f 1) →
        let site (a : LaneAcc) : Option Nat := if ts.virtual ∧ s.records p then siteOf x.trail a.va n else none
        ((∀ a ∈ ts.accs, site a = none) →
          let all := ts.accs.foldl (one ts.virtual) (Memory.read s.mem, raced, [])
          ∃ u q, exec i s = .next u ∧ (∀ a, Memory.read u.mem a = all.1 a) ∧
            (let s1 : State := { s with fresh := s.fresh + if ts.accs = [] then 0 else 1 }
             u = { s1.after q with mem := u.mem, touched := u.touched, hbmPoison := u.hbmPoison, hbmUe := u.hbmUe }) ∧
            after q all.2.2 ∧ q.sys = hashed all.2.2) ∧
        (∀ (a : LaneAcc) (r : List LaneAcc) (j : Nat) (tk : Nat → Nat), ts.accs = a :: r → site a = some j →
          TrailMapped s k.1 p.id.ctx j tk a.key n →
          let word (b : Nat) : Nat := leNat ((List.range 4).map fun i => Memory.read s.mem (tk b + i))
          (x.leashed p.id.lpid.toNat j word → (∀ b ∈ r, site b ≠ none) →
            exec i s = .next (s.after { p with prog := { p.prog with wait := some { why := .leash j, instr := i } } })) ∧
          (¬ x.leashed p.id.lpid.toNat j word → r = [] → x.trail.mode = 1 ∨ x.trail.mode = 2 →
            let old := read (if plain a then Memory.read s.mem else raced) a.key
            let logged := x.siteLogged p.id.lpid.toNat j word
            let s1 := match logged.2 with
              | some y => s.setCtx p.id.ctx y
              | none => s
            let own : List (Nat × List Byte) := if discard ts.virtual a then [] else match new a old with
              | some v => [(a.key, leBytes n v)]
              | none => []
            ∃ u q, exec i s = .next u ∧ u = { s1.after q with mem := u.mem, touched := u.touched, fresh := s.fresh + 1 } ∧
              StoredAll s u (own ++ logged.1.map fun e => (tk e.1, leBytes 4 e.2)) ∧
              after q [(a, old)] ∧ q.sys = { hashed [(a, old)] with trlpos := p.sys.trlpos + 1 }))
    atomics (.vatom o) o.f.toNat o.x.ty2 (fun l => (p.lane l).readV o.vc ((vOne o.x.ty2).count o.x.wc)) ∧
    atomics (.xchl o) 0 o.f (fun l => (p.lane l).readV o.vd ((vOne o.f).count o.x.wd))

/-! ### Barriers and guards -/

/-- R118-R121, R153: BARI, BARA, BARW and BART on an object where they may reach it, no region being open; without a participating lane
each only advances PC. A path that another left at a BARW runs when this one must wait; of two at which the pack is blocked the one whose phase has
come first, which an act leaves noted as far as the order is known (LOG 2); the exchange is no issue (R120). No trigger is latching (R338). -/
def Obligations.Barriers : Prop :=
  ∀ (s : State) (k : Nat × Nat) (p : Pack) (o : Opnd), s.cur = some k → s.curPack? = some p → p.sys.rgnpc = 0 → s.dev.triggers = [] →
    Memory.wf s.mem →
    let past : Pack := { p with pc := p.pc + BitVec.ofNat 64 o.len, prog := {} }
    let waits (i : Instr) (why : Wait) : Pack := { p with prog := { p.prog with wait := some { why, instr := i } } }
    let at_ := p.readG o.a.toNat + o.x.imm16.signExtend 64 * 16
    let obj (t : State) (key : Nat) : BarObj := parseBar (leNat ((List.range 16).map fun j => Memory.read t.mem (key + j)))
    let n := (p.opB o).toNat % 2 ^ 32
    let parity := (p.readG o.b.toNat).getLsbD 0
    let changes (t : State) (q : Pack) (key : Nat) (b : BarObj) : Prop :=
      t = { s.after q with mem := t.mem, touched := t.touched } ∧ obj t key = b ∧
        ∀ a, a < key ∨ key + 16 ≤ a → Memory.read t.mem a = Memory.read s.mem a
    (p.part o = 0 → ∀ i, i = .bari o ∨ i = .bara o ∨ i = .barw o ∨ i = .bart o → exec i s = .next (s.after past)) ∧
    (p.part o ≠ 0 → ∀ key, barKey s (issuer k p) at_.toNat = some key →
      let b := obj s key
      b.reserved = false →
      (n ≠ 0 → ∃ t, exec (.bari o) s = .next t ∧
        changes t past key { expect := n, arrived := 0, phase := false, ovr := false, reserved := false }) ∧
      (b.expect ≠ 0 →
        (n = 0 → exec (.bara o) s = .next (s.after past)) ∧
        (n ≠ 0 → b.arrived + n = b.expect → ∃ t, exec (.bara o) s = .next t ∧ changes t past key { b with arrived := 0, phase := !b.phase }) ∧
        (n ≠ 0 → b.arrived + n < b.expect → ∃ t, exec (.bara o) s = .next t ∧ changes t past key { b with arrived := b.arrived + n }) ∧
        (let tvec := (s.ctx p.id.ctx).tvec &&& 0xFFFFFFFFFFFFFFFC
         n ≠ 0 → b.expect < b.arrived + n → p.priv = 0 → tvec ≠ 0 →
         ∃ t, exec (.bara o) s = .next t ∧ changes t
           { p with sys := { p.sys with tpc := p.pc, tcause := 0x0A, tval := at_, tstat := o.l.setWidth 64 <<< 2 }
                    priv := 1, pc := tvec, prog := {} } key { b with ovr := true }) ∧
        ((∀ e, p.stack.head? = some e → e.kind ≠ .pending) →
          (b.phase = parity → exec (.barw o) s = .next (s.after past)) ∧
          (b.phase ≠ parity → exec (.barw o) s = .next (s.after (waits (.barw o) (.barrier key parity))))) ∧
        (∀ e r, p.stack = e :: r → e.kind = .pending →
          let come : Prop := ∃ k' q', e.bar = some (k', q') ∧ (obj s k').phase = q'
          let exchanged : Pack := { p with stack := { kind := .pending, pc := p.pc, mask := p.mask, ra := e.ra, bar := some (key, parity) } :: r
                                           mask := e.mask &&& p.occ, pc := e.pc, prog := { exchanged := true } }
          (b.phase = parity → p.prog.wait = none ∨ ¬ come ∨ p.prog.ownFirst = true → exec (.barw o) s = .next (s.after past)) ∧
          (b.phase ≠ parity ∧ e.bar = none ∨ come ∧ (b.phase ≠ parity ∨ p.atBarrier = true ∧ p.prog.ownFirst = false) →
            exec (.barw o) s = .next (s.after (if exchanged.mask = 0 then exchanged.resume else exchanged))) ∧
          (b.phase ≠ parity → e.bar ≠ none → ¬ come →
            exec (.barw o) s = .next (s.after (waits (.barw o) (.barrier key parity))))) ∧
        LaneSets s p o (.bart o) fun _ => predD o (b.phase == parity))) ∧
    (∀ (core slot : Nat) (q : Pack) (i : Instr) (a : Nat) (own : Bool), s.pack? core slot = some q →
      q.prog.wait = some { why := .barrier a own, instr := i } → ∀ e r a' other, q.stack = e :: r → e.kind = .pending → e.bar = some (a', other) →
      (s.noticed.pack? core slot).map (·.prog.ownFirst) =
        some (decide ((obj s a).phase = own ∧ (q.prog.ownFirst = true ∨ (obj s a').phase ≠ other))))

/-- R199, R201, R215, R177, R333: ACQ queues its request at the guard's home and waits for its grant, which completes it; REL gives a held
guard back with its epoch one higher; a ninth guard, a second hold and a release of what is not held take cause 0x0A. GUARD_GRANT grants,
where the object is free for them, the oldest request if it is exclusive, or the run of shared requests at the head of the queue together; a
peer's request too; one whose pack waits no longer is dropped. Each reads the object as it stood before a host processor's write that falls
between its read and its write (R177). That a pack holds a guard by the virtual address and the queue goes by the
location is the model's reading (LOG 33). No region is open. -/
def Obligations.Guards : Prop :=
  let obj (t : State) (key : Nat) : GuardObj := parseGuard (leNat ((List.range 16).map fun j => Memory.read t.mem (key + j)))
  let seen (s : State) (key : Nat) : GuardObj :=
    parseGuard (leNat ((List.range 16).map fun j => rmwByte s (key + j) (Memory.read s.mem (key + j))))
  let elsewhere (s t : State) (key : Nat) : Prop := ∀ a, a < key ∨ key + 16 ≤ a → Memory.read t.mem a = Memory.read s.mem a
  let slot0 (x : Ctx) (va key : Nat) : Prop := key < 2 ^ 52 ∧ x.htab.toNat ≤ va ∧ va < x.htab.toNat + 64
  (∀ (s : State) (k : Nat × Nat) (p : Pack) (o : Opnd) (virt : Bool) (va key : Nat), s.cur = some k → s.curPack? = some p → s.Calm →
    p.sys.rgnpc = 0 →
    let x := s.ctx p.id.ctx
    let past : Pack := { p with pc := p.pc + BitVec.ofNat 64 o.len, prog := {} }
    let off := p.readG o.b.toNat + o.x.imm16.signExtend 64 * 16
    let w (i : Instr) : W := startW s (issuer k p) i
    let plain (i : Instr) : Prop := virt = true → ∀ e, entryOf (w i) va = some e → e.ha = false
    let traps (i : Instr) : Prop := p.priv = 0 → x.tvec &&& 0xFFFFFFFFFFFFFFFC ≠ 0 →
      exec i s = .next (s.after { p with
        sys := { p.sys with tpc := p.pc, tcause := 0x0A, tval := BitVec.ofNat 64 va, tstat := o.l.setWidth 64 <<< 2 }
        priv := 1, pc := x.tvec &&& 0xFFFFFFFFFFFFFFFC, prog := {} })
    (scalarAccess .rmw o.a.toNat off 16 (w (.acq o)) = .ok (virt, va, key) (w (.acq o)) → plain (.acq o) →
      let q := Table.getD s.guardQ key []
      let waits : Pack := { p with prog := { p.prog with wait := some { why := .guard key, instr := .acq o } } }
      ((p.holds va).isSome ∨ 8 ≤ p.held.length → traps (.acq o)) ∧
      (p.holds va = none → p.held.length < 8 →
        ((∀ r ∈ q, r.uid ≠ p.id.uid) → exec (.acq o) s = .next (({ s with guardQ := Table.set s.guardQ key (q ++
          [{ core := k.1, slot := k.2, uid := p.id.uid, excl := o.f == 0, addr := BitVec.ofNat 64 va }]) } : State).after waits)) ∧
        ((∃ r ∈ q, r.uid = p.id.uid) → exec (.acq o) s = .next (s.after waits)))) ∧
    (scalarAccess .rmw o.a.toNat off 16 (w (.rel o)) = .ok (virt, va, key) (w (.rel o)) → plain (.rel o) → Memory.wf s.mem →
      (p.holds va = none → traps (.rel o)) ∧
      ∀ h, p.holds va = some h →
        ∃ t, exec (.rel o) s = .next t ∧ t = { s.after { past with held := p.held.filter fun e => e.addr.toNat != va } with mem := t.mem, touched := t.touched } ∧
          elsewhere s t key ∧
          let g := seen s key
          obj t key = if slot0 x va key then obj s key
            else if h.excl then { g with excl := false, owner := 0, epoch := (g.epoch + 1) % 2 ^ 32 }
            else { g with shared := (g.shared + 2 ^ 32 - 1) % 2 ^ 32, epoch := (g.epoch + 1) % 2 ^ 32 })) ∧
  (∀ (s : State) (key : Nat), s.dev.tripped = false → s.Calm → Memory.wf s.mem →
    let g := seen s key
    let left (l : List GuardReq) : Table Nat (List GuardReq) := if l = [] then Table.del s.guardQ key else Table.set s.guardQ key l
    (∀ (run rest : List GuardReq) (who : GuardReq → Pack) (at_ : GuardReq → Opnd), Table.getD s.guardQ key [] = run ++ rest → run ≠ [] →
      (run.map fun r => (r.core, r.slot)).Nodup →
      (∀ r ∈ run, r.core < Config.numCores ∧ s.pack? r.core r.slot = some (who r) ∧ (who r).id.uid = r.uid ∧
        (who r).prog.wait = some { why := .guard key, instr := .acq (at_ r) } ∧ ¬ slot0 (s.ctx (who r).id.ctx) r.addr.toNat key) →
      g.excl = false → g.shared + run.length < 2 ^ 32 →
      (g.shared = 0 ∧ (∃ r, run = [r] ∧ r.excl = true)) ∨
        ((∀ r ∈ run, r.excl = false) ∧ ∀ r, rest.head? = some r → r.excl = true) →
      ∃ t, exec (.guardGrant key) s = .next t ∧ elsewhere s t key ∧
        t = { s with mem := t.mem, touched := t.touched, packs := t.packs, guardQ := left rest, cur := none } ∧
        obj t key = (match run with
          | [r] => if r.excl then { g with excl := true, owner := (who r).id.lpid.toNat } else { g with shared := g.shared + 1 }
          | _ => { g with shared := g.shared + run.length }) ∧
        (∀ r ∈ run, t.pack? r.core r.slot = some { who r with
          held := (who r).held ++ [{ addr := r.addr, loc := key, excl := r.excl }]
          pc := (who r).pc + BitVec.ofNat 64 (at_ r).len, prog := {} }) ∧
        ∀ c l, (c, l) ∉ run.map (fun r => (r.core, r.slot)) → t.pack? c l = s.pack? c l) ∧
    (∀ (r : GuardReq) (rest : List GuardReq), Table.getD s.guardQ key [] = r :: rest →
      (g.excl = true ∨ (r.excl = true ∧ g.shared ≠ 0) → exec (.guardGrant key) s = .next { s with cur := none }) ∧
      (g.excl = false → g.shared = 0 → rest = [] → r.core < Config.numCores →
        (∀ q, s.pack? r.core r.slot = some q → q.id.uid ≠ r.uid ∨ q.prog.wait = none) →
        exec (.guardGrant key) s = .next { s with guardQ := left [], cur := none }) ∧
      (g.excl = false → g.shared = 0 → Config.numCores ≤ r.core → r.excl = true → r.slot < 2 ^ 16 →
        ∃ t, exec (.guardGrant key) s = .next t ∧ elsewhere s t key ∧ t = { s with mem := t.mem, touched := t.touched, guardQ := left rest, cur := none } ∧
          obj t key = { g with excl := true, owner := r.slot })))

/-! ### Bindings, the allotment, regions and translations -/

/-- R198, R216, R218, R219, R324: BIND adds and UNBIND removes a binding of a range of a handle to a guard, one that joins the same addresses
to the same guard counting as the same; GROW asks for registers and waits, or takes cause 0x0D where no core could give them; GROW_GRANT
hands them to the oldest request that fits, full and zero, and completes its GROW; SHRINK gives registers back, keeps those below its count,
and takes the vector destinations of Scent operations with those it gives up. No region is open. -/
def Obligations.BindingsAndRegisters : Prop :=
  (∀ (s : State) (k : Nat × Nat) (p : Pack) (o : Opnd), s.cur = some k → s.curPack? = some p → p.sys.rgnpc = 0 →
    let past : Pack := { p with pc := p.pc + BitVec.ofNat 64 o.len, prog := {} }
    let n := p.id.ctx
    let x := s.ctx n
    let named (i : Instr) (all : Bool) (y : Binding) : Prop :=
      ∃ rec_ virt guard key, readRecord o.a.toNat none (startW s (issuer k p) i) = .ok rec_ (startW s (issuer k p) i) ∧
        scalarAccess .rmw 0 (p.readG o.d.toNat) 16 (startW s (issuer k p) i) = .ok (virt, guard, key) (startW s (issuer k p) i) ∧
        let h := parseHnd rec_
        let b := (p.opB o).toNat
        let start := if all then 0 else b % 2 ^ 32 * 128
        let len := if all then h.extent else b / 2 ^ 32 * 128
        len ≠ 0 ∧ start + len ≤ h.extent ∧
        y = { base := if h.swb = 0 then (h.base + start) % 2 ^ 57 else h.base, start := if h.swb = 0 then 0 else start, len
              swb := h.swb, swl := h.swl, sws := h.sws, space := h.space, guard := BitVec.ofNat 64 guard }
    let asked (shrink : Bool) : Int :=
      let b := p.opB o
      let y : Word := if o.f = 0 then b else if shrink then BitVec.ofNat 64 p.allot - b else BitVec.ofNat 64 p.allot + b
      (y.toInt + 7) / 8 * 8
    let traps (i : Instr) (cause : Nat) (val : Word) : Prop := p.priv = 0 → x.tvec &&& 0xFFFFFFFFFFFFFFFC ≠ 0 →
      exec i s = .next (s.after { p with
        sys := { p.sys with tpc := p.pc, tcause := BitVec.ofNat 64 cause, tval := val, tstat := o.l.setWidth 64 <<< 2 }
        priv := 1, pc := x.tvec &&& 0xFFFFFFFFFFFFFFFC, prog := {} })
    (∀ y, named (.bind o) (o.f == 1) y →
      ((∃ z ∈ x.bindings, y.same z) → exec (.bind o) s = .next (s.after past)) ∧
      ((∀ z ∈ x.bindings, y.same z = false) →
        (x.bindings.length < 256 → exec (.bind o) s = .next ((s.setCtx n { x with bindings := x.bindings ++ [y] }).after past)) ∧
        (256 ≤ x.bindings.length → traps (.bind o) 0x0A y.guard))) ∧
    (∀ y, named (.unbind o) false y →
      exec (.unbind o) s = .next ((s.setCtx n { x with bindings := x.bindings.filter fun z => !y.same z }).after past)) ∧
    (let c := asked false
     let waits : Pack := { p with prog := { p.prog with wait := some { why := .grow c.toNat, instr := .grow o } } }
     (c ≤ p.allot → exec (.grow o) s = .next (s.after past)) ∧
     ((p.allot : Int) < c → 256 < c ∨ (s.capacity k.1 n : Int) < (p.width : Int) * c → traps (.grow o) 0x0D (BitVec.ofInt 64 c)) ∧
     ((p.allot : Int) < c → c ≤ 256 → (p.width : Int) * c ≤ s.capacity k.1 n →
       exec (.grow o) s = .next ((if ∃ e ∈ (s.core k.1).growing, e.1 = k.2 then s
         else s.setCore k.1 { s.core k.1 with growing := (s.core k.1).growing ++ [(k.2, c.toNat)] }).after waits))) ∧
    (let c := asked true
     let m := if c < 8 then 8 else c.toNat
     (p.allot ≤ m → exec (.shrink o) s = .next (s.after past)) ∧
     (m < p.allot → ∃ t q, exec (.shrink o) s = .next t ∧ t = { s.after q with dies := t.dies } ∧
       (∀ d, t.die d = { s.die d with scq := (s.die d).scq.map fun e =>
         if e.head.uid = p.id.uid ∧ m ≤ e.vd then { e with dead := true } else e }) ∧
       q = { past with allot := m, lanes := q.lanes, fills := q.fills } ∧
       ∀ l, (q.lane l).p = (p.lane l).p ∧ (q.lane l).item = (p.lane l).item ∧
         ∀ r, (q.lane l).reg r = if r < m then (p.lane l).reg r else {}))) ∧
  (∀ (y z : Binding) (a : Nat), y.same z = true → z.base < 2 ^ 57 → z.swb = 0 ∨ z.swl + z.swb ≤ z.sws → a < 2 ^ 57 →
    let covers (b : Binding) : Prop := ∃ i, b.start ≤ i ∧ i < b.start + b.len ∧
      a = (b.base + (if b.swb = 0 then i else i ^^^ (i / 2 ^ b.sws % 2 ^ b.swb * 2 ^ b.swl))) % 2 ^ 57
    y.guard = z.guard ∧ y.space = z.space ∧ y.len = z.len ∧ (covers y → covers z)) ∧
  (∀ (s : State) (core slot m : Nat) (q : Pack), s.dev.tripped = false → s.pack? core slot = some q →
    let c := s.core core
    c.growing.find? (fun e => e.1 == slot) = some (slot, m) →
    (∀ e ∈ c.growing, ∀ r, s.pack? core e.1 = some r → q.id.age ≤ r.id.age) →
    ∀ (o : Opnd) (n : Nat), q.prog.wait = some { why := .grow n, instr := .grow o } →
    s.usedRegs core + q.width * (m - q.allot) ≤ s.capacity core q.id.ctx →
    ∃ r, exec (.growGrant core slot) s = .next { (s.setCore core { c with growing := c.growing.filter fun e => e.1 != slot }).setPack core slot r with
        cur := none } ∧
      r = { q with allot := m, lanes := r.lanes, pc := q.pc + BitVec.ofNat 64 o.len, prog := {} } ∧
      ∀ l, (r.lane l).p = (q.lane l).p ∧ (r.lane l).item = (q.lane l).item ∧
        ∀ n, (r.lane l).reg n = if n < q.allot then (q.lane l).reg n else {})

/-- R191, R221, R222, R322, R323: REGION opens a region at the next instruction and seals the held stores of an earlier one; CHKERR waits
for every value that is due, closes the region and reads CKI; PREF is a hint that may bring a translation into the core's TLB, where a full
TLB loses its oldest entry (the model's choice, LOG 7); FEMK makes the granules of a range full or empty and clears their poison; that it
clears what an uncorrectable error left there too is the model's reading (LOG 27). -/
def Obligations.RegionsAndHints : Prop :=
  ∀ (s : State) (k : Nat × Nat) (p : Pack) (o : Opnd), s.cur = some k → s.curPack? = some p →
    let past : Pack := { p with pc := p.pc + BitVec.ofNat 64 o.len, prog := {} }
    let sealed (t : State) : Prop :=
      ∀ c, t.core c = { s.core c with heel := (s.core c).heel.map fun e => if e.uid = p.id.uid then { e with region := 0 } else e }
    (∃ t, exec (.region o) s = .next t ∧ sealed t ∧
      t = { s.after { past with sys := { p.sys with rgnpc := p.pc + 4, rgnretry := 0 }, rgnMask := p.mask, rgnDepth := p.stack.length } with
        cores := t.cores }) ∧
    (p.anyDue = true → exec (.chkerr o) s = .next (s.after
      { p with prog := { p.prog with wait := some { why := .producers, instr := .chkerr o } } })) ∧
    (p.anyDue = false → ∃ t q, exec (.chkerr o) s = .next t ∧ WritesG p q o.d.toNat p.sys.cki ∧
      q = { past with g := q.g, sys := { p.sys with rgnpc := 0 } } ∧ t = { s.after q with cores := t.cores } ∧
      (p.sys.rgnpc = 0 → t.cores = s.cores) ∧ (p.sys.rgnpc ≠ 0 → sealed t)) ∧
    (o.f ≠ 1 → exec (.pref o) s = .next (s.after past)) ∧
    (o.f = 1 → ∀ e, prefEntry o (startW s (issuer k p) (.pref o)) = .ok e (startW s (issuer k p) (.pref o)) →
      exec (.pref o) s = .next ((match e with
        | some e => s.setCore k.1 { s.core k.1 with tlb := tlbInsert 128 (s.core k.1).tlb e }
        | none => s).after past)) ∧
    (let start := p.readG o.a.toNat + o.x.imm16.signExtend 64 * 16
     let n := (p.opB o).toNat
     (n = 0 → exec (.femk o) s = .next (s.after past)) ∧
     (∀ key, n ≠ 0 → scratchAt s (issuer k p) start.toNat n = some key → start.toNat % 16 = 0 → n % 16 = 0 →
       ∃ t, exec (.femk o) s = .next t ∧
         t = { s.after past with granEmpty := t.granEmpty, granPoison := t.granPoison, granUe := t.granUe, touched := t.touched } ∧
         ∀ g, let named := g ∈ granulesOf key n
           (g ∈ t.granEmpty ↔ if o.f = 1 then g ∈ s.granEmpty ∧ ¬ named else g ∈ s.granEmpty ∨ named) ∧
           (g ∈ t.granPoison ↔ g ∈ s.granPoison ∧ ¬ named) ∧ (g ∈ t.granUe ↔ g ∈ s.granUe ∧ ¬ named)))

/-- R185-R190, R307, R308: at handler level TLBW installs the translation of a leaf in the core's TLB, the cluster's, or both, where a full
TLB loses its oldest entry (the model's choice, LOG 7); a malformed one takes cause 0x08; where C names a waiting pack of the context, its
access retranslates. TLBINV, once the pack's held stores have been performed, and the pager through PAGER_INVALIDATION, leave no covered
entry of the context in any TLB and every other one; packs of the context look covered pages up afresh, and so any page that was found missing,
and no pack changes otherwise. -/
def Obligations.Translations : Prop :=
  let gone (s t : State) (ctx : Nat) (page : Option Nat) : Prop :=
    let covered (e : TlbEntry) : Prop := e.ctx = ctx ∧ ∀ a, page = some a → e.page ≤ a ∧ a < e.page + e.size
    (∀ c, t.core c = { s.core c with tlb := (t.core c).tlb } ∧ ∀ e, e ∈ (t.core c).tlb ↔ e ∈ (s.core c).tlb ∧ ¬ covered e) ∧
    (∀ c, t.cluster c = { s.cluster c with tlb := (t.cluster c).tlb, memo := (t.cluster c).memo } ∧
      (∀ e, e ∈ (t.cluster c).tlb ↔ e ∈ (s.cluster c).tlb ∧ ¬ covered e) ∧
      ∀ m, m ∈ (t.cluster c).memo ↔ m ∈ (s.cluster c).memo ∧
        ∀ w ∈ (s.cluster c).walks ++ (s.cluster c).queued, w.batch = m.1 → w.ctx ≠ ctx)
  let forgets (q r : Pack) (ctx : Nat) (page : Option Nat) : Prop :=
    r = { q with prog := { q.prog with walked := r.prog.walked, wait := r.prog.wait } } ∧ (q.id.ctx ≠ ctx → r = q) ∧
    (q.id.ctx = ctx → ∀ w, w ∈ r.prog.walked ↔ w ∈ q.prog.walked ∧ match w.2 with
      | some e => e.ctx = ctx → ∃ a, page = some a ∧ ¬ (e.page ≤ a ∧ a < e.page + e.size)
      | none => False) ∧
    (r.prog.wait = q.prog.wait ∨ (r.prog.wait = none ∧ q.waitPages ≠ [] ∧ r.prog.walked ≠ q.prog.walked))
  (∀ (s : State) (k : Nat × Nat) (p : Pack) (o : Opnd), s.cur = some k → s.curPack? = some p → p.priv ≠ 0 →
    let past : Pack := { p with pc := p.pc + BitVec.ofNat 64 o.len, prog := {} }
    let leaf := (p.readG o.b.toNat).toNat
    let va := (p.readG o.a.toNat).toNat % 2 ^ 57
    let size := pageBytes (bits leaf 11 9)
    let e : TlbEntry := { ctx := p.id.ctx, page := va / size * size, size, frame := bits leaf 51 12 * 4096, rd := leaf.testBit 2
                          wr := leaf.testBit 3, exe := leaf.testBit 4, ha := leaf.testBit 60 }
    let s1 := if o.f ≠ 1 then s.setCore k.1 { s.core k.1 with tlb := tlbInsert 128 (s.core k.1).tlb e } else s
    let kc := k.1 / 24
    let s2 := if o.f ≠ 0 then s1.setCluster kc { s1.cluster kc with tlb := tlbInsert 8192 (s1.cluster kc).tlb e } else s1
    let ok := leaf.testBit 0 = true ∧ leaf.testBit 1 = true ∧ malformed s.dev (leafLevel (bits leaf 11 9)) leaf = false
    let page : Option Nat := if o.f = 0 then some va else none
    let held : Prop := ∃ c ∈ s.cores, ∃ e ∈ c.2.heel, e.uid = p.id.uid
    (¬ ok → exec (.tlbw o) s = perform (.tlbw o) (throw (.trap 0x08 (p.readG o.b.toNat) none none)) s) ∧
    (ok → o.x.c = 0 → exec (.tlbw o) s = .next (s2.after past)) ∧
    (ok → o.x.c ≠ 0 → ∃ t, exec (.tlbw o) s = .next t ∧ t = { s2.after past with packs := t.packs } ∧ Table.get? t.packs k = some past ∧
      (∀ j, Table.get? s.packs j = none → j ≠ k → Table.get? t.packs j = none) ∧
      ∀ j q, j ≠ k → Table.get? s.packs j = some q →
        if q.id.ctx = p.id.ctx ∧ (packId j.1 j.2 q.width).toNat = (p.readG o.rc).toNat % 2 ^ 22 then
          ∃ r, Table.get? t.packs j = some r ∧ r = { q with prog := { q.prog with walked := r.prog.walked } } ∧
            let given (g : Nat) : Option TlbEntry :=
              (tlbFind (s2.core j.1).tlb q.id.ctx (g * 4096)).or (tlbFind (s2.cluster (j.1 / 24)).tlb q.id.ctx (g * 4096))
            ∀ g, Table.get? r.prog.walked g =
              if g ∈ q.waitPages ∧ ((given g).isSome ∨ s2.serves j.1 q g = true) then some (given g) else Table.get? q.prog.walked g
        else Table.get? t.packs j = some q) ∧
    (held → exec (.tlbinv o) s = .next (s.after { p with prog := { p.prog with wait := some { why := .stores, instr := .tlbinv o } } })) ∧
    (¬ held → ∃ t, exec (.tlbinv o) s = .next t ∧ gone s t p.id.ctx page ∧ Table.get? t.packs k = some past ∧
      t = { s.after past with cores := t.cores, clusters := t.clusters, packs := t.packs } ∧
      (∀ j, Table.get? s.packs j = none → j ≠ k → Table.get? t.packs j = none) ∧
      ∀ j q, j ≠ k → Table.get? s.packs j = some q → ∃ r, Table.get? t.packs j = some r ∧ forgets q r p.id.ctx page)) ∧
  (∀ (s : State) (ctx : Nat) (at_ : Option Word), s.dev.tripped = false →
    let page := at_.map fun a => a.toNat % 2 ^ 57
    ∃ t, exec (.pagerInvalidation ctx at_) s = .next t ∧ gone s t ctx page ∧
      t = { s with cores := t.cores, clusters := t.clusters, packs := t.packs, cur := none } ∧
      (∀ j, Table.get? s.packs j = none → Table.get? t.packs j = none) ∧
      ∀ j q, Table.get? s.packs j = some q → ∃ r, Table.get? t.packs j = some r ∧ forgets q r ctx page)

/-! ### Engine instructions -/

/-- R224-R226, R229-R234, R249: outside a region, CPY, CPYM, GTH and COLL count one more operation of their class, hand the engine what
they read at issue (registers, records, the participating lanes' indices) and advance PC, or wait while 255 are outstanding; WAIT goes on,
waits, or traps on a recorded error; ASTAT reads the error state or the counters, and clears what it names. Each core that shares the engine notes
by its own CYCLE that it has accepted an operation (R18, R289). -/
def Obligations.EngineIssue : Prop :=
  ∀ (s : State) (k : Nat × Nat) (p : Pack) (o : Opnd), s.cur = some k → s.curPack? = some p → p.sys.rgnpc = 0 →
    let past : Pack := { p with pc := p.pc + BitVec.ofNat 64 o.len, prog := {} }
    let waits (i : Instr) (why : Wait) : Pack := { p with prog := { p.prog with wait := some { why, instr := i } } }
    let record (i : Instr) (r : Nat) (img : Option Lanes) (x : Nat) : Prop :=
      readRecord r img (startW s (issuer k p) i) = .ok x (startW s (issuer k p) i)
    let counted (e : Eng) : Pack :=
      { past with cnt := p.cnt.put e (p.cnt.of e + 1), issued := p.issued.put e (p.issued.of e + 1) }
    let head (e : Eng) : OpHead := { core := k.1, slot := k.2, uid := p.id.uid, ctx := p.id.ctx, seq := p.issued.of e + 1 }
    let n := k.1 / 24
    let y := s.cluster n
    let b := p.opB o
    (∀ (near : Nat → Bool) (f : Core → Core) (j : Nat), (s.accepted near f).core j = if near j = true ∧ j < 576 then f (s.core j) else s.core j) ∧
    let g (j : Nat) : Word := p.readG (o.rc + j)
    let copy (cores : Option (BitVec 24)) (src dst : Nat) : CopyOp :=
      { head := head .cp, form := o.f.toNat, s := b, d := g 0, p1 := g 1, p2 := g 2, p3 := g 3, src := BitVec.ofNat 512 src
        dst := BitVec.ofNat 512 dst, cores }
    let copies (i : Instr) (cores : Option (BitVec 24)) : Prop := ∀ src dst, record i o.a.toNat none src → record i o.d.toNat none dst →
      (p.cnt.cp < 255 →
        exec i s = .next (((s.setCluster n { y with cpq := y.cpq ++ [copy cores src dst] }).accepted (· / 24 == n)
          fun c => { c with cpLast := c.cycle }).after (counted .cp))) ∧
      (255 ≤ p.cnt.cp → exec i s = .next (s.after (waits i (.count .cp 254))))
    copies (.cpy o) none ∧
    copies (.cpym o) (some ((g 4).setWidth 24)) ∧
    (operandCheck (.gth o) p = .go → ∀ src dst, record (.gth o) o.a.toNat (some (p.part o)) src →
      record (.gth o) o.d.toNat (some (p.part o)) dst →
      (p.cnt.gt < 255 →
        exec (.gth o) s = .next (((s.setCluster n { y with gtq := y.gtq ++ [
            { head := head .gt, k := o.f.toNat, s := b, idx := (p.partList o).map fun l => (l, ((p.lane l).reg o.vc).val.toNat)
              src := BitVec.ofNat 512 src, dst := BitVec.ofNat 512 dst }] }).accepted (· / 24 == n) fun c =>
          { c with gtLast := c.cycle }).after (counted .gt))) ∧
      (255 ≤ p.cnt.gt → exec (.gth o) s = .next (s.after (waits (.gth o) (.count .gt 254))))) ∧
    (∀ src dst grp, record (.coll o) o.a.toNat none src → record (.coll o) o.d.toNat none dst → record (.coll o) o.rc none grp →
      (p.cnt.cl < 255 →
        exec (.coll o) s = .next ((({ s with colls := s.colls ++ [
            { head := head .cl, kind := o.f.toNat % 4, op := o.f.toNat / 4, ty := o.x.ty2, rm := o.x.rm, count := b
              src := BitVec.ofNat 512 src, dst := BitVec.ofNat 512 dst, grp := BitVec.ofNat 512 grp }] } : State).accepted (fun _ => true) fun c =>
          { c with clLast := c.cycle }).after (counted .cl))) ∧
      (255 ≤ p.cnt.cl → exec (.coll o) s = .next (s.after (waits (.coll o) (.count .cl 254))))) ∧
    (let e := engOf o.f.toNat
     let err := p.sys.asyncerr
     let tvec := (s.ctx p.id.ctx).tvec &&& 0xFFFFFFFFFFFFFFFC
     (b.toNat < p.cnt.of e → exec (.wait o) s = .next (s.after (waits (.wait o) (.count e b.toNat)))) ∧
     (p.cnt.of e ≤ b.toNat → err.getLsbD (engCode e) = false → exec (.wait o) s = .next (s.after past)) ∧
     (p.cnt.of e ≤ b.toNat → err.getLsbD (engCode e) = true → p.priv = 0 → tvec ≠ 0 →
       exec (.wait o) s = .next (s.after { p with
         sys := { p.sys with tpc := p.pc, tcause := 0x0C, tval := err, tstat := o.l.setWidth 64 <<< 2 }
         priv := 1, pc := tvec, prog := {} }))) ∧
    (let err := p.sys.asyncerr
     let reads (v err' : Word) : Prop := ∃ q, exec (.astat o) s = .next (s.after q) ∧ WritesG p q o.d.toNat v ∧
       q = { past with g := q.g, sys := { p.sys with asyncerr := err' } }
     (o.f = 0 → reads err 0) ∧
     (∀ j, j < 5 → o.f.toNat = j + 1 → ∃ err', reads err err' ∧
       (∀ i, i < 5 → err'.getLsbD i = (err.getLsbD i && i != j)) ∧
       ∀ i, 5 ≤ i → err'.getLsbD i = if err.extractLsb' 8 3 = BitVec.ofNat 3 j then false else err.getLsbD i) ∧
     (o.f = 6 → reads (BitVec.ofNat 64 (p.cnt.cp % 256 + p.cnt.gt % 256 * 2 ^ 8 + p.cnt.mx % 256 * 2 ^ 16 + p.cnt.cl % 256 * 2 ^ 24 +
       p.cnt.sc % 256 * 2 ^ 32)) err))

/-- R235, R238-R242, R244, R246: outside a region, a matrix instruction whose operands and records are read joins the pack's open batch
with what it read, and PC advances: the rows that lanes below 128 name, k0, the sync word, the records of the handles and of their scale
arrays, the index words of MMAS, the anchors of MANC. MCLOSE makes the open batch count as one operation of class mx, waits while 255 are
outstanding, and does nothing where no batch is open. -/
def Obligations.MatrixIssue : Prop :=
  ∀ (s : State) (k : Nat × Nat) (p : Pack) (o : Opnd), s.cur = some k → s.curPack? = some p → p.sys.rgnpc = 0 →
    let past : Pack := { p with pc := p.pc + BitVec.ofNat 64 o.len, prog := {} }
    let passes (i : Instr) (m : M Unit) : Prop := m (startW s (issuer k p) i) = .ok () (startW s (issuer k p) i)
    let record (i : Instr) (r : Nat) (x sc : Nat) : Prop :=
      readRecord r (some (p.part o)) (startW s (issuer k p) i) = .ok x (startW s (issuer k p) i) ∧
        scaleRecord x (some (p.part o)) (startW s (issuer k p) i) = .ok sc (startW s (issuer k p) i)
    let c := s.core k.1
    let imm := o.x.imm16.toNat
    let lanes := (p.partList o).filter (· < 128)
    let rows := lanes.map fun l => (l, ((p.lane l).reg o.va).val.toNat)
    let joins (i : Instr) (op : MxOp) : Prop :=
      exec i s = .next ((s.setCore k.1 { c with mxLast := c.cycle, mxq := c.mxq ++ [{ op with
        head := { core := k.1, slot := k.2, uid := p.id.uid, ctx := p.id.ctx, seq := p.issued.mx + 1 }
        tile := o.d.toNat, stream := imm / 2 ^ 14, c1 := p.id.c1, ready := !op.after }] }).after { past with openOps := p.openOps + 1 })
    let plain : MxOp :=
      { head := { core := 0, slot := 0, uid := 0, ctx := 0, seq := 0 }, kind := .manc, tile := 0, rows, ix := [], anchors := [], k0 := 0, sync := 0
        after := false, arrive := false, ha := 0, hb := 0, sa := 0, sb := 0, stream := 0, c1 := false, ready := false }
    let multiply (i : Instr) (kind : MxKind) (ix : List (Nat × BitVec 128)) : Prop := passes i (mxCheck i) →
      ∀ ha hb sa sb, record i o.b.toNat ha sa → record i o.rc hb sb →
      joins i { plain with
        kind, ix, k0 := p.readG (imm % 64), sync := if imm % 64 = 63 then 0 else p.readG (imm % 64 + 1)
        after := o.f.getLsbD 1, arrive := o.f.getLsbD 2
        ha := BitVec.ofNat 512 ha, hb := BitVec.ofNat 512 hb, sa := BitVec.ofNat 512 sa, sb := BitVec.ofNat 512 sb }
    let moves (i : Instr) (kind : MxKind) : Prop := passes i (mxCheck i) → ∀ ha sa, record i o.b.toNat ha sa →
      joins i { plain with
        kind, sync := p.readG (imm % 64), after := o.f.getLsbD 1, arrive := o.f.getLsbD 2
        ha := BitVec.ofNat 512 ha, sa := BitVec.ofNat 512 sa }
    let sel := imm / 2 ^ 12 % 4
    let quad := 4 * (imm / 2 ^ 6 % 64)
    let from_ (l : Nat) : Nat := if sel = 1 then 0 else if sel = 2 then l % 32 else l
    let word (l r : Nat) : Nat := ((p.lane (from_ l)).reg (quad + r)).val.toNat * 2 ^ (32 * r)
    multiply (.mma o) (.mma (o.f.getLsbD 0)) [] ∧
    (sel = 3 ∨ (quad + 4 ≤ p.allot ∧
        passes (.mmas o) (checkIn ((lanes.map from_).dedup) [{ which := 2, base := quad, count := 4, trap := false }])) →
      multiply (.mmas o) (.mmas (o.f.getLsbD 0)) (lanes.map fun l =>
        (l, if sel = 3 then 0x44444444444444444444444444444444 else BitVec.ofNat 128 (word l 0 + word l 1 + word l 2 + word l 3)))) ∧
    moves (.mld o) (.mld (o.f.getLsbD 0)) ∧
    moves (.mst o) (.mst (o.f.getLsbD 0) o.x.rm) ∧
    joins (.mzero o) { plain with kind := .mzero (o.f == 0), rows := lanes.map fun l => (l, 0) } ∧
    (passes (.manc o) (mxCheck (.manc o)) → joins (.manc o) { plain with
      rows := lanes.map fun l => (l, 0), anchors := lanes.map fun l => (l, BitVec.ofNat 16 (bValue o 1 (p.lane l))) }) ∧
    (p.openOps = 0 → exec (.mclose o) s = .next (s.after past)) ∧
    (p.openOps ≠ 0 → p.cnt.mx < 255 → exec (.mclose o) s = .next (s.after { past with
      openOps := 0, cnt := { p.cnt with mx := p.cnt.mx + 1 }, issued := { p.issued with mx := p.issued.mx + 1 } })) ∧
    (p.openOps ≠ 0 → 255 ≤ p.cnt.mx → exec (.mclose o) s = .next (s.after
      { p with prog := { p.prog with wait := some { why := .count .mx 254, instr := .mclose o } } }))

/-- R258-R269, R271, R273, R274: outside a region, a Scent instruction counts one more operation of class sc, queues at the die that its
identifier names (SCNEW: at its own) with what it read at issue, marks its vector destination empty, and advances PC; SCML reads and
writes the match registers, and reads the state of a sequence, once the pack's operations that they wait for are done and none on the sequence
is held (R265). -/
def Obligations.ScentIssue : Prop :=
  ∀ (s : State) (k : Nat × Nat) (p : Pack) (o : Opnd), s.cur = some k → s.curPack? = some p → p.sys.rgnpc = 0 →
    let past : Pack := { p with pc := p.pc + BitVec.ofNat 64 o.len, prog := {} }
    let passes (i : Instr) (m : M Unit) : Prop := m (startW s (issuer k p) i) = .ok () (startW s (issuer k p) i)
    let record (i : Instr) (r : Nat) (x : Nat) : Prop :=
      readRecord r none (startW s (issuer k p) i) = .ok x (startW s (issuer k p) i)
    let a := p.readG o.a.toNat
    let b := p.opB o
    let dest (i : Instr) (ls : List Nat) : Prop := passes i (scAllot i) ∧ regCheck p ls [] [o.vd] = .go
    let issues (i : Instr) (die : Nat) (op : ScOp) (ls : List Nat) (queries : Nat) : Prop :=
      p.cnt.sc < 255 → ∃ q, exec i s = .next (((s.setDie die { s.die die with scq := (s.die die).scq ++ [{ op with
          head := { core := k.1, slot := k.2, uid := p.id.uid, ctx := p.id.ctx, seq := p.issued.sc + 1 }
          b, vd := o.vd, width := p.width }] }).accepted (fun _ => true) fun c => { c with scLast := putAt 0 c.scLast die c.cycle }).after q) ∧
        q = { past with
          lanes := q.lanes, queries := p.queries + queries
          cnt := { p.cnt with sc := p.cnt.sc + 1 }, issued := { p.issued with sc := p.issued.sc + 1 } } ∧
        (∀ l, (q.lane l).p = (p.lane l).p ∧ (q.lane l).item = (p.lane l).item) ∧
        ∀ l r, (q.lane l).reg r =
          if l ∈ ls ∧ l < p.width ∧ r = o.vd then { (p.lane l).reg r with full := false, due := true, sc := true, bad := none } else (p.lane l).reg r
    let plain : ScOp :=
      { head := { core := 0, slot := 0, uid := 0, ctx := 0, seq := 0 }, kind := .free, a, b, hrec := 0, vd := 0, d := 0, toks := [], width := 0 }
    let own := a.toNat / 2 ^ 14 % 4
    (∀ r, dest (.scnew o) [0] → record (.scnew o) o.a.toNat r →
      issues (.scnew o) (k.1 / 144) { plain with kind := .new (o.f == 1), a := 0, hrec := BitVec.ofNat 512 r } [0] 0) ∧
    issues (.scfree o) own { plain with kind := .free } [] 0 ∧
    (let d := min b.toNat 16
     dest (.scqry o) (List.range d) → issues (.scqry o) own { plain with kind := .qry, d } (List.range d) 1) ∧
    (let m := min (a.toNat / 2 ^ 32 % 2 ^ 16) p.width
     dest (.scapp o) [0] →
     regCheck p (List.range m) (if o.lit.isSome then [] else [{ which := 1, base := o.vb, count := 1, trap := o.x.eb }]) [] = .go →
     issues (.scapp o) own { plain with
       kind := .app, toks := (List.range m).map fun l => BitVec.ofNat 32 (bValue o 1 (p.lane l)) } [0] 0) ∧
    (∀ r, record (.scsave o) o.d.toNat r → issues (.scsave o) own { plain with kind := .save, hrec := BitVec.ofNat 512 r } [] 0) ∧
    (∀ r, record (.scload o) o.d.toNat r → issues (.scload o) own { plain with kind := .load, hrec := BitVec.ofNat 512 r } [] 0) ∧
    (dest (.scatt o) [0] → issues (.scatt o) own { plain with kind := .att } [0] 0) ∧
    issues (.scdet o) own { plain with kind := .det } [] 0 ∧
    issues (.sccap o) own { plain with kind := .cap } [] 0 ∧
    (let reads (n : Nat) (v : Word) : Prop := o.f.toNat = n →
       (p.queries = 0 → WritesD s p o (.scml o) v) ∧
       (p.queries ≠ 0 → exec (.scml o) s = .next (s.after
         { p with prog := { p.prog with wait := some { why := .queries, instr := .scml o } } }))
     let id := a.toNat % 2 ^ 32
     reads 0 (p.sml.setWidth 64) ∧ reads 1 (p.smp.setWidth 64) ∧ reads 2 (p.sdn.setWidth 64) ∧
     reads 3 (p.smp ++ (0 : BitVec 3) ++ p.sdn ++ (0 : BitVec 1) ++ p.sml) ∧
     (o.f = 4 → exec (.scml o) s = .next (s.after
       { past with sml := a.extractLsb' 0 7, sdn := a.extractLsb' 8 5, smp := a.extractLsb' 16 48 })) ∧
     let waits : Prop := ∃ e ∈ s.dies, ∃ q ∈ e.2.scq, q.head.result = none ∧
       (q.head.uid = p.id.uid ∨ q.head.heldOn ≠ none ∨ q.head.asked ≠ []) ∧
       let x := q.a.toNat % 2 ^ 32
       ((∀ pfx, q.kind ≠ .new pfx) ∧ x = id) ∨ (q.kind = .att ∧ q.b.toNat % 2 ^ 32 = id) ∨
         ((q.kind = .free ∨ q.kind = .det) ∧ x / 2 ^ 14 % 4 = id / 2 ^ 14 % 4 ∧
           ∃ y, Table.get? e.2.seqs (x % 2 ^ 14) = some y ∧ y.link = some (id % 2 ^ 14))
     (o.f = 5 →
       (waits → exec (.scml o) s = .next (s.after
         { p with prog := { p.prog with wait := some { why := .sequence id, instr := .scml o } } })) ∧
       (¬ waits → WritesD s p o (.scml o) (match scFind s p.id.ctx id with
         | none => 0xFFFFFFFFFFFFFFFF
         | some x => BitVec.ofNat 64 (x.n % 2 ^ 48 * 2 ^ 16 + (if x.doomed then 8 else 0) + (if x.pfx then 4 else 0) +
             (if x.link.isSome then 2 else 0) + (if x.cancel then 1 else 0))))))

/-- R157-R162, R95, R168: an ISSV runs the words of its participating lanes, each group of lanes with one word after another, and owes as many issue
cycles as reading the words and the groups' passes take, which its core lets pass (O22, O57). Here the legal words are additions, subtractions, multiplications and bitwise
operations of 32-bit elements whose registers can be read and written: each lane gets its own word's result, whatever the groups. Where no
word is illegal the ISSV completes; otherwise it takes cause 0x09 for the lowest offending lane with the offenders' image, the legal groups'
results standing. The words are the lanes' own, or, where these are one nested ISSV, those of the register that it names, at depth 2, with the
passes of its group more. An ISSV without a participating lane owes a cycle and advances PC. That no other party's access falls between
the groups, unless a turn says so, is the model's (LOG 2). -/
def Obligations.LaneIssue : Prop :=
  ∀ (s : State) (k : Nat × Nat) (p : Pack) (o : Opnd), s.cur = some k → s.curPack? = some p → operandCheck (.issv o) p = .go →
    s.mismatches = [] → p.prog = {} → p.pre = none → p.mask &&& ~~~p.occ = 0 →
    let past : Pack := { p with pc := p.pc + BitVec.ofNat 64 o.len, prog := {} }
    let ls := p.partList o
    let ops : List ((Opnd → Instr) × (Half → Half → Half)) := [(.vadd, fun x y => x + y), (.vsub, fun x y => x - y), (.vmul, fun x y => x * y),
      (.vand, fun x y => x &&& y), (.vor, fun x y => x ||| y), (.vxor, fun x y => x ^^^ y)]
    let clean (l : Nat) (r : BitVec 6) : Prop :=
      let v := (p.lane l).reg r.toNat
      v.full = true ∧ v.bad = none ∧ v.ue = false
    let runs (depth : Nat) (word : Nat → Half) (extra : Nat) (read : Lanes) : Prop :=
      let bad := ls.filter fun l => (laneInstr p (word l) depth).isNone
      let good := ls.filter fun l => (laneInstr p (word l) depth).isSome
      ∀ (op : Nat → (Opnd → Instr) × (Half → Half → Half)) (t : Nat → BitVec 4) (a b d : Nat → BitVec 6),
        (∀ l ∈ good, op l ∈ ops ∧ (t l).toNat ≤ 1 ∧ clean l (a l) ∧ clean l (b l) ∧ ((p.lane l).reg (d l).toNat).due = false ∧
          laneInstr p (word l) depth = some ((op l).1 { f := t l, a := a l, b := b l, d := d l })) →
        let n := max 1 (passes (p.part o)) + extra +
          ((good.map word).dedup.map fun w => passes (maskOf (good.filter fun l => word l = w))).sum
        ∃ lanes : List Lane,
          (let q : Pack := { p with lanes }
           (∀ l, (q.lane l).p = (p.lane l).p ∧ (q.lane l).item = (p.lane l).item) ∧
           ∀ l r, (q.lane l).reg r = if l ∈ good ∧ r = (d l).toNat then
             { val := (op l).2 ((p.lane l).reg (a l).toNat).val ((p.lane l).reg (b l).toNat).val } else (p.lane l).reg r) ∧
          (bad = [] → exec (.issv o) s = .next (s.after { past with lanes, owed := p.owed + n })) ∧
          ∀ x r, bad = x :: r → exec (.issv o) s =
            perform (.issv o) (throw (.trap 0x09 (BitVec.ofNat 64 (depth * 2 ^ 42 + x * 2 ^ 32 + (word x).toNat)) none (some (maskOf bad))))
              (s.setCurPack { p with lanes, owed := p.owed + n, prog := { left := some (maskOf bad), begun := some (.issv o), read } })
    (ls = [] → exec (.issv o) s = .next (s.after { past with owed := p.owed + 1 })) ∧
    runs 1 (fun l => ((p.lane l).reg o.va).val) 0 0 ∧
    (∀ (w : Half) (r : BitVec 6), ls ≠ [] → (∀ l ∈ ls, ((p.lane l).reg o.va).val = w ∧ clean l r) →
      laneInstr p w 1 = some (.issv { a := r }) → runs 2 (fun l => ((p.lane l).reg r.toNat).val) (passes (maskOf ls)) (maskOf ls))

/-! ### Submission -/

/-- R99, R281, R283-R286, R292-R296: LAUNCH and ENQ read their record, wait while the bank or the context's segment is full, and write 0
with the launch queued, by the receiving cluster or in parts by the clusters that CLMASK names, its items in their flows or waiting for room there
or behind a launch that waits (LOG 10), or the code of the refusal; ENQ without a participating lane
writes 0. Of the atomic items of one flow a deterministic launch keeps the arrival order (LOG 10). GRUN waits while the graph's instances do not admit another, takes the generation and submits the root nodes, as a graph of one
node shows; GCOMMIT publishes a table; on a descriptor with a reserved bit set both only write a free value, the model's choice (LOG 45).
No region is open. -/
def Obligations.SubmissionInstructions : Prop :=
  ∀ (s : State) (k : Nat × Nat) (p : Pack) (o : Opnd), s.cur = some k → s.curPack? = some p → p.sys.rgnpc = 0 →
    let past : Pack := { p with pc := p.pc + BitVec.ofNat 64 o.len, prog := {} }
    let writes (i : Instr) (t : State) (v : Word) : Prop :=
      ∃ q, exec i s = .next (t.after q) ∧ WritesG p q o.d.toNat v ∧ q = { past with g := q.g }
    let waits (i : Instr) (why : Wait) : Prop :=
      exec i s = .next (s.after { p with prog := { p.prog with wait := some { why, instr := i } } })
    let w (i : Instr) : W := startW s (issuer k p) i
    let sub (r : Nat) : Submission :=
      { cluster := k.1 / 24, bank := if p.priv = 0 then 1 else 3, task := r % 2 ^ 512, issuer := if p.priv = 0 then some p.id.ctx else none }
    let bank (x : Submission) : Bank := s.bank x.cluster x.bank
    let slot0 (va : Nat) : Prop := (s.ctx p.id.ctx).htab.toNat ≤ va ∧ va < (s.ctx p.id.ctx).htab.toNat + 64
    let plain (x : Nat) : Prop := bits x 511 185 = 0 ∧ bits x 127 115 = 0
    let ends (i : Instr) (x : Submission) : Prop :=
      let t := parseTask x.task
      (s.bankWaits x x.cluster t.ctx = true → waits i (.bank x.cluster x.bank t.ctx (if x.second.isSome then 2 else 1) x.second.isSome)) ∧
      (∀ c, s.bankWaits x x.cluster t.ctx = false → refusal s x = some c → s.dev.triggers = [] →
        (t.done.toNat % 16 ≠ 0 → writes i (s.setBank x.cluster x.bank { bank x with errors := (bank x).errors + 1 }) (BitVec.ofNat 64 c)) ∧
        (t.done = 0 → (s.ctxs.any fun e => e.1 == t.ctx) = true → writes i s (BitVec.ofNat 64 c)))
    (∀ va key r, readBlock (p.readG o.a.toNat) (if o.f = 1 then 128 else 64) (w (.launch o)) = .ok (va, key, r) (w (.launch o)) →
      let x : Submission := { sub r with second := if o.f = 1 then some (r / 2 ^ 512) else none }
      ends (.launch o) x ∧ ∀ f, Joins s x f → writes (.launch o) (s.submitted x f) 0) ∧
    (operandCheck (.enq o) p = .go → p.part o = 0 → writes (.enq o) s 0) ∧
    (operandCheck (.enq o) p = .go → p.part o ≠ 0 → ∀ va key r,
      withImage (some (p.part o)) (readBlock (p.readG o.a.toNat) 64) (w (.enq o)) = .ok (va, key, r) (w (.enq o)) →
      let t := parseTask (r % 2 ^ 512)
      let its : List (Word × BitVec 32) := (p.partList o).map fun l =>
        (BitVec.ofNat 64 (bValue o (2 ^ o.x.wb.toNat) (p.lane l)), if o.f = 1 then ((p.lane l).reg o.vc).val else t.label)
      let x : Submission := { sub r with task := r, items := some its }
      r < 2 ^ 512 → p.partList o ≠ [] →
      ends (.enq o) x ∧
      (Accepts s x → (∀ e ∈ its, ∃ f, (s.ctx t.ctx).flow? e.2 = some f ∧ f.cls = t.cls) →
        let room : Prop := s.heldBack t.ctx (s.fresh + 1) (its.map (·.2)).dedup = false ∧
          ∀ e ∈ its, ∀ f, (s.ctx t.ctx).flow? e.2 = some f → f.room (its.filter fun e' => e'.2 = e.2).length = true
        let sorted (l : List Item) : List Item :=
          if t.det = false then l else if t.cls = .a then flowsInOrder (l.foldr insertItem []) l else l.foldr insertItem []
        (room →
          let all := its.foldl (fun (a : Table (BitVec 32) Flow × List Item) e =>
            let f := Table.getD a.1 e.2 { cls := t.cls }
            (Table.set a.1 e.2 (f.enqueue 1),
              a.2 ++ [{ wid := e.1, label := e.2, cls := t.cls, arr := f.nextArr, launch := s.fresh + 1 }])) ((s.ctx t.ctx).flows, [])
          writes (.enq o) (s.queued x all.1 its.length (some 0) (.items (sorted all.2))) 0) ∧
        (¬ room →
          let all : List Item := its.zipIdx.map fun e =>
            { wid := e.1.1, label := e.1.2, cls := t.cls, arr := e.2, launch := s.fresh + 1 }
          writes (.enq o) (s.queued x (s.ctx t.ctx).flows its.length none (.items (sorted all))) 0))) ∧
    (∀ va key x, readBlock (p.readG o.a.toNat) 64 (w (.grun o)) = .ok (va, key, x) (w (.grun o)) →
      (¬ plain x → writes (.grun o) { s with free := s.free + 1 } (Config.freeWord s.free)) ∧
      (plain x → graphFree s key = false → waits (.grun o) (.graph key)) ∧
      ∀ va' key' t, readBlock (BitVec.ofNat 64 (bits x 63 0)) 128 (w (.grun o)) = .ok (va', key', t) (w (.grun o)) →
        plain x → graphFree s key = true → ¬ slot0 va → s.Calm → bits t 511 32 = 0 →
        let gen := bits x 111 96
        let n := bits t 31 0
        let d := homeDie key
        let table : Word := BitVec.ofNat 64 (bits x 63 0)
        let inst : GraphInst :=
          { id := s.fresh, ctx := p.id.ctx, loc := key, desc := p.readG o.a.toNat, gen, table
            argp := p.readG o.b.toNat, running := [], arrived := [], err := none, doneAt := BitVec.ofNat 64 (bits x 184 128) }
        let q : Pack := { past with g := (p.writeG o.d.toNat (BitVec.ofNat 64 gen)).g }
        let started (l : List Nat) : State :=
          { s.setDie d { s.die d with graphs := (s.die d).graphs ++ [{ inst with running := l }] } with fresh := s.fresh + 1 }
        let counts : List Byte := leBytes 2 (gen + 1) ++ leBytes 1 (bits x 119 112 + 1)
        (1 ≤ n → n ≤ 65536 → ∀ w2 : W,
          (do dueRoots d s.fresh n; drainInst d s.fresh drainFuel : M Unit)
            { w (.grun o) with st := (started []).setCurPack q
                               log := (counts.zipIdx.map fun e => (key + 12 + e.2, e.1)).reverse } = .ok () w2 →
          exec (.grun o) s = .next (finishIssue s w2)) ∧
        (n = 1 → Memory.wf s.mem → (∀ g ∈ (s.die d).graphs, g.id ≠ s.fresh) → ∀ nk, (∀ j, j < 128 → (tlbFind (s.core (d * 144)).tlb p.id.ctx ((table.toNat + 64) % 2 ^ 57 + j)).map
            (fun e => canonPa s.dev (e.pa ((table.toNat + 64) % 2 ^ 57 + j))) = some (nk + j)) →
          nk + 128 ≤ key + 12 ∨ key + 15 ≤ nk →
          let node := leNat ((List.range 128).map fun j => Memory.read s.mem (nk + j))
          let r := bits node 511 0
          let r' := if bits r 248 192 = 0 then r + inst.argp.toNat % 2 ^ 57 * 2 ^ 192 else r
          let y : Submission := { cluster := d * 6, bank := 2, task := r', node := some { die := d, inst := s.fresh, node := 0 } }
          bits node 591 576 = 0 → bits node 639 608 = 0 → bits node 1023 768 = 0 → ∀ f, Joins s y f →
          ∃ u, exec (.grun o) s = .next u ∧ Stored s u (key + 12) counts ∧
            u = { (((started [0]).submitted y f).after q) with mem := u.mem, touched := u.touched, hbmPoison := u.hbmPoison, hbmUe := u.hbmUe })) ∧
    (∀ va key x va' key' t, readBlock (p.readG o.a.toNat) 64 (w (.gcommit o)) = .ok (va, key, x) (w (.gcommit o)) →
      readBlock (p.readG o.b.toNat) 128 (w (.gcommit o)) = .ok (va', key', t) (w (.gcommit o)) →
      (¬ plain x → writes (.gcommit o) { s with free := s.free + 1 } (Config.freeWord s.free)) ∧
      (plain x → s.Calm →
        let v := (bits x 95 64 + 1) % 2 ^ 32
        ∃ u q, exec (.gcommit o) s = .next u ∧
          (¬ slot0 va → Memory.wf s.mem → Stored s u key (leBytes 8 (p.readG o.b.toNat).toNat ++ leBytes 4 v)) ∧ (slot0 va → u.mem = s.mem) ∧
          WritesG p q o.d.toNat (BitVec.ofNat 64 v) ∧ q = { past with g := q.g } ∧
          u = { s.after q with mem := u.mem, touched := u.touched, hbmPoison := u.hbmPoison, hbmUe := u.hbmUe }))

/-! ### The Kennel -/

/-- R280-R287: what a write to a submission window, a spill, a refill, the taking of a record, the read of an argument block, and the
completion of a launch each leave. A launch comes to the receiving cluster, or in parts to the clusters that its record names in CLMASK. A record
that leaves bank 2 makes room for a graph's node, which is submitted then, and the completion of the last node's launch ends its instance (R294,
R295). When a bank refills, and that a head leaves from its ring, is the model's choice (LOG 2), and so are the core that an argument block is read for
and the PACKID of its miss (LOG 12). -/
def Obligations.KennelRecords : Prop :=
  ∀ s : State, s.dev.tripped = false →
    let idle (t : State) : State := { t with cur := none }
    let W := startW s noWho (.nop {})
    -- the TLB of a die's first core gives an address of a context the key `k`
    let At (ctx die a k : Nat) : Prop := (tlbFind (s.core (die * 144)).tlb ctx a).map (fun e => canonPa s.dev (e.pa a)) = some k
    (∀ (k off size : Nat) (data : BitVec 512), k < Config.numClusters → s.dev.service ≠ .boot →
      let b := s.bank k 0
      let go : Instr := .hostSubmission k off size data
      (s.dev.service ≠ .full → exec go s = .next (idle { s with dev := { s.dev with discarded := s.dev.discarded + 1 } })) ∧
      (s.dev.service = .full → size ≠ 64 ∨ off % 64 ≠ 0 ∨ 4096 ≤ off →
        exec go s = .next (idle (s.setBank k 0 { b with errors := b.errors + 1 }))) ∧
      (s.dev.service = .full → size = 64 → off % 64 = 0 → off < 4096 →
        (b.gangFirst = none → data.getLsbD 357 = true → exec go s = .next (idle (s.setBank k 0 { b with gangFirst := some data }))) ∧
        (b.gangFirst = none → data.getLsbD 357 = false → ∀ f, let x : Submission := { cluster := k, bank := 0, task := data.toNat }
          Joins s x f → exec go s = .next (idle (s.submitted x f))) ∧
        (∀ first, b.gangFirst = some first → ∀ f,
          let s1 := s.setBank k 0 { b with gangFirst := none }
          let x : Submission := { cluster := k, bank := 0, task := first.toNat, second := some data.toNat }
          Joins s1 x f → exec go s = .next (idle (s1.submitted x f))))) ∧
    (∀ (k b : Nat) (r : QRec),
      let x := s.bank k b
      (960 ≤ recWeight x.recs → spillable s k b = some r → b ≠ 2 →
        exec (.bankSpill k b) s = .next (idle (s.setBank k b
          { x with recs := x.recs.filter fun q => q.acc ≠ r.acc, spilled := x.spilled ++ [r] }))) ∧
      (recWeight x.recs + r.weight < 960 → r ∈ x.spilled → (∀ q ∈ x.spilled, r.acc < q.acc ∨ q = r) →
        exec (.bankRefill k b) s = .next (idle (s.setBank k b
          { x with recs := insertRec r x.recs, spilled := x.spilled.filter fun q => q.acc ≠ r.acc })))) ∧
    (∀ (k b : Nat) (r : QRec), s.nextBank k = some (b, r) →
      let x := s.bank k b
      let s1 := s.setBank k b { x with recs := x.recs.filter fun q => q.acc ≠ r.acc, spilled := x.spilled.filter fun q => q.acc ≠ r.acc }
      let c := s1.cluster k
      let s2 := s1.setCluster k { c with lastBank := b, taken := c.taken ++ [{ q := r, bank := b, placed := 0 }] }
      let n := s.launch r.launch
      let due (e : Nat × Die) : Prop := ∃ g ∈ e.2.graphs, g.pending ≠ []
      (x.recs ++ x.spilled).any (·.acc == r.acc) = true ∧ (∀ q ∈ x.recs ++ x.spilled, r.acc ≤ q.acc) ∧
      (n.arr.isSome = true → b ≠ 2 ∨ (∀ e ∈ s.dies, ¬ due e) → exec (.kennelTakeRecord k) s = .next (idle s2)) ∧
      (∀ (d i : Nat) (g : GraphInst) (nk : Nat), n.arr.isSome = true → b = 2 → d < 4 →
        (s.die d).graphs = [g] → g.pending = [i] → g.err = none → (∀ e ∈ s.dies, e.1 ≠ d → ¬ due e) →
        (∀ j, j < 128 → At g.ctx d ((g.table.toNat + 64 + 128 * i) % 2 ^ 57 + j) (nk + j)) →
        let node := leNat ((List.range 128).map fun j => Memory.read s.mem (nk + j))
        let r := bits node 511 0
        let r' := if bits r 248 192 = 0 then r + g.argp.toNat % 2 ^ 57 * 2 ^ 192 else r
        let y : Submission := { cluster := d * 6, bank := 2, task := r', node := some { die := d, inst := g.id, node := i } }
        bits node 639 608 = 0 → bits node 1023 768 = 0 → ∀ f, Joins s2 y f →
        exec (.kennelTakeRecord k) s = .next (idle ((s2.submitted y f).setDie d { s.die d with graphs :=
          [{ g with pending := [], running := g.running ++ [i] }] }))) ∧
      (n.arr = none → b ≠ 2 → Table.get? s.launches r.launch = some n → n.task.ctx = r.ctx → s2.enqOf r.launch = none →
        ∀ f, (s.ctx r.ctx).flow? n.task.label = some f →
        exec (.kennelTakeRecord k) s = .next (idle ((s2.setCtx r.ctx
          { s.ctx r.ctx with flows := Table.set (s.ctx r.ctx).flows n.task.label (f.enqueue n.task.count) }).setLaunch r.launch
          { n with arr := some f.nextArr })))) ∧
    (∀ (id : Nat) (n : Launch), Table.get? s.launches id = some n → n.args = none → n.failed = false → n.arr.isSome = true →
      let core := s.argCore n.task.ctx
      let c := s.core core
      let reads := readArgs n.task.ctx core n.served n.task.argp W
      (∀ xs, reads = .ok (.ok xs) W → exec (.argumentBlockRead id) s = .next (idle (s.setLaunch id { n with args := some xs }))) ∧
      (∀ va kind, reads = .error (.miss [va] kind) W → (∀ m ∈ c.misses, m.launch = some id → m.page ≠ va / 4096) →
        exec (.argumentBlockRead id) s = .next (idle (s.setCore core { c with misses := c.misses ++
          [{ ctx := n.task.ctx, page := va / 4096, kind, slot := 0, uid := 0, packid := 0, launch := some id }] }))) ∧
      (∀ cause, reads = .ok (.error cause) W → (∀ e ∈ s.dies, ∀ g ∈ e.2.graphs, g.pending = []) →
        ∃ t, exec (.argumentBlockRead id) s = .next t ∧ t.recordsOf id = [] ∧ t.packs = s.packs ∧ t.mem = s.mem ∧
          Table.get? t.launches id = some { n with failed := true, err := n.err.or (some (4, cause)), left := 0, unplaced := 0 })) ∧
    (∀ (id : Nat) (n : Launch), Table.get? s.launches id = some n → s.launchOver id = true →
      ((s.ctx n.task.ctx).flows.all fun f => !f.2.pins.contains id) = true →
      let gone : State := { s with
        launches := Table.del s.launches id
        cores := s.cores.map fun c => (c.1, { c.2 with detCur := Table.del c.2.detCur id }), cur := none }
      (n.node = none → n.task.done = 0 → exec (.launchCompletion id) s = .next gone) ∧
      (∀ (r : NodeRef) (g : GraphInst) (nk dk : Nat), n.node = some r → n.task.done = 0 → n.err = none → s.Calm → Memory.wf s.mem →
        r.die < 4 → (s.die r.die).graphs = [g] → g.id = r.inst → g.running = [r.node] → g.pending = [] → g.arrived = [] → g.err = none →
        g.doneAt = 0 → (∀ e ∈ s.dies, ∀ h ∈ e.2.graphs, h.pending = []) →
        (∀ j, j < 128 → At g.ctx r.die ((g.table.toNat + 64 + 128 * r.node) % 2 ^ 57 + j) (nk + j)) →
        leNat ((List.range 2).map fun j => Memory.read s.mem (nk + 74 + j)) = 0 →
        At g.ctx r.die (g.desc.toNat + 14) dk → g.desc.toNat + 14 < 2 ^ 57 →
        inSlot0 (s.ctx g.ctx) (g.desc.toNat + 14) = false →
        ∃ t, exec (.launchCompletion id) s = .next t ∧ Stored s t dk (leBytes 1 ((Memory.read s.mem dk).toNat + 255)) ∧
          (t.die r.die).graphs = [] ∧ t = { gone with
            dies := t.dies, mem := t.mem, touched := t.touched, hbmPoison := t.hbmPoison, hbmUe := t.hbmUe }) ∧
      (∀ key, (∀ j, j < 16 → residentKey W n.task.ctx 0 (n.task.done.toNat + j) = some (key + j)) →
        n.node = none → s.Calm → Memory.wf s.mem → n.task.done ≠ 0 → n.task.done.toNat % 16 = 0 → n.err = none →
        ∃ t, exec (.launchCompletion id) s = .next t ∧
          Stored s t key (leBytes 8 (leNat ((List.range 8).map fun j => Memory.read s.mem (key + j)) + 1)) ∧
          t = { gone with mem := t.mem, touched := t.touched, hbmPoison := t.hbmPoison, hbmUe := t.hbmUe }))

/-- R91, R101, R278, R279, R291: a pack starts with the next items of a taken record, lane by lane, its argument registers and its kernel's
entry, and the record keeps the items that remain; a gang starts all its packs at once, each with its role's items, entry, width and
registers. The model's choices and readings in it: the new pack's other registers and its lanes' are zero (LOG 8), logical ids follow the
order of the packs of a launch (LOG 10), and a pack that is not full starts on any core that has room, once the banks hold nothing more for
it (LOG 32). -/
def Obligations.PackStarts : Prop :=
  ∀ s : State, s.dev.tripped = false →
    (∀ (k core slot m : Nat) (t : Taken) (wid : Word) (off : Nat), (s.cluster k).taken = [t] → t.q.src = .run wid off m → t.placed < m →
      let L := t.q.launch
      let l := s.launch L
      let key := keyOf s t.q
      let n := min key.width (m - t.placed)
      let cores := s.coresFor k key.ctx
      Table.get? s.launches L = some l → l.task.cls ≠ .a → ∀ xs, l.args = some xs → ∀ first, l.arr = some first →
      s.coreOpen k core key.ctx = true → s.slotOk core slot key.ctx = true →
      s.roomFor core key.ctx (key.width * key.allot) key.mirr = true →
      let lpid := if l.task.det then t.q.before + t.packs else l.lpid
      (key.det.isSome = true → cores[lpid % 65536 % cores.length]? = some core) → (n < key.width → s.moreFor k key = false) → 0 < key.width →
      (l.task.records = false ∨ l.started = true) →
      let s1 := s.setCluster k { s.cluster k with taken := if n < m - t.placed then
        [{ t with placed := t.placed + n, packs := t.packs + if l.task.det then 1 else 0 }] else [] }
      let s2 := { s1.setLaunch L { l with unplaced := l.unplaced - n, started := true,
                                             lpid := if lpid = l.lpid then lpid + 1 else l.lpid } with fresh := s.fresh + n + 1, cur := none }
      exec (.packStart k core slot 0) s = .next (s2.setPack core slot
        { id := { ctx := t.q.ctx, entry := l.task.entry, argp := l.task.argp, regs0 := l.task.regs, launch := L, lpid := BitVec.ofNat 16 lpid
                  uid := s.fresh + n + 1, age := s.fresh + n + 1, mirr := l.task.mirr, records := l.task.records, det := l.task.det
                  c1 := l.task.c1 }
          width := l.task.width, allot := l.task.regs, pc := l.task.entry, g := 0 :: xs
          lanes := (List.range n).map fun j => { item :=
            { id := s.fresh + j + 1, wid := wid + BitVec.ofNat 64 (t.placed + j), label := l.task.label, cls := l.task.cls
              arr := first + off + t.placed + j, launch := L } }
          occ := widthMask n, mask := widthMask n, lastIssue := (s.core core).cycle })) ∧
    (∀ (k core n : Nat) (t : Taken), (s.cluster k).taken[n]? = some t → t.q.src = .gang →
      let L := t.q.launch
      let l := s.launch L
      let ctx := t.q.ctx
      let slots := (List.range Config.numSlots).filter (s.slotOk core · ctx)
      let ps := gangPacks l.roles
      Table.get? s.launches L = some l → l.task.ctx = ctx → ∀ xs, l.args = some xs → ∀ first, l.arr = some first →
      s.coreOpen k core ctx = true → ps.length ≤ slots.length → s.roomFor core ctx (rolesRegs l.roles) l.task.mirr = true →
      (l.task.det = true → (s.coresFor k ctx)[0]? = some core) → (l.task.records = false ∨ l.started = true) → l.task.cls ≠ .a →
      ∃ u, exec (.gangStart k core n) s = .next u ∧
        (u.cluster k).taken = (s.cluster k).taken.eraseIdx n ∧
        (∀ j sl, j ≠ core ∨ sl ∉ slots.take ps.length → u.pack? j sl = s.pack? j sl) ∧
        u = { s with fresh := u.fresh, packs := u.packs, clusters := u.clusters, cur := none
                     launches := Table.set s.launches L { l with lpid := ps.length, unplaced := l.unplaced - rolesItems l.roles, started := true } } ∧
        ∀ (j : Nat) (r : Role) (off slot : Nat), ps[j]? = some (r, off) → slots[j]? = some slot →
          ∃ q, u.pack? core slot = some q ∧ q.pc = r.entry ∧ q.width = r.width ∧ q.allot = r.regs ∧ q.g = 0 :: xs ∧ q.priv = 0 ∧
            q.status = .running ∧ q.id.ctx = ctx ∧ q.id.launch = L ∧ q.id.lpid = BitVec.ofNat 16 j ∧ q.id.gang = true ∧
            q.occ = widthMask r.width ∧ q.mask = widthMask r.width ∧
            ∀ i, i < r.width → (q.lane i).item.wid = l.task.base + BitVec.ofNat 64 (off + i) ∧ (q.lane i).item.label = l.task.label ∧
              (q.lane i).item.arr = first + off + i ∧ (q.lane i).item.launch = L)

/-! ### Engines at work -/

/-- R226, R227, R230-R234, R249-R252: a copy, a multicast, a gather and a matched collective that pass their checks write their destination
from what their sources hold, which it does not overlap, set its granules full, and retire; one that fails a check writes nothing and retires with the check's code,
a collective whose matched operations disagree, or that times out, with code 9. A source byte that a turn has read early counts as it was
(R203), and what a turn has had a copy or a gather write before is not written again (R191, R203; LOG 19). The operation is the only one of
its pack in its queue. A collective that times out counts among those of its TAG (R252). That an operation otherwise writes in one step is the
model's (LOG 19), and so are which code goes first where several checks fail, of a copy or a gather (LOG 42), and what the other members bring
(LOG 30). -/
def Obligations.CopiesAndCollectives : Prop :=
  ∀ s : State, s.dev.tripped = false → s.Calm → Memory.wf s.mem →
    let todo (h : OpHead) (plan : List Piece) : List Piece := plan.filter fun x => !h.wrote.any (·.1 == x.dst)
    let writable (h : OpHead) (hd : Hnd) (off : Nat) : Prop := hd.space = true ∨ inSlot0 (s.ctx h.ctx) (hd.addr off) = false
    let keys (h : OpHead) (hs hd : Hnd) (plan : List Piece) (src dst : Nat → Nat) : Prop :=
      (∀ x ∈ plan, engKey hd id .wr x.dst (engineW s h) = .ok (dst x.dst) (engineW s h) ∧ writable h hd x.dst) ∧
      ∀ x ∈ plan, ∀ a, x.src = some a → (∀ y ∈ plan, src a ≠ dst y.dst) ∧
        engKey hs id .rd a (engineW s h) = .ok (src a) (engineW s h) ∧ consumes s (src a) 1 = none
    let frame (t : State) : State := { s with
      packs := t.packs, clusters := t.clusters, colls := t.colls, mem := t.mem, touched := t.touched, hbmPoison := t.hbmPoison, hbmUe := t.hbmUe
      granEmpty := t.granEmpty, granPoison := t.granPoison, granUe := t.granUe, cur := none }
    (∀ (k n : Nat) (c : CopyOp) (q : Pack),
      let y := s.cluster k
      y.cpq[n]? = some c → Runs s c.head q → (∀ j d, y.cpq[j]? = some d → d.head.uid = c.head.uid → j = n) →
      let hs := parseHnd c.src.toNat
      let hd := parseHnd c.dst.toNat
      let W := engineW s c.head
      let left (t : State) : Prop := t = frame t ∧ t.colls = s.colls ∧ t.cluster k = { y with cpq := y.cpq.eraseIdx n } ∧
        ∀ j, j ≠ k → t.cluster j = s.cluster j
      (∀ (plan : List Piece) (src dst : Nat → Nat), copyChecks c hs hd W = .ok plan W → (∀ e ∈ c.head.wrote, e.2 = false) →
        (c.cores = none → keys c.head hs hd (todo c.head plan) src dst →
          ∃ t, exec (.copyComplete k n) s = .next t ∧ left t ∧ Retired s t c.head q .cp 0 ∧
            Moved c.head s t src ((todo c.head plan).map fun x => (dst x.dst, x))) ∧
        (∀ (m : BitVec 24) (at_ : Nat → Nat → Nat), c.cores = some m → (∀ x ∈ plan, ∀ y ∈ plan, hd.addr x.dst / 2 ^ 20 = hd.addr y.dst / 2 ^ 20) →
          (∀ x ∈ plan, ∀ a, x.src = some a → engKey hs id .rd a W = .ok (src a) W ∧ consumes s (src a) 1 = none ∧
            ∀ y ∈ plan, ∀ j ∈ namedCores m, src a ≠ at_ j y.dst) →
          (∀ x ∈ plan, ∀ j ∈ namedCores m, scratchAt s c.head.who (onCore j (hd.addr x.dst)) 1 = some (at_ j x.dst)) →
          ∃ t, exec (.copyComplete k n) s = .next t ∧ left t ∧ Retired s t c.head q .cp 0 ∧
            Moved c.head s t src ((namedCores m).flatMap fun j => plan.map fun x => (at_ j x.dst, x)))) ∧
      (∀ code W', code ≠ 0 → copyChecks c hs hd W = .error (.code code) W' →
        ∃ t, exec (.copyComplete k n) s = .next t ∧ left t ∧ Retired s t c.head q .cp code ∧ t.mem = s.mem)) ∧
    (∀ (k n : Nat) (c : GatherOp) (q : Pack),
      let y := s.cluster k
      y.gtq[n]? = some c → Runs s c.head q → (∀ j d, y.gtq[j]? = some d → d.head.uid = c.head.uid → j = n) →
      let hs := parseHnd c.src.toNat
      let hd := parseHnd c.dst.toNat
      let plan := gatherPlan c hs.stride
      let bounded := plan.all fun x => hd.inBounds x.dst 1 && x.src.all (hs.inBounds · 1)
      let within (hnd : Hnd) (a : Nat) : Prop := hnd.space = true → (scratchAt s c.head.who (hnd.addr a) 1).isSome = true
      let inside := ∀ x ∈ plan, within hd x.dst ∧ ∀ a, x.src = some a → within hs a
      let left (t : State) : Prop := t = frame t ∧ t.colls = s.colls ∧ t.cluster k = { y with gtq := y.gtq.eraseIdx n } ∧
        ∀ j, j ≠ k → t.cluster j = s.cluster j
      let fails (code : Nat) : Prop :=
        ∃ t, exec (.gatherComplete k n) s = .next t ∧ left t ∧ Retired s t c.head q .gt code ∧ t.mem = s.mem
      ((hs.valid && hd.valid && hd.space) = false → fails 1) ∧
      ((hs.valid && hd.valid && hd.space) = true → hd.ro = true → fails 3) ∧
      ((hs.valid && hd.valid && hd.space) = true → hd.ro = false → bounded = false ∨ ¬ inside → fails 2) ∧
      ((hs.valid && hd.valid && hd.space) = true → hd.ro = false → bounded = true → inside → (∀ e ∈ c.head.wrote, e.2 = false) →
        ∀ src dst : Nat → Nat, keys c.head hs hd (todo c.head plan) src dst →
        ∃ t, exec (.gatherComplete k n) s = .next t ∧ left t ∧ Retired s t c.head q .gt 0 ∧
          Moved c.head s t src ((todo c.head plan).map fun x => (dst x.dst, x)))) ∧
    (∀ (n : Nat) (c : CollOp) (q : Pack), s.colls[n]? = some c → (∀ j d, s.colls[j]? = some d → d.head.uid = c.head.uid → j = n) →
      let hs := parseHnd c.src.toNat
      let hd := parseHnd c.dst.toNat
      let W := engineW s c.head
      let Wt := engineW s { c.head with cover := [] }
      let W0 := startW s noWho (.nop {})
      let left (t : State) : Prop := t = frame t ∧ t.clusters = s.clusters ∧ t.colls = s.colls.eraseIdx n
      let numbered (l : List CollOp) : Prop := ∀ d ∈ l, (d.tag.isSome = true ∧ d.nth ≠ 0) ∨ (d.tag = none ∧ d.head.result.isSome = true)
      (Runs s { c.head with heldOn := none, asked := [] } q →
        (numbered s.colls →
          ∃ t, exec (.collTimeout n) s = .next t ∧ left t ∧ Retired s t c.head q .cl 9 ∧ t.mem = s.mem) ∧
        (∀ g : Group, c.tag = none → readGroup c Wt = .ok g Wt → c.nth = 0 → numbered (s.colls.eraseIdx n) →
          ∃ t, exec (.collTimeout n) s = .next t ∧ t.colls = s.colls.eraseIdx n ∧ t.mem = s.mem ∧ Retired s t c.head q .cl 9 ∧
            t.dev = { s.dev with tags := Table.set s.dev.tags g.tag (Table.getD s.dev.tags g.tag 0 + 1) }) ∧
        -- behind one whose record cannot be read yet it leaves, and stays to be counted in its turn
        (∀ (b : CollOp) (tag : Nat), n = 1 → s.colls = [b, c] → b.tag = none → b.head.result = none → collTag b W0 = .ok none W0 → c.tag = some tag →
          c.nth = 0 → ∃ t, exec (.collTimeout n) s = .next t ∧ t.mem = s.mem ∧ t.dev = s.dev ∧ Retired s t c.head q .cl 9 ∧
            t.colls = [b, { c with head := { c.head with uid := 0, heldOn := none, asked := [], result := some 9 }, gone := true }])) ∧
      (Runs s c.head q → ∀ (peers : List PeerRank) (g : Group) (own : List Byte) (dst : Nat → Nat),
        let e := typeBits c.ty / 8
        let len := e * collDstCount c g.size
        let srcs := (List.range g.size).map fun r =>
          if r = g.rank then elemsOf e own
          else elemsOf e (((peers.find? fun x => x.rank == r && decide (c.tag = some x.tag ∧ x.nth = c.nth)).map (·.src)).getD [])
        let bytes := (collResult c g srcs).flatMap (leBytes e)
        hs.valid = true → hd.valid = true → readGroup c W = .ok g W → hd.ro = false →
        hs.inBounds 0 (e * collSrcCount c g) = true → hd.inBounds 0 len = true →
        numbered s.colls →
        (∀ r, r < g.size → r ≠ g.rank → ∃ x ∈ peers, x.rank = r ∧ c.tag = some x.tag ∧ x.nth = c.nth) →
        (∀ w ∈ g.devs, w / 256 = s.dev.domain → s.dev.cutOff (w % 256) = false) →
        let agree (x : PeerRank) : Prop :=
          c.tag = some x.tag ∧ x.nth = c.nth →
            x.kind = c.kind ∧ x.op = c.op ∧ x.ty = c.ty ∧ x.count = c.count ∧ x.root = g.root ∧ x.devices = g.devs
        ((∃ x ∈ peers, ¬ agree x) →
          ∃ t, exec (.collComplete n peers) s = .next t ∧ left t ∧ Retired s t c.head q .cl 9 ∧ t.mem = s.mem) ∧
        ((∀ x ∈ peers, agree x) →
        engLoad hs 0 (e * collSrcCount c g) W = .ok (own, false) W →
        (∀ i, i < len → engKey hd id .wr i W = .ok (dst i) W ∧ writable c.head hd i) → (∀ i j, i < len → j < len → dst i = dst j → i = j) →
        ∃ t, exec (.collComplete n peers) s = .next t ∧ left t ∧ Retired s t c.head q .cl 0 ∧
          (∀ i, i < len → i < bytes.length → Memory.read t.mem (dst i) = bytes.getD i 0) ∧
          ∀ a, (∀ i, i < len → dst i ≠ a) → Memory.read t.mem a = Memory.read s.mem a)))

/-- R235-R248: the observation of .after makes a matrix operation ready; an operation whose turn has come and whose checks pass changes its
own tile, or for MST the bytes its handle names, as its kind says, whether it has waited on a .after object or not, makes its .arrive arrival, and
is complete, with code 7 where it finds that object misused; MATRIX_BATCH_RETIRE retires the oldest closed batch of a pack once its operations are
complete, with the code of the first in queue order that has one, which is the model's choice (LOG 42). That an operation is performed in one step,
that misuse of a barrier object is recorded, and that a load of a raw row touches 1,315 bytes only, is the model's (LOG 18, 19, 43). -/
def Obligations.MatrixAtWork : Prop :=
  ∀ (s : State) (c : Nat), s.dev.tripped = false → s.Calm → Memory.wf s.mem →
    let x := s.core c
    let idle (t : State) : State := { t with cur := none }
    (∀ (n : Nat) (m : MxOp), x.mxq[n]? = some m → m.ready = false → ((x.mxq.take n).all fun y => y.head.uid != m.head.uid || y.ready) = true →
      let who : Who := { ctx := m.head.ctx, core := c, slot := m.head.slot, uid := m.head.uid, direct := true }
      let seen (misuse : Bool) : Prop :=
        exec (.matrixAfterObserve c n) s = .next (idle (s.setCore c { x with mxq := x.mxq.set n { m with ready := true, misuse } }))
      (barKey s who m.afterAddr = none → seen true) ∧
      (∀ key, barKey s who m.afterAddr = some key →
        let b := parseBar (leNat ((List.range 16).map fun j => Memory.read s.mem (key + j)))
        (b.expect = 0 ∨ b.reserved = true → seen true) ∧
        (b.expect ≠ 0 → b.reserved = false → b.phase = m.afterParity → seen false) ∧
        (b.expect ≠ 0 → b.reserved = false → b.phase ≠ m.afterParity → exec (.matrixAfterObserve c n) s = .next (idle s)))) ∧
    (∀ (n : Nat) (m : MxOp), x.mxq[n]? = some m → m.head.result = none → m.head.heldOn = none → m.head.asked = [] → m.head.hurt = false → m.head.core = c → m.ready = true → m.misuse = false →
      m.head.cover = [] → ((x.mxq.take n).all fun y => !mxBehind m y && y.head.uid != m.head.uid) = true →
      (m.rows.map (·.1)).Nodup →
      let W := engineW s m.head
      let t := getAt {} x.tiles m.tile
      let done (tiles : List Tile) (code : Nat) : State :=
        idle (s.setCore c { x with tiles, mxq := x.mxq.set n { m with head := { m.head with result := some code } } })
      -- the objects of .after and .arrive lie where the operation may reach them, the latter at `ak`
      let linked (ak : Nat) : Prop := (m.after = true → (barKey s m.head.who m.afterAddr).isSome = true) ∧
        (m.arrive = true → barKey s m.head.who m.arriveAddr = some ak)
      let obj (u : State) (ak : Nat) : BarObj := parseBar (leNat ((List.range 16).map fun j => Memory.read u.mem (ak + j)))
      let misused (b : BarObj) : Bool := b.expect == 0 || b.reserved
      let arrived (b : BarObj) : BarObj :=
        if misused b then b else if b.expect < b.arrived + 1 then { b with ovr := true }
        else if b.arrived + 1 = b.expect then { b with arrived := 0, phase := !b.phase } else { b with arrived := b.arrived + 1 }
      let code (ak : Nat) : Nat :=
        let b := obj s ak
        if m.arrive = true ∧ (misused b = true ∨ b.expect < b.arrived + 1) then 7 else 0
      -- of memory nothing has changed but the object at `ak` and the keys that satisfy `other`
      let leaves (u : State) (ak : Nat) (other : Nat → Prop) : Prop :=
        (m.arrive = true → obj u ak = arrived (obj s ak)) ∧
        ∀ a, (m.arrive = true → a < ak ∨ ak + 16 ≤ a) → ¬ other a → Memory.read u.mem a = Memory.read s.mem a
      -- the tile after `f` has changed the rows that `rows` names
      let changed (t' : Tile) (rows : List Nat) (f : Nat → TileRow × Bool) : Prop :=
        t'.owner = t.owner ∧ t'.ue = t.ue ∧ (t'.ovf = (t.ovf || rows.any fun r => (f r).2)) ∧
          ∀ r, t'.row r = if r ∈ rows then (f r).1 else t.row r
      let becomes (rows : List Nat) (f : Nat → TileRow × Bool) : Prop :=
        ∃ t', exec (.matrixOpExecute c n) s = .next (done (putAt {} x.tiles m.tile t') 0) ∧ changed t' rows f
      let arrives (rows : List Nat) (f : Nat → TileRow × Bool) : Prop := ∀ ak, linked ak →
        ∃ t' u, exec (.matrixOpExecute c n) s = .next u ∧ changed t' rows f ∧ leaves u ak (fun _ => False) ∧
          u = { done (putAt {} x.tiles m.tile t') (code ak) with mem := u.mem, touched := u.touched }
      t.owner = some m.head.ctx → t.ue = [] →
      (m.kind = .mzero true → ∃ t', exec (.matrixOpExecute c n) s = .next (done (putAt {} x.tiles m.tile t') 0) ∧
        t'.owner = t.owner ∧ t'.ue = [] ∧ t'.ovf = false ∧
        ∀ r, t'.row r = if r < 128 then { t.row r with q := [], tags := [] } else t.row r) ∧
      (m.kind = .mzero false → becomes (m.rows.map (·.1)) fun r => ({ t.row r with q := [], tags := [] }, false)) ∧
      (m.kind = .manc → becomes (m.rows.map (·.1)) fun r => (t.row r).rescale (Table.getD m.anchors r 0)) ∧
      (∀ (h : Hnd) (vs : Nat → List MxVal), m.kind = .mld false → moveChecks m false false W = .ok h W →
        (∀ e ∈ m.rows, spanCheck h m.ha.toNat m.sa.toNat e.2 0 128 W = .ok () W ∧
          operandRow h m.ha.toNat m.sa.toNat e.2 0 128 W = .ok (vs e.1, false) W) →
        arrives (m.rows.map (·.1)) fun r =>
          let es := (vs r).map fun v => loadElem v (t.row r).anchor.toInt
          ({ t.row r with q := es.map (·.1), tags := es.map (·.2.1) }, es.any (·.2.2))) ∧
      (∀ (h : Hnd) (bs : Nat → List Byte), m.kind = .mld true → moveChecks m true false W = .ok h W →
        (∀ e ∈ m.rows, engInside h (e.2 * 1344) 1315 W = .ok () W ∧ engLoad h (e.2 * 1344) 1315 W = .ok (bs e.1, false) W) →
        arrives (m.rows.map (·.1)) fun r => parseRaw (bs r)) ∧
      (∀ (raw : Bool) (rm : BitVec 3) (h : Hnd) (ps : Nat → List (Nat × List Byte)) (key : Nat → Nat), m.kind = .mst raw rm →
        mstChecks m raw W = .ok h W → (∀ e ∈ m.rows, mstBytes m raw rm.toNat t e.1 e.2 W = .ok (ps e.1, false) W) →
        let bytes := m.rows.flatMap fun e => (ps e.1).flatMap fun y => y.2.zipIdx.map fun (b, i) => (y.1 + i, b)
        (∀ e ∈ bytes, engKey h id .wr e.1 W = .ok (key e.1) W) → (∀ e ∈ bytes, ∀ f ∈ bytes, key e.1 = key f.1 → e = f) →
        ∀ ak, linked ak → (m.arrive = true → ∀ e ∈ bytes, key e.1 < ak ∨ ak + 16 ≤ key e.1) →
        ∃ u, exec (.matrixOpExecute c n) s = .next u ∧ (∀ e ∈ bytes, Memory.read u.mem (key e.1) = e.2) ∧
          leaves u ak (fun a => ∃ e ∈ bytes, key e.1 = a) ∧
          u = { done x.tiles (code ak) with
            mem := u.mem, touched := u.touched, hbmPoison := u.hbmPoison, hbmUe := u.hbmUe, granEmpty := u.granEmpty
            granPoison := u.granPoison, granUe := u.granUe }) ∧
      (∀ (sparse tr : Bool) (ha hb : Hnd) (xs : Nat → List MxVal) (ys : Nat → List MxVal),
        let ra := m.ha.toNat
        let rb := m.hb.toNat
        let fa := tensorFmt ra
        let fb := tensorFmt rb
        let k0 := m.k0.toNat
        let a0 := if sparse then k0 / 2 else k0
        let kk := (mxK fa).getD 0
        let pos (r j : Nat) : Nat := if sparse then 4 * (j / 2) + (Table.getD m.ix r 0).toNat / 4 ^ j % 4 else j
        let used := if sparse then ((m.rows.flatMap fun e => (List.range kk).map (pos e.1)).dedup) else List.range kk
        let span := used.foldl (fun x k => max x (k + 1)) 0
        m.kind = (if sparse then .mmas tr else .mma tr) → m.rows ≠ [] →
        mxHandle ra false W = .ok ha W → mxHandle rb false W = .ok hb W → mxPair fa fb = true → (sparse = true → fa ≠ 18 ∧ k0 % 4 = 0) →
        (isGroupFmt fa = true → a0 % 64 = 0) → (isGroupFmt fb = true → tr = true → k0 % 64 = 0) →
        (∀ e ∈ m.rows, e.2 < tensorRows ra) → a0 + kk ≤ (tensorSizes ra).getD 0 0 →
        (if tr then 128 ≤ tensorRows rb ∧ ∀ k ∈ used, k0 + k < (tensorSizes rb).getD 0 0
          else 128 ≤ (tensorSizes rb).getD 0 0 ∧ ∀ k ∈ used, k0 + k < tensorRows rb) →
        (∀ e ∈ m.rows, spanCheck ha ra m.sa.toNat e.2 a0 kk W = .ok () W ∧ operandRow ha ra m.sa.toNat e.2 a0 kk W = .ok (xs e.1, false) W) →
        (if tr then ∀ j, j < 128 → spanCheck hb rb m.sb.toNat j k0 span W = .ok () W ∧ operandRow hb rb m.sb.toNat j k0 span W = .ok (ys j, false) W
          else ∀ k ∈ used, spanCheck hb rb m.sb.toNat (k0 + k) 0 128 W = .ok () W ∧
            operandRow hb rb m.sb.toNat (k0 + k) 0 128 W = .ok (ys k, false) W) →
        arrives (m.rows.map (·.1)) fun r => (t.row r).accumulate fun j => (List.range (xs r).length).map fun i =>
          product ((xs r).getD i .nan) (if tr then (ys j).getD (pos r i) .nan else (ys (pos r i)).getD j .nan) (t.row r).anchor.toInt)) ∧
    (∀ (slot : Nat) (p : Pack), s.pack? c slot = some p → p.cnt.mx ≠ 0 →
      let b := p.issued.mx + 1 - p.cnt.mx
      let h : OpHead := { core := c, slot, uid := p.id.uid, ctx := p.id.ctx, seq := b }
      let mine (m : MxOp) : Bool := m.head.uid == p.id.uid && m.head.seq == b
      let ops := x.mxq.filter mine
      Runs s h p → (∀ m ∈ ops, m.head.result.isSome) →
      ∃ t, exec (.matrixBatchRetire c slot) s = .next t ∧
        Retired s t h p .mx (((ops.map fun m => m.head.result.getD 0).find? (· ≠ 0)).getD 0) ∧
        t = { (s.setCore c { x with mxq := x.mxq.filter fun m => !mine m }) with packs := t.packs, cur := none })

/-- R259, R260, R262-R274: a Scent operation reaches its serial point, leaves in the die's sequences and in memory what it performs, its
status word or drafts in the lanes of the destination that still await them, for a query the match in SML, SMP and SDN, and retires; one
that fails changes no sequence and no byte, leaves status 15, or for a query zeros, and retires with its code. A destination that a SHRINK
has given up meanwhile takes nothing (R219). The operation is the only one
of its pack. That an operation is performed in one step is the model's (LOG 19). -/
def Obligations.ScentAtWork : Prop :=
  ∀ (s : State) (d n : Nat) (op : ScOp) (q : Pack), s.dev.tripped = false → s.Calm → (s.die d).scq[n]? = some op → Runs s op.head q →
    (∀ j, j < n → ∀ y, (s.die d).scq[j]? = some y → scBehind (s.die d) op y = false) →
    (s.dies.map (·.1)).Nodup → (∀ e ∈ s.dies, ∀ j y, e.2.scq[j]? = some y → y.head.uid = op.head.uid → e.1 = d ∧ j = n) →
    let W := engineW s op.head
    let query := op.kind = .qry
    let ends (r : ScResult) (code : Nat) (t : State) : Prop :=
      t.die d = { t.die d with scq := (s.die d).scq.eraseIdx n } ∧ (∀ e, e ≠ d → (t.die e).scq = (s.die e).scq) ∧
      (∀ c l, (c, l) ≠ (op.head.core, op.head.slot) → t.pack? c l = s.pack? c l) ∧
      ∃ p, t.pack? op.head.core op.head.slot = some p ∧
        p = { q with
          lanes := p.lanes, cnt := { q.cnt with sc := q.cnt.sc - 1 }
          sys := if code = 0 then q.sys else { q.sys with asyncerr := recordError q.sys.asyncerr .sc op.head.seq code }
          sml := p.sml, smp := p.smp, sdn := p.sdn, queries := p.queries } ∧
        (query → p.sml = BitVec.ofNat 7 r.found.1 ∧ p.smp = BitVec.ofNat 48 r.found.2.1 ∧ p.sdn = BitVec.ofNat 5 r.found.2.2 ∧
          p.queries = q.queries - 1) ∧
        (¬ query → p.sml = q.sml ∧ p.smp = q.smp ∧ p.sdn = q.sdn ∧ p.queries = q.queries) ∧
        ∀ l, (p.lane l).p = (q.lane l).p ∧ (p.lane l).item = (q.lane l).item ∧ ∀ v,
          let got : Option Nat := if op.dead then none else match op.kind with
            | .new _ | .app | .att => if l = 0 then some r.status else none
            | .qry => if l < op.d then some (r.drafts.getD l 0).toNat else none
            | _ => none
          (p.lane l).reg v = match got with
            | some y => if v = op.vd ∧ l < q.width ∧ ((q.lane l).reg v).due = true then { val := BitVec.ofNat 32 y } else (q.lane l).reg v
            | none => (q.lane l).reg v
    let frame (t : State) : State := { s with
      packs := t.packs, dies := t.dies, mem := t.mem, touched := t.touched, hbmPoison := t.hbmPoison, hbmUe := t.hbmUe
      granEmpty := t.granEmpty, granPoison := t.granPoison, granUe := t.granUe, cur := none }
    (∀ r W', scPerform op W = .ok r W' →
      ∃ t, exec (.scentSerialPoint d n) s = .next t ∧ ends r 0 t ∧ t = frame t ∧ t.mem = (finish s W').mem ∧
        ∀ e, t.die e = { W'.st.die e with scq := (t.die e).scq }) ∧
    (∀ code W', code ≠ 0 → scPerform op W = .error (.code code) W' →
      ∃ t, exec (.scentSerialPoint d n) s = .next t ∧ ends { status := 0xF0000000 } code t ∧ t = frame t ∧ t.mem = s.mem ∧
        (∀ e, t.die e = { s.die e with scq := (t.die e).scq })) ∧
    (∀ x, query → scFind s op.head.ctx (op.a.toNat % 2 ^ 32) = some x → ∃ r, scPerform op W = .ok r W ∧ (r.found, r.drafts) = x.query op.d) ∧
    (scFind s op.head.ctx (op.a.toNat % 2 ^ 32) = none → (∀ b, op.kind ≠ .new b) → ∃ W', scPerform op W = .error (.code 10) W')

/-! ### What happens between instructions -/

/-- R117, R120, R125, R189, R190, R206, R210, R220, R225, R298: a wait that is over ends with the pack carrying out the instruction at which
it waited, whose issue cycles then pass, up to 16 of them before the core chooses again (R289): BARRIER_WAIT_RELEASE goes on past BARW, or exchanges, which is no issue; FULL_GRANULE_WAIT_RELEASE
loads; ENGINE_WAIT_RELEASE goes on past WAIT, or traps on the error of its class; LEASH_ADMIT performs the site atomic of the pack whose run it
is. REGISTER_FILL fills the registers that await a value; HEEL_RELEASE performs the oldest held store, all its parts; GROW_DEADLOCK_PREEMPT saves a pack from
a core on which all wait in GROW and no request can be granted, and KENNEL_PACK_RESTORE brings it back; REPACK_WINDOW_CLOSE regroups or
branches; TLB_WALK_COMPLETE installs what a walk found; WALKER_START starts the walker for the oldest miss, once its registers are free, or, where it has stopped, lets all
take their page-fault path. The order among events, one delivery for each load, the walker's allotment of 8, where inactive lanes go in a
repacking, which entry a full TLB loses and that a walk fills both TLBs, the pack that R220 saves, and the free number of cycles that an issue
takes more are the model's (LOG 1, 6, 7, 20, 21, 22, 32). -/
def Obligations.WaitsEnd : Prop :=
  ∀ (s : State) (core : Nat), s.dev.tripped = false →
    let idle (t : State) : State := { t with cur := none }
    let c := s.core core
    (∀ (slot : Nat) (p : Pack) (why : Wait) (i : Instr) (u : State), s.pack? core slot = some p → p.prog.wait = some { why, instr := i } →
      p.mayIssue = true → p.owed = 0 → waitOver s core slot p why = true → exec i { s with cur := some (core, slot) } = .next u →
      let ends (e : Instr) : Prop := exec e s = .next (idle
        ((u.settled core slot p.id.uid (issueCost i p.mask) (some runCycles)).clearExchange core slot))
      (∀ o key b, i = .barw o → why = .barrier key b → ends (.barrierWaitRelease core slot)) ∧
      (∀ o gs, i = .lds o → why = .granules gs → ends (.fullGranuleWaitRelease core slot)) ∧
      (∀ o e m, i = .wait o → why = .count e m → ends (.engineWaitRelease core slot)) ∧
      (∀ o site, i = .amo o ∨ i = .vatom o ∨ i = .xchl o → why = .leash site → ends (.leashAdmit core slot))) ∧
    (∀ (slot : Nat) (p : Pack) (o : Opnd), s.pack? core slot = some p → p.mayIssue = true → p.owed = 0 →
      let x := s.ctx p.id.ctx
      let past : Pack := { p with pc := p.pc + BitVec.ofNat 64 o.len, prog := {} }
      let w (i : Instr) : W := startW { s with cur := some (core, slot) } (issuer (core, slot) p) i
      let issues (t : State) (cost : Nat) : State := idle (t.charge core slot p.id.uid cost (some runCycles))
      let lanes := max 1 (passes p.mask)
      let waits (why : Wait) (i : Instr) : Prop := p.prog.wait = some { why, instr := i }
      (∀ key parity, waits (.barrier key parity) (.barw o) → p.part o ≠ 0 →
        barKey s (issuer (core, slot) p) (p.readG o.a.toNat + o.x.imm16.signExtend 64 * 16).toNat = some key →
        parity = (p.readG o.b.toNat).getLsbD 0 →
        let obj (k : Nat) : BarObj := parseBar (leNat ((List.range 16).map fun j => Memory.read s.mem (k + j)))
        (obj key).reserved = false → (obj key).expect ≠ 0 →
        let come (e : Entry) : Prop := ∃ k q, e.bar = some (k, q) ∧ (obj k).phase = q
        ((obj key).phase = parity → (∀ e, p.stack.head? = some e → e.kind ≠ .pending ∨ ¬ come e ∨ p.prog.ownFirst = true) →
          exec (.barrierWaitRelease core slot) s = .next (issues (s.setPack core slot past) lanes)) ∧
        (∀ e r, p.stack = e :: r → e.kind = .pending → come e → (obj key).phase ≠ parity ∨ p.prog.ownFirst = false →
          let q : Pack := { p with stack := { kind := .pending, pc := p.pc, mask := p.mask, ra := e.ra, bar := some (key, parity) } :: r
                                   mask := e.mask &&& p.occ, pc := e.pc, prog := {} }
          q.mask ≠ 0 → exec (.barrierWaitRelease core slot) s = .next (idle (s.setPack core slot q)))) ∧
      (∀ gs accs, waits (.granules gs) (.lds o) → (∀ g ∈ gs, g ∉ s.granEmpty ∨ g ∈ s.granPoison) → operandCheck (.lds o) p = .go →
        let n := 4 * dCount o.f o
        scratchAccess n ((p.partList o).map fun l => (l, (p.readG o.a.toNat + vectorOffset o (p.lane l) +
          o.x.imm16.signExtend 64 * BitVec.ofNat 64 (typeBytes o.f)).toNat)) (w (.lds o)) = .ok accs (w (.lds o)) →
        let touched (g : Nat) : Prop := ∃ a ∈ accs, g ∈ granulesOf a.key n
        (∀ g, touched g → g ∈ gs) →
        ∃ t q, exec (.fullGranuleWaitRelease core slot) s = .next t ∧
          Loads s p q o (dCount o.f o) (fun a j => Memory.read s.mem (a + j)) accs ∧
          t = { issues ((s.numbered accs).setPack core slot q) lanes with granEmpty := t.granEmpty, touched := t.touched } ∧
          ∀ g, g ∈ t.granEmpty ↔ g ∈ s.granEmpty ∨ (o.rc = 2 ∧ touched g ∧ g ∉ s.granPoison)) ∧
      (let e := engOf o.f.toNat
       waits (.count e (p.opB o).toNat) (.wait o) → p.cnt.of e ≤ (p.opB o).toNat →
       (p.sys.asyncerr.getLsbD (engCode e) = false →
         exec (.engineWaitRelease core slot) s = .next (issues (s.setPack core slot past) 1)) ∧
       (p.sys.asyncerr.getLsbD (engCode e) = true → p.priv = 0 → x.tvec &&& 0xFFFFFFFFFFFFFFFC ≠ 0 →
         exec (.engineWaitRelease core slot) s = .next (issues (s.setPack core slot { p with
           sys := { p.sys with tpc := p.pc, tcause := 0x0C, tval := p.sys.asyncerr, tstat := o.l.setWidth 64 <<< 2 }
           priv := 1, pc := x.tvec &&& 0xFFFFFFFFFFFFFFFC, prog := {} }) 1))) ∧
      (∀ (j : Nat) (virt : Bool) (va key : Nat) (tk : Nat → Nat), waits (.leash j) (.amo o) → s.Calm → Memory.wf s.mem → p.sys.rgnpc = 0 →
        let t := o.x.ty2
        let n := typeBytes t
        scalarAccess .rmw o.a.toNat (scalarOffset p o n) n (w (.amo o)) = .ok (virt, va, key) (w (.amo o)) → consumes s key n = none →
        t.toNat < 4 → (∀ e, virt = true → entryOf (w (.amo o)) va = some e → haRefuses e (isAtomicOp o.f.toNat t) = false) →
        (if virt ∧ s.records p then siteOf x.trail va n else none) = some j → TrailMapped s core p.id.ctx j tk key n →
        let word (a : Nat) : Nat := leNat ((List.range 4).map fun i => Memory.read s.mem (tk a + i))
        ¬ x.leashed p.id.lpid.toNat j word → x.trail.mode = 2 →
        let plain : Bool := ((entryOf (w (.amo o)) va).map (·.ha)).getD false
        let old := leNat ((List.range n).map fun i =>
          if plain then Memory.read s.mem (key + i) else rmwByte s (key + i) (Memory.read s.mem (key + i)))
        let logged := x.siteLogged p.id.lpid.toNat j word
        let s1 := match logged.2 with
          | some y => s.setCtx p.id.ctx y
          | none => s
        let own : List (Nat × List Byte) := if x.htab.toNat ≤ va ∧ va < x.htab.toNat + 64 then [] else match p.amoNew o old with
          | some v => [(key, leBytes n v)]
          | none => []
        let done : Pack := match p.amoNew o old with
          | some v => past.retires (s.records p) (storeParts va (leBytes n v))
          | none => past
        ∃ u q, exec (.leashAdmit core slot) s = .next u ∧
          WritesG p q o.d.toNat (if isSignedType t then BitVec.ofInt 64 (intVal t old) else BitVec.ofNat 64 old) ∧
          q = { done with g := q.g, sys := { done.sys with trlpos := p.sys.trlpos + 1 } } ∧
          u = { issues (s1.setPack core slot q) 1 with mem := u.mem, touched := u.touched } ∧ StoredAll s u (own ++ logged.1.map fun e => (tk e.1, leBytes 4 e.2)))) ∧
    (∀ (slot n : Nat) (p : Pack) (f : Fill), s.pack? core slot = some p → p.fills[n]? = some f → p.status ≠ .ended →
      let fs := p.fills.filter fun e => e.op == f.op
      (∀ e ∈ fs, e.bad = none) → (fs.map (·.lane)).Nodup →
      ∃ q, exec (.registerFill core slot n) s = .next (idle (s.setPack core slot q)) ∧
        q = { p with fills := p.fills.filter fun e => e.op != f.op, lanes := q.lanes } ∧
        ∀ l, (q.lane l).p = (p.lane l).p ∧ (q.lane l).item = (p.lane l).item ∧ ∀ r,
          (q.lane l).reg r = match fs.find? (fun e => e.lane == l && decide (e.reg ≤ r ∧ r < e.reg + e.vals.length)) with
            | some e => if l < p.width ∧ l < 1024 ∧ ((p.lane l).reg r).due = true then { val := e.vals.getD (r - e.reg) 0 } else (p.lane l).reg r
            | none => (p.lane l).reg r) ∧
    (∀ (n : Nat) (e : HeelEntry) (key : HeelEntry → Nat), s.Calm → Memory.wf s.mem → c.heel[n]? = some e → s.releasable core n = true →
      let who : Who := { ctx := e.ctx, core, slot := 0, uid := 0, direct := true
                         served := (c.heelServed.filter fun x => x.1 == e.ctx).map (·.2) }
      let W : W := { startW s noWho (.nop {}) with who }
      let x := s.ctx e.ctx
      let same (f : HeelEntry) : Bool := f.ctx == e.ctx && f.item == e.item && f.stamp == e.stamp
      let parts := c.heel.filter same
      let left := c.heel.filter fun f => !same f
      let gone (f : Flow) : Bool := f.incomplete.isEmpty && f.pins.isEmpty &&
        !(left.any fun g => g.ctx == e.ctx && g.label == e.label) &&
        !(s.cores.any fun d => d.1 != core && d.2.heel.any fun g => g.ctx == e.ctx && g.label == e.label)
      (s.cores.map (·.1)).Nodup →
      (∀ f ∈ parts, if f.scratch then scratchAt s who f.addr.toNat f.bytes.length = some (key f) else
        translate .wr f.addr.toNat W = .ok (key f) W) →
      ∃ t, exec (.heelRelease core n) s = .next t ∧
        StoredAll s t ((parts.filter fun f => f.scratch || !inSlot0 x f.addr.toNat).map fun f => (key f, f.bytes)) ∧
        (t.core core = { c with heel := left, heelServed := c.heelServed.filter fun y => y.1 != e.ctx }) ∧
        (∀ d, d ≠ core → t.core d = s.core d) ∧ (∀ j, j ≠ e.ctx → t.ctx j = s.ctx j) ∧
        (t.ctx e.ctx = match x.flow? e.label with
          | some f => if gone f then { x with flows := Table.del x.flows e.label } else x
          | none => x) ∧
        (∀ g, let written := ∃ f ∈ parts, f.full = true ∧ g ∈ granulesOf (key f) f.bytes.length
          (g ∈ t.granEmpty ↔ g ∈ s.granEmpty ∧ ¬ written) ∧ (g ∈ t.granPoison ↔ g ∈ s.granPoison ∧ ¬ written)) ∧
        t = { s with cores := t.cores, ctxs := t.ctxs, mem := t.mem, touched := t.touched, hbmPoison := t.hbmPoison, hbmUe := t.hbmUe, granEmpty := t.granEmpty
                     granPoison := t.granPoison, granUe := t.granUe, cur := none }) ∧
    (∀ (slot : Nat) (p : Pack),
      let ps := (s.packsOf core).filter fun e => match e.2.status with | .parked _ _ _ _ => false | _ => true
      (∀ e ∈ ps, ∃ m, (e.1, m) ∈ c.growing) → s.growable core = false → byAge true ps = some (slot, p) → s.pack? core slot = some p → p.cnt = {} →
      p.fills = [] → (∀ m ∈ c.mxq, m.head.uid = p.id.uid → m.head.result.isSome) →
      ∃ t, exec (.growDeadlockPreempt core) s = .next t ∧ t.pack? core slot = none ∧
        t.core core = { c with saved := c.saved ++ [{ p with prog := {} }], growing := c.growing.filter fun e => e.1 != slot
                               repacks := c.repacks.filterMap (·.leave slot) } ∧
        (∀ j l, (j, l) ≠ (core, slot) → (t.pack? j l).map (fun q => { q with prog := {} }) = (s.pack? j l).map fun q => { q with prog := {} }) ∧
        t = { s with packs := t.packs, cores := t.cores, guardQ := t.guardQ, cur := none } ∧ ∀ d, d ≠ core → t.core d = s.core d) ∧
    (∀ (slot : Nat) (p : Pack), byAge false (c.saved.map fun p => (0, p)) = some (0, p) →
      (∀ e ∈ c.growing, ∃ q, s.pack? core e.1 = some q ∧ p.id.age ≤ q.id.age) → (s.ctx p.id.ctx).pre = .none →
      s.slotOk core slot p.id.ctx = true → s.roomFor core p.id.ctx (p.width * p.allot) p.id.mirr = true →
      exec (.kennelPackRestore core slot) s = .next (idle ((s.setCore core { c with saved := c.saved.filter fun q => q.id.uid != p.id.uid }).setPack
        core slot { p with lastIssue := c.cycle }))) ∧
    (∀ (n : Nat) (w : Repack), c.repacks[n]? = some w →
      let ps := participants s core w
      let s1 := s.setCore core { c with repacks := c.repacks.eraseIdx n }
      (∀ q : Participant → Pack, ps.length ≤ 1 ∨ regroup ps = none → (ps.map (·.slot)).Nodup →
        (∀ x ∈ ps, x.pack.vbr (opndOf x.instr) = some (q x)) →
        exec (.repackWindowClose core n) s = .next (idle (ps.foldl (fun t x =>
          (t.setPack core x.slot (q x)).charge core x.slot x.pack.id.uid (issueCost x.instr x.pack.mask) (some runCycles)) s1))) ∧
      (∀ x u, ps = [x] → perform x.instr (vbrBody (opndOf x.instr)) { s1 with cur := some (core, x.slot) } = .next u →
        exec (.repackWindowClose core n) s = .next (idle (u.charge core x.slot x.pack.id.uid (issueCost x.instr x.pack.mask) (some runCycles)))) ∧
      (∀ rs, 2 ≤ ps.length → (ps.map (·.slot)).Nodup → regroup ps = some rs →
        ∃ t, exec (.repackWindowClose core n) s = .next t ∧ (t.core core).repacks = c.repacks.eraseIdx n ∧
          ∀ x ∈ ps,
            (∀ r, rs.find? (fun r => r.host.slot == x.slot) = some r →
              ∃ q, t.pack? core x.slot = some q ∧ q = { r.pack ps with lastIssue := q.lastIssue, owed := q.owed }) ∧
            (rs.find? (fun r => r.host.slot == x.slot) = none → x.pack.cnt = {} → t.pack? core x.slot = none))) ∧
    (∀ (k n : Nat) (w : Walk), (s.cluster k).walks[n]? = some w →
      let y := s.cluster k
      let root := (s.ctx w.ctx).root
      let read (pa : Nat) : Nat := match y.memo.find? fun e => e.1 == w.batch && e.2.1 == pa with
        | some e => e.2.2
        | none => readPte (Memory.read s.mem) s.dev pa
      let found := walkWith read s.dev w.ctx root (w.page * 4096) 5
      let y0 : Cluster := { y with walks := y.walks.eraseIdx n }
      let known := y.memo ++ (walkReads read s.dev root (w.page * 4096) 5).map fun e => (w.batch, e.1, e.2)
      let y1 : Cluster := { y0 with memo := known.filter fun e => (y0.walks ++ y0.queued).any fun v => v.batch == e.1 }
      let y2 : Cluster := match nextWalk y1 with
        | some v => { y1 with walks := y1.walks ++ [v], queued := y1.queued.erase v }
        | none => y1
      let s1 : State := match found with
        | some e => (s.setCluster k { y2 with tlb := tlbInsert 8192 y2.tlb e }).setCore w.core
            { s.core w.core with tlb := tlbInsert 128 (s.core w.core).tlb e }
        | none => s.setCluster k y2
      (∀ p, s.pack? w.core w.slot = some p → p.id.uid = w.uid → w.page ∈ p.waitPages →
        exec (.tlbWalkComplete k n) s = .next (idle (s1.setPack w.core w.slot (p.served [w.page] fun _ => found)))) ∧
      (s.pack? w.core w.slot = none → exec (.tlbWalkComplete k n) s = .next (idle s1))) ∧
    (∀ (m : Miss) (r : List Miss), c.misses = m :: r →
      let x := s.ctx m.ctx
      let uid := s.fresh + 1
      (s.pack? core 47 = none → s.usedRegs core + 256 ≤ (if s.mirrored core = true then 65536 else 131072) → exec (.walkerStart core) s = .next (idle (({ s with fresh := uid } : State).setPack core 47
        { id := { ctx := m.ctx, entry := x.walk, uid, age := uid, walker := some m.page }
          width := 32, allot := 8, pc := x.walk, priv := 1, g := [0, BitVec.ofNat 64 (m.page * 4096), m.kind.setWidth 64, m.packid]
          lanes := [{ item := { done := true } }], occ := 1, mask := 1, lastIssue := c.cycle }))) ∧
      (∀ v cause val flt img, s.pack? core 47 = some v → v.id.walker.isSome = true → v.status = .stopped cause val flt img →
        ∃ t, exec (.walkerStart core) s = .next t ∧ (t.core core).misses = [] ∧ t.mem = s.mem ∧
          ∀ slot p, s.pack? core slot = some p → t.pack? core slot = some
            (p.served ((c.misses.filter fun m => m.launch == none && m.uid != 0 && m.uid == p.id.uid && p.waitPages.contains m.page).map (·.page)) fun _ => none)))

/-- R107, R123, R302-R305, R309-R316, R319, R325-R328, R334: FAULT_RECORD_POST posts a fault record in order and FAULT_QUEUE_DRAIN makes room;
PARKED_REPLAY goes on over the lanes of the image, or takes cause 0x07; WATCHDOG_EXPIRY takes cause 0x0E for a pack that has issued nothing for
QUIET cycles; REGION_RESTART restarts a region where it began, its due values dropped and its held stores discarded from every Heel, or takes
cause 0x12 once its retries are spent; STRIKE_REPORT rolls a core back to the oldest point of its journal, or leaves it as it was;
SCRUB_ERROR, PLANE_LOSS, FLIT_CRC_ERROR and HOST_PORT_FAILURE log what is lost; PREEMPTION_ENTRY closes a pack's batch, then enters its
handler with its frame recorded, or saves one that has stopped; PREEMPTION_COMPLETE reports a context of which nothing is left;
RESTORE_ENTRY starts a frame again in a slot. How an event that does not apply is left, where a frame is kept, the spill region, how far
back a strike rolls, that a lost plane, a retried flit's plane and a lost host port are logged on die 0, that a scrub takes the uncorrectable error
away, and the orders at a boundary are the model's (LOG 1, 2, 11, 12, 13, 17, 26, 27, 35, 44). -/
def Obligations.FaultsAndPreemption : Prop :=
  ∀ s : State, s.dev.tripped = false → s.Calm →
    let idle (t : State) : State := { t with cur := none }
    let W := startW s noWho (.nop {})
    let logged (d : Nat) (e : LogEntry) (t : State) : State := idle (t.setDie d { t.die d with errors := (t.die d).errors ++ [e] })
    let tvec (n : Nat) : Word := (s.ctx n).tvec &&& 0xFFFFFFFFFFFFFFFC
    let traps (p : Pack) (cause val : Word) (tl : BitVec 2) : Pack := { p with
      sys := { p.sys with tpc := p.pc, tcause := cause, tval := val, tstat := tl.setWidth 64 <<< 2 }
      priv := 1, pc := tvec p.id.ctx, prog := {} }
    let posts (t : State) (ctx : Nat) (x : Ctx) (r : BitVec 256) (x' : Ctx) : Prop :=
      Stored s t (canonPa s.dev (x.fqBase + 32 * (x.fqPosted % x.fqSize))) (leBytes 32 r.toNat) ∧
        t = { s.setCtx ctx x' with mem := t.mem, touched := t.touched, hbmPoison := t.hbmPoison, hbmUe := t.hbmUe, cur := none }
    (∀ ctx : Nat,
      let x := s.ctx ctx
      (∀ r rest, Memory.wf s.mem → x.fqWaiting = r :: rest → x.fqPosted < x.fqFreed + x.fqSize →
        ∃ t, exec (.faultRecordPost ctx) s = .next t ∧ posts t ctx x r { x with fqPosted := x.fqPosted + 1, fqWaiting := rest }) ∧
      ((∃ e ∈ s.ctxs, e.1 = ctx) → ∀ n, exec (.faultQueueDrain ctx n) s =
        .next (idle (s.setCtx ctx { x with fqFreed := min x.fqPosted (x.fqFreed + n) }))) ∧
      (∀ seq, Memory.wf s.mem → x.pre = .requested seq → (∀ e ∈ s.packs, e.2.id.ctx ≠ ctx) → (∀ c ∈ s.cores, ∀ e ∈ c.2.heel, e.ctx ≠ ctx) →
        (∀ c, ∀ e ∈ (s.core c).heel, e.ctx ≠ ctx) → x.fqWaiting = [] → x.fqPosted < x.fqFreed + x.fqSize →
        ∃ t, exec (.preemptionComplete ctx) s = .next t ∧ posts t ctx x (contextRecord 2 x.fqSeq 0 0 ctx 0 (BitVec.ofNat 64 seq))
          { x with fqSeq := x.fqSeq + 1, fqPosted := x.fqPosted + 1, pre := .complete seq })) ∧
    (∀ (core slot : Nat) (p : Pack), s.pack? core slot = some p →
      let c := s.core core
      let x := s.ctx p.id.ctx
      let only (t : State) (q : Pack) : Prop := t.pack? core slot = some q ∧ ∀ j l, (j, l) ≠ (core, slot) → t.pack? j l = s.pack? j l
      (∀ seq fetch va img, p.status = .parked seq (some true) fetch va → p.restart = none → p.pendingTrap = none → p.takesPre = false →
        loadResident p.id.ctx core p.sys.fltmaskp.toNat 128 W = .ok img W →
        exec (.parkedReplay core slot) s = .next (idle (s.setPack core slot { p with
          status := .running, lastIssue := c.cycle
          prog := { replay := if BitVec.ofNat 1024 img &&& p.occ ≠ 0 then some (BitVec.ofNat 1024 img) else p.prog.replay } }))) ∧
      (∀ seq fetch va tl, p.status = .parked seq (some false) fetch va → p.restart = none → p.pendingTrap = none → p.takesPre = false →
        p.priv = 0 → tvec p.id.ctx ≠ 0 → lenAt core p W = .ok tl W →
        exec (.parkedReplay core slot) s = .next (idle (s.setPack core slot (traps { p with status := .running, lastIssue := c.cycle } 0x07 va
          (if fetch then 0 else tl))))) ∧
      (∀ tl, s.quietTooLong core p = true → p.priv = 0 → tvec p.id.ctx ≠ 0 → p.prog.left = none → p.prog.replay = none →
        lenAt core p W = .ok tl W →
        ∃ t, exec (.watchdogExpiry core slot) s = .next t ∧ only t (traps { p with lastIssue := c.cycle } 0x0E x.quiet tl) ∧
          t = { s with packs := t.packs, cores := t.cores, guardQ := t.guardQ, cur := none }) ∧
      (let due : Prop := p.status = .running ∧ p.priv = 0 ∧ p.owed = 0 ∨ ∃ seq a fetch va, p.status = .parked seq (some a) fetch va
       (∀ cause, p.restart = some cause → due →
         ∃ t q, exec (.regionRestart core slot) s = .next t ∧ only t q ∧
           q = { p with
             lanes := q.lanes, fills := [], mask := p.rgnMask &&& p.occ, stack := p.stack.drop (p.stack.length - p.rgnDepth)
             pc := p.sys.rgnpc, sys := { p.sys with rgnretry := p.sys.rgnretry + 1 }, restart := none, prog := {}, lastIssue := c.cycle
             status := .running } ∧
           (∀ l, (q.lane l).p = (p.lane l).p ∧ (q.lane l).item = (p.lane l).item ∧ ∀ r, (q.lane l).reg r =
             let v := (p.lane l).reg r
             if v.due then { v with full := true, due := false } else v) ∧
           (∀ d, (t.core d).heel = (s.core d).heel.filter fun e => !(e.uid == p.id.uid && e.region != 0)) ∧ t.mem = s.mem) ∧
       (∀ cause val tl, p.restart = none → p.pendingTrap = some (cause, val) → cause < 256 → due → p.priv = 0 → tvec p.id.ctx ≠ 0 →
         p.prog.left = none → p.prog.replay = none → lenAt core p W = .ok tl W →
         ∃ t, exec (.regionRestart core slot) s = .next t ∧ t.mem = s.mem ∧ only t (traps
           { p with status := .running, pendingTrap := none, lastIssue := c.cycle } (BitVec.ofNat 64 cause) val tl))) ∧
      (p.takesPre = true → p.id.walker = none → p.openOps ≠ 0 → p.cnt.mx < 255 →
        exec (.preemptionEntry core slot) s = .next (idle (s.setPack core slot { p with
          cnt := { p.cnt with mx := p.cnt.mx + 1 }, issued := { p.issued with mx := p.issued.mx + 1 }, openOps := 0 }))) ∧
      (∀ seq tl, p.takesPre = true → p.openOps = 0 → p.drained = true → p.preReq = some seq → p.pre = none → p.lag = none →
        p.prog.left = none → p.prog.replay = none → lenAt core p W = .ok tl W →
        let kept (f : Frame) : Prop := f.ctx = p.id.ctx ∧ f.pack = { p with prog := {}, preReq := none } ∧ f.seq = seq ∧ f.selfSaved = false ∧
          f.parked = false ∧ f.issv = false ∧ f.tl = tl ∧ f.before = p.issued
        (p.status = .running → tvec p.id.ctx ≠ 0 →
          ∃ t va f, exec (.preemptionEntry core slot) s = .next t ∧
            (let q := traps { p with preReq := none } 0x0F (BitVec.ofNat 64 (seq % 2 ^ 32 * 2 ^ 32)) tl
             only t { q with
               sys := { q.sys with tsave := va &&& 0x01FFFFFFFFFFFFC0 }, pre := some { frame := va, restore := false, seq } }) ∧
            Table.get? t.frames (p.id.ctx, va) = some f ∧ kept f ∧ f.stopped = false) ∧
        (∀ cause val flt img, p.status = .stopped cause val flt img → p.id.walker = none →
          ∃ t va f, exec (.preemptionEntry core slot) s = .next t ∧ t.pack? core slot = none ∧
            Table.get? t.frames (p.id.ctx, va) = some f ∧ kept f ∧ f.stopped = true))) ∧
    (∀ (core n slot : Nat) (w : Waiting) (f : Frame), (s.core core).waiting[n]? = some w → Table.get? s.frames (w.ctx, w.frame) = some f →
      let c := s.core core
      let p := f.pack
      (s.ctx w.ctx).pre = .none → s.slotOk core slot w.ctx = true → s.roomFor core w.ctx (p.width * p.allot) p.id.mirr = true →
      p.id.ctx = w.ctx →
      let left (t : State) (frames : Table (Nat × Word) Frame) : Prop :=
        t.core core = { c with waiting := c.waiting.eraseIdx n } ∧ (∀ d, d ≠ core → t.core d = s.core d) ∧
          (∀ j l, (j, l) ≠ (core, slot) → t.pack? j l = s.pack? j l) ∧ (∀ j, j ≠ w.ctx → t.ctx j = s.ctx j) ∧
          t = { s with packs := t.packs, cores := t.cores, ctxs := t.ctxs, frames, cur := none }
      let gone := Table.del s.frames (w.ctx, w.frame)
      let flag (b : Bool) (v : Nat) : Nat := if b then v else 0
      (p.status = .running → f.selfSaved = true → ∃ t, exec (.restoreEntry core n slot) s = .next t ∧ left t gone ∧
        t.pack? core slot = some { p with
          lastIssue := c.cycle
          prog := { replay := if (f.parked || f.issv) = true ∧ f.image &&& p.occ ≠ 0 then some f.image else none } }) ∧
      (p.status = .running → f.selfSaved = false → tvec w.ctx ≠ 0 →
        ∃ t q, exec (.restoreEntry core n slot) s = .next t ∧ left t s.frames ∧ t.pack? core slot = some q ∧
          q.pc = tvec w.ctx ∧ q.priv = 1 ∧ q.sys.tpc = p.pc ∧ q.sys.tcause = 0x0F ∧
          q.sys.tval = BitVec.ofNat 64 (f.seq % 2 ^ 32 * 2 ^ 32 + flag f.issv 4 + 2 + flag f.parked 1) ∧ q.sys.tstat = f.tl.setWidth 64 <<< 2 ∧
          q.sys.tsave = w.frame &&& 0x01FFFFFFFFFFFFC0 ∧ q.pre = some { frame := w.frame, restore := true, seq := f.seq } ∧
          q.g = [] ∧ q.cnt = {} ∧ q.id = p.id ∧ q.width = p.width ∧ q.allot = p.allot ∧ q.occ = p.occ ∧ q.mask = p.occ ∧ q.stack = p.stack ∧
          q.lastIssue = c.cycle ∧
          ∀ l, l < p.width → (q.lane l).item = (p.lane l).item ∧ (q.lane l).p = 0 ∧ ∀ r, (q.lane l).reg r = {}) ∧
      (∀ cause val flt, p.status = .stopped cause val flt none → cause < 256 → p.priv = 0 → tvec w.ctx ≠ 0 →
        ∃ t, exec (.restoreEntry core n slot) s = .next t ∧ left t gone ∧
          t.pack? core slot = some (traps { p with
            status := .running, lastIssue := c.cycle
            sys := { p.sys with fltaddr := match flt with | some a => a &&& 0x01FFFFFFFFFFFFFF | none => p.sys.fltaddr } }
            (BitVec.ofNat 64 cause) val f.tl))) ∧
    (∀ core, core < Config.numCores →
      let c := s.core core
      let d := core / 144
      let now := max c.cycle c.left
      let l := rollPoint now (Table.getD s.journals core [])
      let rollback (t : State) (n : Nat) : Prop := exec (.strikeReport [core]) s = .next t ∧ n ≤ 64 ∧
        (t.die d).rollbacks = (s.die d).rollbacks + 1 ∧ (t.die d).errors = (s.die d).errors ++ [.rollback core]
      let held (n : Nat) (p : Pack) : Pack := { p with lastIssue := p.lastIssue + n }
      (l = [] → ∃ t n, rollback t n ∧ t.core core = { c with cycle := now + n } ∧ t.mem = s.mem ∧
        (∀ k, t.pack? core k = (s.pack? core k).map (held n)) ∧ ∀ j k, j ≠ core → t.pack? j k = s.pack? j k) ∧
      (∀ k r, l = k :: r → (∀ e ∈ k.packs, e.1.1 = core) → Memory.wf k.scratch → (∀ e ∈ k.scratch, ofCore core e.1 = true) →
        (∀ g ∈ k.empty, g / 65536 = core) →
        let comes (old : State) : Prop := ∃ t n, rollback t n ∧
          t.core core = { k.core with cycle := now + n, issueCycles := c.issueCycles, left := c.left } ∧
          (∀ j, t.pack? core j = (Table.get? k.packs (core, j)).map (held n)) ∧ (∀ i j, i ≠ core → t.pack? i j = old.pack? i j) ∧
          (∀ a, Memory.read t.mem a = if ofCore core a = true then Memory.read k.scratch a else Memory.read old.mem a) ∧
          ∀ g, g ∈ t.granEmpty ↔ if g / 65536 = core then g ∈ k.empty else g ∈ old.granEmpty
        ((∀ e ∈ l, e.whole = none) → Memory.wf s.mem → comes s) ∧
        (∀ a, l.findSome? (·.whole) = some a → Memory.wf a.mem → comes { s with packs := a.packs, mem := a.mem, granEmpty := a.granEmpty }))) ∧
    (∀ w, 32 * w < Config.hbmSize → exec (.scrubError (.hbm w)) s = .next (logged (homeDie (32 * w)) (.scrub (.hbm w))
      { s with hbmPoison := insertNat s.hbmPoison w, hbmUe := removeNat s.hbmUe w })) ∧
    (∀ g, g < Config.numCores * 65536 → exec (.scrubError (.granule g)) s = .next (logged (g / 65536 / 144) (.scrub (.granule g))
      { s with granPoison := insertNat s.granPoison g, granUe := removeNat s.granUe g, touched := s.touched.granules [(g, 1)] false true })) ∧
    (∀ n, n < 36 → n ∉ s.dev.lostPlanes → exec (.planeLoss n) s = .next (logged 0 (.planeLost n)
      { s with dev := { s.dev with lostPlanes := insertNat s.dev.lostPlanes n } })) ∧
    (∀ n, n ∈ s.dev.ports → exec (.hostPortFailure n) s = .next (logged 0 (.portLost n)
      { s with dev := { s.dev with ports := removeNat s.dev.ports n } })) ∧
    (∀ n, n < 36 → n ∉ s.dev.lostPlanes →
      let failed := Table.getD s.dev.retries n 0
      (failed < 16 → exec (.flitCrcError n) s = .next (idle { s with dev := { s.dev with retries := Table.set s.dev.retries n (failed + 1) } })) ∧
      (16 ≤ failed → exec (.flitCrcError n) s = .next (logged 0 (.planeLost n)
        { s with dev := { s.dev with retries := Table.del s.dev.retries n, lostPlanes := insertNat s.dev.lostPlanes n } })))

/-- R333-R340, R343-R345, R176, R319: SNAPT and WHISTLE_PIN raise the Whistle, and SNAPT then writes the trigger's number; SNAPSHOT_LATCH has the
dies latch it in turn, each logging its record and its cores' entries where the log has room; SNAPSHOT_COPY_ON_WRITE stages a block's old
contents, SNAPSHOT_SWEEP takes its bytes at the cut to the safe tier, SNAPSHOT_COMPLETE counts the end, SNAPSHOT_LOG_DRAIN makes room;
POWER_ON_RESET, FIRMWARE_IMAGE_LOAD, ENTER_FULL_SERVICE, THROTTLE and THERMAL_TRIP; what PEER_ACCESS does; what GET_VERSION,
GET_CAPABILITIES, NEGOTIATE_ALGORITHMS, GET_DIGESTS, GET_CERTIFICATE, CHALLENGE and GET_MEASUREMENTS are answered; that the BAR reads zero in
Boot and where nothing is assigned. That HBM and the scratchpads read zero after POWER_ON_RESET is LOG 3, that what the spec gives no reset value
reads zero LOG 8, that host and peers' memory stay LOG 37. The traffic that joins a die's counts at a latch is free where something may have moved data since its last one (LOG 5, 15), and so are the answers' contents
(LOG 14); the safe tier's layout and a snapshot that a lost port breaks are LOG 15, the ports' modes LOG 47, the service after a failed image
LOG 37, the clock and power steps' order among events LOG 1, the die that a peer's access meets LOG 46. -/
def Obligations.SnapshotsAndService : Prop :=
  (∀ s : State, Memory.wf s.mem → ∃ m, exec .powerOnReset s = .next { State.reset with agenda := s.agenda, free := s.free, fresh := s.fresh, mem := m } ∧
    ∀ a, Memory.read m a = if 2 ^ 50 ≤ a ∧ a < 2 ^ 52 then Memory.read s.mem a else 0) ∧
  ∀ s : State, s.dev.tripped = false →
    let d := s.dev
    let now (x : Device) : State := { s with dev := x, cur := none }
    let logs (e : LogEntry) (x : Device) : State := { s.setDie 0 { s.die 0 with errors := (s.die 0).errors ++ [e] } with dev := x, cur := none }
    let seq := d.seq % (2 ^ 63 - 1) + 1
    let raised (tag : BitVec 32) (mem : Bool) (source : BitVec 2) (issuer : Word) : Device :=
      { d with
        seq
        triggers := d.triggers ++
          [{ seq, tag, mem := if mem = false then 0 else if d.snapshot.isSome then 2 else 1, source, issuer, latched := [] }]
        snapshot := if mem = true ∧ d.snapshot = none then
            some { seq, cut := [], staged := [], streamed := [], next := 0, failed := false }
          else d.snapshot }
    (∀ (k : Nat × Nat) (p : Pack) (o : Opnd), s.cur = some k → s.curPack? = some p → p.priv ≠ 0 ∨ (s.ctx p.id.ctx).snapok = true →
      let a := p.readG o.a.toNat
      let refused := a.getLsbD 32 = true ∧ d.snapshot.isSome = true
      (∀ x, p.raised = some x → WritesD s p o (.snapt o) (BitVec.ofNat 64 x)) ∧
      (p.raised = none → p.sys.rgnpc = 0 → exec (.snapt o) s =
        .next { s.after { p with prog := { p.prog with
            begun := some (.snapt o)
            wait := some { why := .latch (if refused then seq + 2 ^ 63 else seq) (k.1 / 144), instr := .snapt o } } } with
          dev := raised (a.setWidth 32) (a.getLsbD 32) 0 (packId k.1 k.2 p.width) })) ∧
    (d.service = .full → exec .whistlePin s = .next (now (raised 0 false 2 0))) ∧
    (∀ t rest n, d.triggers = t :: rest → n < 4 → n ∉ t.latched → (∀ j, j < n → j ∈ t.latched) →
      let done (x : Device) : Device :=
        { x with
          triggers := if t.latched.length = 3 then rest else { t with latched := t.latched ++ [n] } :: rest
          snapshot := d.snapshot.map fun q => if t.mem = 1 ∧ q.seq = t.seq then { q with cut := q.cut ++ [n] } else q }
      let room := d.logSize ≠ 0 ∧ d.logPosted - d.logFreed + 2368 ≤ d.logSize
      let grows (count by_ : Nat) : Prop := by_ = 0 ∨ count + by_ < 2 ^ 64
      ∃ rd wr zf : Nat,
        (s.acts ≤ (s.die n).counted → rd = 0 ∧ wr = 0 ∧ zf = 0) ∧ (n ≠ 0 → zf = 0) ∧
        grows (s.die n).hbmRd rd ∧ grows (s.die n).hbmWr wr ∧ grows d.zflits zf ∧
        let die : Die := { s.die n with hbmRd := (s.die n).hbmRd + rd, hbmWr := (s.die n).hbmWr + wr, counted := s.acts }
        let latched (x : Device) : State := { (s.setDie n die) with dev := done { x with zflits := d.zflits + zf }, free := s.free + 3, cur := none }
        (¬ room → exec (.snapshotLatch n) s = .next (latched d)) ∧
        (Memory.wf s.mem → room → 2 ^ 50 ≤ d.logBase → ∃ u, exec (.snapshotLatch n) s = .next u ∧
          u = { latched { d with logPosted := d.logPosted + 2368 } with mem := u.mem, touched := u.touched, hbmPoison := u.hbmPoison, hbmUe := u.hbmUe } ∧
          let bytes := leBytes 64 (dieRecord die n t (d.zflits + zf)).toNat ++
            (List.range 144).flatMap fun c => leBytes 16 (coreEntry s (n * 144 + c))
          ∀ a, Memory.read u.mem a =
            let i := (a - d.logBase + d.logSize - d.logPosted % d.logSize) % d.logSize
            if d.logBase ≤ a ∧ a < d.logBase + d.logSize ∧ i < 2368 then bytes.getD i 0 else Memory.read s.mem a)) ∧
    (∀ (x : Die) (n : Nat) (t : Trigger) (zf i : Nat), t.seq < 2 ^ 63 → n < 4 → i < 512 →
      let field (lo len v : Nat) : Prop := lo ≤ i → i < lo + len → (dieRecord x n t zf).getLsbD i = v.testBit (i - lo)
      field 0 22 t.issuer.toNat ∧ field 66 2 n ∧ field 68 2 t.source.toNat ∧ field 70 2 t.mem.toNat ∧ field 96 32 t.tag.toNat ∧
        field 128 64 t.seq ∧ field 192 32 x.rollbacks ∧ field 224 32 x.errors.length ∧ field 256 64 (if n = 0 then zf else 0) ∧
        field 320 64 x.hbmWr ∧ field 384 64 x.hbmRd ∧ field 448 64 x.dcycle) ∧
    (∀ (n : Snapshot) (b : Nat), d.snapshot = some n →
      (b < numBlocks → exec (.snapshotCopyOnWrite b) s = .next (now { d with snapshot := some { n with
        staged := n.staged ++ ((List.range 4).filter fun h => mustStage n b h &&
          decide ((n.staged.filter fun e => e.1.2 == h).length < 131072)).map fun h => ((b, h), blockPart s.mem b h) } })) ∧
      (∀ (keys : List (Nat × Nat)) (old : Nat × Nat → Memory), 4 ≤ n.cut.length → keys.Nodup → (∀ k, Memory.wf (old k)) → Memory.wf s.mem →
        n.staged = keys.map (fun k => (k, blockPart (old k) k.1 k.2)) → b < numBlocks →
        (match keys with | [] => n.next ≤ b ∧ b ∉ n.streamed ∧ ∀ j, n.next ≤ j → j < b → j ∈ n.streamed | k :: _ => k.1 = b) →
        ∃ next streamed,
          let n' : Snapshot := { n with next, streamed, staged := n.staged.filter fun e => e.1.1 != b }
          (∀ j, (n.next ≤ j ∧ j ∉ n.streamed ∧ j ≠ b) ↔ (next ≤ j ∧ j ∉ streamed)) ∧
          (tierKey d b = none → exec .snapshotSweep s = .next (now { d with snapshot := some { n' with failed := true } })) ∧
          ∀ k, tierKey d b = some k → 2 ^ 50 ≤ k →
            ∃ u, exec .snapshotSweep s = .next u ∧
              u = { now { d with snapshot := some n', tierWhole := if d.tierWhole.any (inTier k) then none else d.tierWhole } with mem := u.mem, touched := u.touched, hbmPoison := u.hbmPoison, hbmUe := u.hbmUe } ∧
              ∀ a, Memory.read u.mem a =
                let x := b * 65536 + (a - k)
                if k ≤ a ∧ a < k + 65536 then
                  if (b, homeDie x) ∈ keys then Memory.read (old (b, homeDie x)) x else Memory.read s.mem x
                else Memory.read s.mem a) ∧
      (n.staged = [] → (∀ j, n.next ≤ j → j < numBlocks → j ∈ n.streamed) →
        let ended := now { d with snapshot := none, tierWhole := if n.failed = true then d.tierWhole else some (d.tier0, d.tier1) }
        (d.snapDone = 0 → exec .snapshotComplete s = .next ended) ∧
        (Memory.wf s.mem → d.triggers = [] → 2 ^ 50 ≤ canonPa d d.snapDone → d.snapDone < 2 ^ 52 → d.snapDone % 16 = 0 → frameValid d d.snapDone = true →
          ∃ u, exec .snapshotComplete s = .next u ∧ u = { ended with mem := u.mem, hbmPoison := u.hbmPoison, hbmUe := u.hbmUe } ∧
            Counted s u (canonPa d d.snapDone) (if n.failed = true then some (1, 0) else none)))) ∧
    (∀ n, exec (.snapshotLogDrain n) s = .next (now { d with logFreed := min d.logPosted (d.logFreed + 2368 * n) })) ∧
    (let x : Device := if d.service = .boot then { d with ports := [0, 1], cxl := [0, 1].filter Config.portIsCxl } else d
     ∀ digest, exec (.firmwareImageLoad true digest) s = .next (now { x with
        service := if d.service = .boot then .reduced else d.service
        firmware := digest, domain := Config.deviceDomain % 64, index := Config.deviceIndex % 144 }) ∧
      exec (.firmwareImageLoad false digest) s = .next (logs .imageRejected { x with service := .failed, mhz := 470 })) ∧
    (∀ off, d.service = .boot ∨ 0x1000 ≤ off ∧ off < 0x10000 ∨ 0x28000 ≤ off ∧ off < 0x40000 ∨ 0x41000 ≤ off ∧ off < 0x80000 ∨ 0x81000 ≤ off →
      s.barRead off = 0) ∧
    (d.service = .reduced →
      exec (.enterFullService false) s = .next (logs .selfTest { d with service := .failed }) ∧
      (Memory.wf s.mem → s.Calm → ∃ u, exec (.enterFullService true) s = .next u ∧
        u = { now { d with service := .full, mhz := 940 } with mem := u.mem, touched := u.touched, granEmpty := [], granPoison := [], granUe := [] } ∧
        ∀ a, Memory.read u.mem a = if 2 ^ 52 ≤ a ∧ a < 2 ^ 52 + 576 * 2 ^ 20 then 0 else Memory.read s.mem a)) ∧
    (d.service = .full → ∀ lower, exec (.throttle lower) s = .next (now { d with
      mhz := if lower = true then max 470 (d.mhz - 47) else min 940 (d.mhz + 47) })) ∧
    exec .thermalTrip s = .next (logs .thermalTrip { d with tripped := true }) ∧
    (∀ (peer loc size : Nat) (data cmp : Word), d.service = .full → s.Calm → Memory.wf s.mem → peer < 144 → peer ≠ d.index → loc < Config.hbmMappable →
      let access (op : PeerOp) : Instr := .peerAccess ⟨peer, loc⟩ op data cmp size
      (d.cutOff peer = true → ∀ op, exec (access op) s = .next (now d)) ∧
      (d.cutOff peer = false →
        let old := leNat ((List.range size).map fun j => Memory.read s.mem (loc + j))
        let x := data.toNat % 256 ^ size
        let wrote (u : State) : Prop := u = { now d with mem := u.mem, hbmPoison := u.hbmPoison, hbmUe := u.hbmUe }
        let stores (op : PeerOp) (v : Nat) : Prop := ∃ u, exec (access op) s = .next u ∧ Stored s u loc (leBytes size v) ∧ wrote u
        let int (signed : Bool) (v : Nat) : Int := if signed = true ∧ 256 ^ size ≤ 2 * v then v - 256 ^ size else v
        (size ∈ [1, 2, 4, 8] → loc % size = 0 → exec (access .read) s = .next (now d) ∧ stores .write x) ∧
        (size ∈ [4, 8] → loc % size = 0 →
          stores .swap x ∧ stores .add (old + x) ∧ stores .and (old &&& x) ∧ stores .or (old ||| x) ∧ stores .xor (old ^^^ x) ∧
          (∀ b, stores (.min b) (if int b x < int b old then x else old) ∧ stores (.max b) (if int b old < int b x then x else old)) ∧
          (old = cmp.toNat % 256 ^ size → stores .cas x) ∧ (old ≠ cmp.toNat % 256 ^ size → exec (access .cas) s = .next (now d)) ∧
          (size = 4 → stores .addF ((fmtOf 8).add 0 old x) ∧ stores .minF ((fmtOf 8).pick false old x) ∧
            stores .maxF ((fmtOf 8).pick true old x))) ∧
        (∀ bs poisoned, bs ≠ [] → loc % 4096 + bs.length ≤ 4096 → ∃ u, exec (access (.writeBytes bs poisoned)) s = .next u ∧
          Stored s u loc bs ∧ wrote u ∧ ∀ w,
            let within (j : Nat) : Prop := loc ≤ 32 * w + j ∧ 32 * w + j < loc + bs.length
            (w ∈ u.hbmPoison ↔ (w ∈ s.hbmPoison ∧ ∃ j, j < 32 ∧ ¬ within j) ∨ (poisoned = true ∧ ∃ j, j < 32 ∧ within j))) ∧
        (loc % 16 = 0 →
          let obj (t : State) : GuardObj := parseGuard (leNat ((List.range 16).map fun j => Memory.read t.mem (loc + j)))
          let g := obj s
          (∀ who excl,
            let q : List GuardReq := Table.getD s.guardQ loc [] ++ [{ core := 576 + peer, slot := who, uid := 0, excl, addr := 0 }]
            exec (access (.acquire who excl)) s = .next { now d with guardQ := Table.set s.guardQ loc q }) ∧
          ∀ who, ∃ u, exec (access (.release who)) s = .next u ∧ u = { now d with mem := u.mem } ∧
            (∀ a, a < loc ∨ loc + 16 ≤ a → Memory.read u.mem a = Memory.read s.mem a) ∧
            obj u = if g.excl then { g with excl := false, owner := 0, epoch := (g.epoch + 1) % 2 ^ 32 }
              else { g with shared := (g.shared + 2 ^ 32 - 1) % 2 ^ 32, epoch := (g.epoch + 1) % 2 ^ 32 }))) ∧
    (d.service ≠ .boot →
      let answers (i : Instr) (a : Answer) : Prop := exec i s = .next (now { d with answers := d.answers ++ [a] })
      answers .getVersion (.version 1 3) ∧ answers .getCapabilities (.capabilities false) ∧
      answers .negotiateAlgorithms (.algorithms "RSASSA-3072" "SHA-256") ∧ answers .getDigests (.digests Config.certDigest) ∧
      answers .getCertificate (.certificate Config.certChain) ∧
      (∀ nonce, answers (.challenge nonce) (.challenge (Config.challengeSignature nonce))) ∧
      answers .getMeasurements (.measurements Config.bootRomDigest d.firmware Config.fuseDigest))

/-- R340-R342, R178, R236, R252, R275, R276, R281, R288, R304, R305, R309, R310, R314, R335, R339: what CREATE, DESTROY, PLACE, PREEMPT, RESTORE,
FAULTANS, CANCEL, WHISTLE, SNAPSET, CTIMEOUT, BUDGET and MEMRESTORE do once they are accepted, that INVALID_COMMAND and any invalid command
change nothing, what MGMT_WRITE_DISCARDED counts, and what a completion record counts. DESTROY ends what is the context's, and leaves the
launches, frames, collectives, sequences, graphs, queues, records, translations, windows, held stores and tiles of the others. Which check goes
first, the DETAIL of each and a PLACE that changes nothing are LOG 40; the fields of BUDGET LOG 24; the safe tier LOG 15; where a frame, an
image and a handle table stand LOG 11, 12, 25; the bar's windows LOG 47; that a snapshot's copies wait, and that a command meets dies that have
latched a trigger, LOG 46; the graph instances of others that DESTROY lets go on LOG 33, 45; the turn of a command LOG 1. A CANCEL comes after
what is held on its sequence (R265). -/
def Obligations.ManagementCommands : Prop :=
  ∀ (s : State) (c : Command), s.dev.tripped = false → s.dev.service ≠ .boot → Memory.wf s.mem →
    (∀ t, s.dev.triggers.head? = some t → t.latched = []) →
    let n := c.ctx.toNat
    let d := s.dev
    let x := s.ctx n
    let known := ∃ e ∈ s.ctxs, e.1 = n
    -- every collective whose group record can be read has its number (R252)
    let numbered : Prop := ∀ m ∈ s.colls, (m.tag.isSome = true ∧ m.nth ≠ 0) ∨ (m.tag = none ∧ m.head.result.isSome = true)
    let idle (t : State) : State := { t with cur := none }
    let does (i : Instr) (t : State) : Prop := exec i s = .next (idle t)
    let all : List ((Command → Instr) × Bool × Bool) :=
      [(.create, false, false), (.destroy, false, true), (.place, false, true), (.preempt, false, true), (.restore, false, true),
        (.faultans, false, true), (.cancel, false, true), (.whistle, false, false), (.snapset, true, false), (.ctimeout, true, false),
        (.budget, true, false), (.memrestore, false, false)]
    let at_ := canonPa d c.done
    let recorded := 2 ^ 50 ≤ at_ ∧ c.done < 2 ^ 52 ∧ c.done % 16 = 0 ∧ frameValid d c.done = true ∧ d.triggers = []
    (∀ e ∈ all, ∀ m, turnedAway c s e.2.1 e.2.2 = some m →
      (c.done = 0 ∨ c.done % 16 ≠ 0 → does (e.1 c) s) ∧
      (recorded → ∃ u, exec (e.1 c) s = .next u ∧ u = { idle s with mem := u.mem, hbmPoison := u.hbmPoison, hbmUe := u.hbmUe } ∧
        Counted s u at_ (some (1, m)))) ∧
    (recorded → c.reserved = false → d.snapshot = none → s.scHeldOn c.op1.toNat = false → ∀ e ∈ all, turnedAway c s e.2.1 e.2.2 = none → (∀ b, e.1 b ≠ .snapset b) →
      ∃ u v r, exec (e.1 { c with done := 0 }) s = .next u ∧ exec (e.1 c) s = .next v ∧
        v = { u with mem := v.mem, hbmPoison := v.hbmPoison, hbmUe := v.hbmUe } ∧ (r = none ∨ ∃ m, r = some (1, m)) ∧ Counted u v at_ r) ∧
    (∀ code : Byte, 1 ≤ code.toNat ∧ code.toNat ≤ 12 → exec (.invalidCommand code c) s = .next s) ∧
    (c.done = 0 → ∀ code : Byte, code.toNat = 0 ∨ 12 < code.toNat → does (.invalidCommand code c) s) ∧
    (∀ off, off < 2 ^ 26 → 0x1000 ≤ off → off < 0x10000 ∨ 0x28000 ≤ off → off < 0x40000 ∨ 0x41000 ≤ off → off < 0x80000 ∨ 0x81000 ≤ off →
      does (.mgmtWriteDiscarded off) { s with dev := { d with discarded := d.discarded + 1 } }) ∧
    (c.done = 0 → c.reserved = false →
      (let half := 384 * 2 ^ 30
       let base := c.op3.toNat / 65536 * 65536
       let size := c.op3.toNat % 65536 * 2368
       let bad := 2 ^ 49 < c.op1.toNat + half ∨ 2 ^ 49 < c.op2.toNat + half ∨ 2 ^ 49 < base + size
       (bad ∨ d.snapshot ≠ none → does (.snapset c) s) ∧
       (¬ bad → d.snapshot = none → does (.snapset c) { s with dev := { d with
         tier0 := 2 ^ 50 + c.op1.toNat, tier1 := 2 ^ 50 + c.op2.toNat, logBase := 2 ^ 50 + base % 2 ^ 49, logSize := size, logPosted := 0,
         logFreed := 0, snapDone := 0 } })) ∧
      (let ok := 2 ^ 20 ≤ c.op1.toNat ∧ c.op1.toNat ≤ 2 ^ 40
       (¬ ok → does (.ctimeout c) s) ∧ (ok → does (.ctimeout c) { s with dev := { d with ctimeout := c.op1.toNat } })) ∧
      (let cores := c.op2.toNat % 2 ^ 16
       let share := c.op2.toNat / 2 ^ 16
       let ok := c.firmware = true ∧ c.op1.toNat ≤ 15 ∧ cores ≤ 576 ∧ 1 ≤ share ∧ share ≤ 256
       (¬ ok → does (.budget c) s) ∧ (ok → does (.budget c) { s with dev := { d with
         budgets := Table.set d.budgets c.op1.toNat { cores, share, watts := c.op3.toNat } } })) ∧
      (d.service = .full →
        (let pa := c.op1.toNat
         let r := leNat ((List.range 128).map fun j => Memory.read s.mem (canonPa d pa + j))
         let y := parseContext r
         let ok := ¬ known ∧ pa % 128 = 0 ∧ pa < 2 ^ 52 ∧ frameValid d pa = true ∧ descOk s r = true
         (¬ ok → does (.create c) s) ∧
         (ok → s.Calm → ∃ u, exec (.create c) s = .next u ∧ u = { idle (s.setCtx n y) with mem := u.mem, touched := u.touched } ∧
           match residentKey (startW (s.setCtx n y) noWho (.nop {})) n 0 (y.htab.toNat + 64) with
           | some k => ∀ a, Memory.read u.mem a = if k ≤ a ∧ a < k + 4032 then 0 else Memory.read s.mem a
           | none => u.mem = s.mem)) ∧
        does (.whistle c) { s with dev := { d with
          seq := d.seq % (2 ^ 63 - 1) + 1
          triggers := d.triggers ++ [{ seq := d.seq % (2 ^ 63 - 1) + 1, tag := c.op1.setWidth 32, source := 1, issuer := 0, latched := []
                                       mem := if c.op1.getLsbD 32 = false then 0 else if d.snapshot.isSome then 2 else 1 }]
          snapshot := if c.op1.getLsbD 32 = true ∧ d.snapshot = none then
              some { seq := d.seq % (2 ^ 63 - 1) + 1, cut := [], staged := [], streamed := [], next := 0, failed := false }
            else d.snapshot } } ∧
        (let busy := s.ctxs ≠ [] ∨ d.snapshot ≠ none
         (busy ∨ d.tierWhole = none → does (.memrestore c) s) ∧
         (∀ t0 t1, ¬ busy → d.tierWhole = some (t0, t1) → 2 ^ 50 ≤ t0 → 2 ^ 50 ≤ t1 →
           let kept (l : List Nat) : List Nat := l.filter fun w => decide (Config.hbmMappable ≤ 32 * w)
           ∃ u, exec (.memrestore c) s = .next u ∧ u = { idle s with mem := u.mem, hbmPoison := kept s.hbmPoison, hbmUe := kept s.hbmUe } ∧
             ∀ a, Memory.read u.mem a = if a < Config.hbmMappable then
                 Memory.read s.mem ((if a / 65536 % 2 = 0 then t0 else t1) + a / 65536 / 2 * 65536 + a % 65536)
               else Memory.read s.mem a)) ∧
        (known →
          ((∀ e ∈ s.launches, e.2.task.ctx = n → e.2.task.done = 0) → (∀ e ∈ s.dies, ∀ g ∈ e.2.graphs, g.ctx = n → g.doneAt = 0) →
            (∀ e ∈ s.dies, ∀ g ∈ e.2.graphs, g.ctx ≠ n → g.pending = []) → numbered →
            (∀ e ∈ s.launches, e.2.task.ctx = n → ∀ r, e.2.node = some r → ∀ g ∈ (s.die r.die).graphs, g.id = r.inst → g.ctx = n) →
            let others {α : Type} (ctx : α → Nat) (new old : List α) : Prop := ∀ e, e ∈ new ↔ e ∈ old ∧ ctx e ≠ n
            let mine (p : Pack) : Prop := p.id.ctx = n
            ∃ u, exec (.destroy c) s = .next u ∧ u.cur = none ∧ u.dev = d ∧ Table.get? u.ctxs n = none ∧ (∀ j, j ≠ n → u.ctx j = s.ctx j) ∧
              (∀ e ∈ u.packs, ¬ mine e.2) ∧
              (∀ core slot p, s.pack? core slot = some p → ¬ mine p →
                (u.pack? core slot).map (fun q => { q with prog := {} }) = some { p with prog := {} }) ∧
              others (·.2.task.ctx) u.launches s.launches ∧ others (·.2.id.ctx) u.resumes s.resumes ∧
              others (·.2.ctx) u.frames s.frames ∧ others (·.head.ctx) u.colls s.colls ∧
              (∀ loc r, r ∈ Table.getD u.guardQ loc [] ↔ r ∈ Table.getD s.guardQ loc [] ∧ ∀ e ∈ s.packs, mine e.2 → e.2.id.uid ≠ r.uid) ∧
              (∀ k, others (·.head.ctx) (u.die k).scq (s.die k).scq ∧ others (·.ctx) (u.die k).graphs (s.die k).graphs ∧
                (((s.die k).seqs.map (·.1)).Nodup → others (·.2.ctx) (u.die k).seqs (s.die k).seqs)) ∧
              (∀ k, others (·.head.ctx) (u.cluster k).cpq (s.cluster k).cpq ∧ others (·.head.ctx) (u.cluster k).gtq (s.cluster k).gtq ∧
                others (·.ctx) (u.cluster k).tlb (s.cluster k).tlb ∧ others (·.q.ctx) (u.cluster k).taken (s.cluster k).taken ∧
                others (·.ctx) (u.cluster k).walks (s.cluster k).walks ∧ others (·.ctx) (u.cluster k).queued (s.cluster k).queued ∧
                ∀ b, others (·.ctx) (u.bank k b).recs (s.bank k b).recs ∧ others (·.ctx) (u.bank k b).spilled (s.bank k b).spilled) ∧
              (∀ core,
                let x := u.core core
                let y := s.core core
                (∀ j, Table.get? x.wins j = if j = n then none else Table.get? y.wins j) ∧ others (·.ctx) x.heel y.heel ∧
                others (·.head.ctx) x.mxq y.mxq ∧ others (·.ctx) x.tlb y.tlb ∧ others (·.ctx) x.misses y.misses ∧
                others (·.ctx) x.waiting y.waiting ∧ others (·.id.ctx) x.saved y.saved ∧
                (∀ e, e ∈ x.growing ↔ e ∈ y.growing ∧ ∀ f ∈ s.packs, mine f.2 → f.1 ≠ (core, e.1)) ∧
                ∀ t, (getAt {} x.tiles t : Tile) = if (getAt {} y.tiles t : Tile).owner = some n then {} else getAt {} y.tiles t) ∧
              ∀ a, let mine := ∃ core w, Table.get? (s.core core).wins n = some w ∧ scratchKey core w.base ≤ a ∧
                    a < scratchKey core w.base + w.size
                (mine → Memory.read u.mem a = 0) ∧ (¬ mine → Memory.read u.mem a = Memory.read s.mem a)) ∧
          (let core := c.op1.toNat
           let w : Window := { base := 4096 * bits c.op2.toNat 8 0, size := 4096 * bits c.op2.toNat 24 16 }
           let tiles := (List.range 4).filter fun t => c.op2.getLsbD (32 + t)
           let src := if c.op3.getLsbD 10 = true then some (c.op3.toNat % 1024) else none
           let old := s.core core
           (placeError s n core w tiles src ≠ none → does (.place c) s) ∧
           let stays := s.occupies n core = true ∧ s.samePlace n core w = true
           (placeError s n core w tiles src = none → stays → ∃ u tl, exec (.place c) s = .next u ∧
             u = { s with cores := u.cores, cur := none } ∧ (∀ j, j ≠ core → u.core j = s.core j) ∧ u.core core = { old with tiles := tl } ∧
             ∀ t, getAt {} tl t = if t ∈ tiles ∧ (getAt {} old.tiles t : Tile).owner ≠ some n then ({ owner := some n } : Tile)
               else getAt {} old.tiles t) ∧
           (placeError s n core w tiles src = none → ¬ stays → ∃ u wins tl, exec (.place c) s = .next u ∧
             u = { idle (s.setCore core { old with wins, tiles := tl }) with
               mem := u.mem, touched := u.touched, granEmpty := u.granEmpty, granPoison := u.granPoison, granUe := u.granUe } ∧
             (∀ j, Table.get? wins j = if j = n then (if w.size = 0 then none else some w) else Table.get? old.wins j) ∧
             (∀ t, getAt {} tl t = if w.size ≠ 0 ∧ t ∈ tiles then ({ owner := some n } : Tile)
               else if (getAt {} old.tiles t : Tile).owner = some n then {} else getAt {} old.tiles t) ∧
             (∀ a, let within (v : Window) : Prop := scratchKey core v.base ≤ a ∧ a < scratchKey core v.base + v.size
               let mine := within w ∨ ∃ v, Table.get? old.wins n = some v ∧ within v
               (mine → Memory.read u.mem a = 0) ∧ (¬ mine → Memory.read u.mem a = Memory.read s.mem a)) ∧
             ∀ g, let within (v : Window) : Prop := core * 65536 + v.base / 16 ≤ g ∧ g < core * 65536 + (v.base + v.size) / 16
               let mine := within w ∨ ∃ v, Table.get? old.wins n = some v ∧ within v
               let i := g - (core * 65536 + w.base / 16)
               (g ∈ u.granUe ↔ g ∈ s.granUe ∧ ¬ mine) ∧
               (∀ k img W, src = some k → within w →
                 i < min w.size (((Table.get? x.imageWins k).map (·.size)).getD 0) / 16 →
                 loadResident n core (x.spill.toNat + 16384 * k) 16384 (startW u noWho (.nop {})) = .ok img W →
                 (g ∈ u.granEmpty ↔ bit img (2 * i) = false) ∧ (g ∈ u.granPoison ↔ bit img (2 * i + 1) = true)) ∧
               (¬ within w ∨ (∀ k, src = some k → min w.size (((Table.get? x.imageWins k).map (·.size)).getD 0) / 16 ≤ i) →
                 (g ∈ u.granEmpty ↔ g ∈ s.granEmpty ∧ ¬ mine) ∧ (g ∈ u.granPoison ↔ g ∈ s.granPoison ∧ ¬ mine)))) ∧
          (x.pre ≠ .none → does (.preempt c) s) ∧
          (x.pre = .none →
            let asked (p : Pack) : Pack := { p with preReq := some c.op1.toNat }
            let blocked (p : Pack) : Prop := p.id.ctx = n ∧ (asked p).takesPre = true
            (s.packs.map (·.1)).Nodup → ∃ u, exec (.preempt c) s = .next u ∧
              u = { s.setCtx n { x with pre := .requested c.op1.toNat } with packs := u.packs, cores := u.cores, guardQ := u.guardQ, cur := none } ∧
              (∀ core slot p, s.pack? core slot = some p →
                (p.id.ctx ≠ n → u.pack? core slot = some p) ∧
                (p.id.ctx = n → ¬ blocked p → u.pack? core slot = some (asked p)) ∧
                (blocked p → u.pack? core slot = some { asked p with prog := { p.prog with wait := none } })) ∧
              (∀ core, u.core core = { s.core core with growing := (u.core core).growing, repacks := (u.core core).repacks } ∧
                ∀ e, e ∈ (u.core core).growing ↔ e ∈ (s.core core).growing ∧ ∀ p, s.pack? core e.1 = some p → ¬ blocked p) ∧
              ∀ loc r, r ∈ Table.getD u.guardQ loc [] ↔ r ∈ Table.getD s.guardQ loc [] ∧ ∀ f ∈ s.packs, blocked f.2 → f.2.id.uid ≠ r.uid) ∧
          (let core := c.op2.toNat
           let frame := c.op1
           let bad := frame ≠ 0 ∧ (576 ≤ core ∨ Table.get? (s.core core).wins n = none ∨ Table.get? s.frames (n, frame) = none ∨
             s.restoring n frame = true)
           let waits := ∃ r ∈ x.fqWaiting, r.extractLsb' 192 4 = 2
           ((∃ q, x.pre = .requested q) ∨ waits ∨ bad → does (.restore c) s) ∧
           ((∀ q, x.pre ≠ .requested q) → ¬ waits → ¬ bad →
             ∃ u, exec (.restore c) s = .next u ∧ u = { s with ctxs := u.ctxs, cores := u.cores, cur := none } ∧
               u.ctx n = { x with pre := .none } ∧ (∀ j, j ≠ n → u.ctx j = s.ctx j) ∧
               ∀ k, u.core k = { s.core k with
                 heelStop := if x.pre ≠ .none ∧ Table.get? (s.core k).heelStop n = some none then Table.del (s.core k).heelStop n
                   else (s.core k).heelStop
                 waiting := if frame ≠ 0 ∧ k = core then (s.core k).waiting ++ [{ ctx := n, frame }] else (s.core k).waiting })) ∧
          (match scFind s n c.op1.toNat with
           | none => does (.cancel c) s
           | some _ => does (.cancel c) (if s.scHeldOn c.op1.toNat = true then s else
             s.setDie (scDie c.op1.toNat) ((s.die (scDie c.op1.toNat)).modSeq (scSlot c.op1.toNat) fun q => { q with cancel := true }))) ∧
          match x.faults.find? fun f => f.1 % 2 ^ 32 == c.op1.toNat && f.2.answer.isNone with
          | none => does (.faultans c) s
          | some (seq, f) =>
            let kept (a : Bool) : State := s.setCtx n { x with faults := Table.set x.faults seq { f with answer := some a } }
            (1 < c.op2.toNat → does (.faultans c) s) ∧
            (∀ a core slot uid, c.op2 = (if a = true then 0 else 1) → f.src = .pack core slot uid →
              does (.faultans c) { kept a with packs := s.packs.map fun e => if e.2.id.ctx = n then (e.1, e.2.answer seq a) else e }) ∧
            (∀ a core cause va, c.op2 = (if a = true then 0 else 1) → f.src = .heel core cause va →
              let y := s.core core
              (Table.get? y.heelStop n ≠ some (some seq) → does (.faultans c) (kept a)) ∧
              (Table.get? y.heelStop n = some (some seq) → a = true →
                does (.faultans c) ((kept a).setCore core { y with heelStop := Table.del y.heelStop n })) ∧
              (Table.get? y.heelStop n = some (some seq) → a = false → x.fqWaiting = [] → x.fqPosted < x.fqFreed + x.fqSize → s.Calm →
                ∃ u, exec (.faultans c) s = .next u ∧
                  Stored s u (canonPa d (x.fqBase + 32 * (x.fqPosted % x.fqSize))) (leBytes 32 (contextRecord 1 x.fqSeq 0 cause n 0 va).toNat) ∧
                  u.core core = { y with heelStop := Table.set y.heelStop n none } ∧
                  u.ctx n = { (kept a).ctx n with fqSeq := x.fqSeq + 1, fqPosted := x.fqPosted + 1 } ∧
                  u = { s with cores := u.cores, ctxs := u.ctxs, mem := u.mem, touched := u.touched, hbmPoison := u.hbmPoison, hbmUe := u.hbmUe, cur := none })) ∧
            (∀ core slot uid, c.op2 = 0 →
              let k := core / 24
              let y := s.cluster k
              let goes (t : State) : Prop := does (.faultans c) t
              (f.src = .engine 2 core slot uid → ∀ j m, heldOp CopyOp.head n seq y.cpq = some (j, m) →
                goes ((kept true).setCluster k { y with cpq := y.cpq.set j { m with head := { m.head with heldOn := none, served := [] } } })) ∧
              (f.src = .engine 3 core slot uid → ∀ j m, heldOp GatherOp.head n seq y.gtq = some (j, m) →
                goes ((kept true).setCluster k { y with gtq := y.gtq.set j { m with head := { m.head with heldOn := none, served := [] } } })) ∧
              (f.src = .engine 4 core slot uid → ∀ j m, heldOp MxOp.head n seq (s.core core).mxq = some (j, m) →
                goes ((kept true).setCore core { s.core core with
                  mxq := (s.core core).mxq.set j { m with head := { m.head with heldOn := none, served := [] } } })) ∧
              (∀ code die y j q, f.src = .engine code core slot uid → code ∉ [2, 3, 4, 5] →
                s.dies.find? (fun d => (heldOp ScOp.head n seq d.2.scq).isSome) = some (die, y) → heldOp ScOp.head n seq y.scq = some (j, q) →
                goes ((kept true).setDie die { y with scq := y.scq.set j { q with head := { q.head with heldOn := none, served := [] } } })) ∧
              (f.src = .engine 5 core slot uid → numbered → ∀ j m, heldOp CollOp.head n seq s.colls = some (j, m) →
                goes { kept true with colls := s.colls.set j { m with head := { m.head with heldOn := none, served := [] } } })))))
end

