-- ==== Sys2Proof/Laws/State.lean ====
section
/-! SUPPORT. What each update of State and of a pack leaves: one lemma per field. -/

namespace Sys2Proof.Machine

/-! ### Updates of State -/

@[simp] theorem State.setPack_agenda (s : State) (c n : Nat) (p : Pack) : (s.setPack c n p).agenda = s.agenda := rfl
@[simp] theorem State.setPack_cur (s : State) (c n : Nat) (p : Pack) : (s.setPack c n p).cur = s.cur := rfl
@[simp] theorem State.setPack_focus (s : State) (c n : Nat) (p : Pack) : (s.setPack c n p).focus = s.focus := rfl
@[simp] theorem State.setPack_evTurn (s : State) (c n : Nat) (p : Pack) : (s.setPack c n p).evTurn = s.evTurn := rfl
@[simp] theorem State.setPack_free (s : State) (c n : Nat) (p : Pack) : (s.setPack c n p).free = s.free := rfl
@[simp] theorem State.setPack_fresh (s : State) (c n : Nat) (p : Pack) : (s.setPack c n p).fresh = s.fresh := rfl
@[simp] theorem State.setPack_races (s : State) (c n : Nat) (p : Pack) : (s.setPack c n p).races = s.races := rfl
@[simp] theorem State.setPack_acts (s : State) (c n : Nat) (p : Pack) : (s.setPack c n p).acts = s.acts := rfl
@[simp] theorem State.setPack_touched (s : State) (c n : Nat) (p : Pack) : (s.setPack c n p).touched = s.touched := rfl
@[simp] theorem State.setPack_ticks (s : State) (c n : Nat) (p : Pack) : (s.setPack c n p).ticks = s.ticks := rfl
@[simp] theorem State.setPack_mem (s : State) (c n : Nat) (p : Pack) : (s.setPack c n p).mem = s.mem := rfl
@[simp] theorem State.setPack_hbmPoison (s : State) (c n : Nat) (p : Pack) : (s.setPack c n p).hbmPoison = s.hbmPoison := rfl
@[simp] theorem State.setPack_hbmUe (s : State) (c n : Nat) (p : Pack) : (s.setPack c n p).hbmUe = s.hbmUe := rfl
@[simp] theorem State.setPack_granEmpty (s : State) (c n : Nat) (p : Pack) : (s.setPack c n p).granEmpty = s.granEmpty := rfl
@[simp] theorem State.setPack_granPoison (s : State) (c n : Nat) (p : Pack) : (s.setPack c n p).granPoison = s.granPoison := rfl
@[simp] theorem State.setPack_granUe (s : State) (c n : Nat) (p : Pack) : (s.setPack c n p).granUe = s.granUe := rfl
@[simp] theorem State.setPack_packs (s : State) (c n : Nat) (p : Pack) : (s.setPack c n p).packs = Table.set s.packs (c, n) p := rfl
@[simp] theorem State.setPack_cores (s : State) (c n : Nat) (p : Pack) : (s.setPack c n p).cores = s.cores := rfl
@[simp] theorem State.setPack_clusters (s : State) (c n : Nat) (p : Pack) : (s.setPack c n p).clusters = s.clusters := rfl
@[simp] theorem State.setPack_dies (s : State) (c n : Nat) (p : Pack) : (s.setPack c n p).dies = s.dies := rfl
@[simp] theorem State.setPack_ctxs (s : State) (c n : Nat) (p : Pack) : (s.setPack c n p).ctxs = s.ctxs := rfl
@[simp] theorem State.setPack_launches (s : State) (c n : Nat) (p : Pack) : (s.setPack c n p).launches = s.launches := rfl
@[simp] theorem State.setPack_resumes (s : State) (c n : Nat) (p : Pack) : (s.setPack c n p).resumes = s.resumes := rfl
@[simp] theorem State.setPack_frames (s : State) (c n : Nat) (p : Pack) : (s.setPack c n p).frames = s.frames := rfl
@[simp] theorem State.setPack_guardQ (s : State) (c n : Nat) (p : Pack) : (s.setPack c n p).guardQ = s.guardQ := rfl
@[simp] theorem State.setPack_colls (s : State) (c n : Nat) (p : Pack) : (s.setPack c n p).colls = s.colls := rfl
@[simp] theorem State.setPack_mismatches (s : State) (c n : Nat) (p : Pack) : (s.setPack c n p).mismatches = s.mismatches := rfl
@[simp] theorem State.setPack_journals (s : State) (c n : Nat) (p : Pack) : (s.setPack c n p).journals = s.journals := rfl
@[simp] theorem State.setPack_dev (s : State) (c n : Nat) (p : Pack) : (s.setPack c n p).dev = s.dev := rfl

@[simp] theorem State.dropPack_agenda (s : State) (c n : Nat) : (s.dropPack c n).agenda = s.agenda := rfl
@[simp] theorem State.dropPack_cur (s : State) (c n : Nat) : (s.dropPack c n).cur = s.cur := rfl
@[simp] theorem State.dropPack_focus (s : State) (c n : Nat) : (s.dropPack c n).focus = s.focus := rfl
@[simp] theorem State.dropPack_evTurn (s : State) (c n : Nat) : (s.dropPack c n).evTurn = s.evTurn := rfl
@[simp] theorem State.dropPack_free (s : State) (c n : Nat) : (s.dropPack c n).free = s.free := rfl
@[simp] theorem State.dropPack_fresh (s : State) (c n : Nat) : (s.dropPack c n).fresh = s.fresh := rfl
@[simp] theorem State.dropPack_races (s : State) (c n : Nat) : (s.dropPack c n).races = s.races := rfl
@[simp] theorem State.dropPack_acts (s : State) (c n : Nat) : (s.dropPack c n).acts = s.acts := rfl
@[simp] theorem State.dropPack_touched (s : State) (c n : Nat) : (s.dropPack c n).touched = s.touched := rfl
@[simp] theorem State.dropPack_ticks (s : State) (c n : Nat) : (s.dropPack c n).ticks = s.ticks := rfl
@[simp] theorem State.dropPack_mem (s : State) (c n : Nat) : (s.dropPack c n).mem = s.mem := rfl
@[simp] theorem State.dropPack_hbmPoison (s : State) (c n : Nat) : (s.dropPack c n).hbmPoison = s.hbmPoison := rfl
@[simp] theorem State.dropPack_hbmUe (s : State) (c n : Nat) : (s.dropPack c n).hbmUe = s.hbmUe := rfl
@[simp] theorem State.dropPack_granEmpty (s : State) (c n : Nat) : (s.dropPack c n).granEmpty = s.granEmpty := rfl
@[simp] theorem State.dropPack_granPoison (s : State) (c n : Nat) : (s.dropPack c n).granPoison = s.granPoison := rfl
@[simp] theorem State.dropPack_granUe (s : State) (c n : Nat) : (s.dropPack c n).granUe = s.granUe := rfl
@[simp] theorem State.dropPack_packs (s : State) (c n : Nat) : (s.dropPack c n).packs = Table.del s.packs (c, n) := rfl
@[simp] theorem State.dropPack_cores (s : State) (c n : Nat) : (s.dropPack c n).cores = s.cores := rfl
@[simp] theorem State.dropPack_clusters (s : State) (c n : Nat) : (s.dropPack c n).clusters = s.clusters := rfl
@[simp] theorem State.dropPack_dies (s : State) (c n : Nat) : (s.dropPack c n).dies = s.dies := rfl
@[simp] theorem State.dropPack_ctxs (s : State) (c n : Nat) : (s.dropPack c n).ctxs = s.ctxs := rfl
@[simp] theorem State.dropPack_launches (s : State) (c n : Nat) : (s.dropPack c n).launches = s.launches := rfl
@[simp] theorem State.dropPack_resumes (s : State) (c n : Nat) : (s.dropPack c n).resumes = s.resumes := rfl
@[simp] theorem State.dropPack_frames (s : State) (c n : Nat) : (s.dropPack c n).frames = s.frames := rfl
@[simp] theorem State.dropPack_guardQ (s : State) (c n : Nat) : (s.dropPack c n).guardQ = s.guardQ := rfl
@[simp] theorem State.dropPack_colls (s : State) (c n : Nat) : (s.dropPack c n).colls = s.colls := rfl
@[simp] theorem State.dropPack_mismatches (s : State) (c n : Nat) : (s.dropPack c n).mismatches = s.mismatches := rfl
@[simp] theorem State.dropPack_journals (s : State) (c n : Nat) : (s.dropPack c n).journals = s.journals := rfl
@[simp] theorem State.dropPack_dev (s : State) (c n : Nat) : (s.dropPack c n).dev = s.dev := rfl

@[simp] theorem State.setCore_agenda (s : State) (c : Nat) (x : Core) : (s.setCore c x).agenda = s.agenda := rfl
@[simp] theorem State.setCore_cur (s : State) (c : Nat) (x : Core) : (s.setCore c x).cur = s.cur := rfl
@[simp] theorem State.setCore_focus (s : State) (c : Nat) (x : Core) : (s.setCore c x).focus = s.focus := rfl
@[simp] theorem State.setCore_evTurn (s : State) (c : Nat) (x : Core) : (s.setCore c x).evTurn = s.evTurn := rfl
@[simp] theorem State.setCore_free (s : State) (c : Nat) (x : Core) : (s.setCore c x).free = s.free := rfl
@[simp] theorem State.setCore_fresh (s : State) (c : Nat) (x : Core) : (s.setCore c x).fresh = s.fresh := rfl
@[simp] theorem State.setCore_races (s : State) (c : Nat) (x : Core) : (s.setCore c x).races = s.races := rfl
@[simp] theorem State.setCore_acts (s : State) (c : Nat) (x : Core) : (s.setCore c x).acts = s.acts := rfl
@[simp] theorem State.setCore_touched (s : State) (c : Nat) (x : Core) : (s.setCore c x).touched = s.touched := rfl
@[simp] theorem State.setCore_ticks (s : State) (c : Nat) (x : Core) : (s.setCore c x).ticks = s.ticks := rfl
@[simp] theorem State.setCore_mem (s : State) (c : Nat) (x : Core) : (s.setCore c x).mem = s.mem := rfl
@[simp] theorem State.setCore_hbmPoison (s : State) (c : Nat) (x : Core) : (s.setCore c x).hbmPoison = s.hbmPoison := rfl
@[simp] theorem State.setCore_hbmUe (s : State) (c : Nat) (x : Core) : (s.setCore c x).hbmUe = s.hbmUe := rfl
@[simp] theorem State.setCore_granEmpty (s : State) (c : Nat) (x : Core) : (s.setCore c x).granEmpty = s.granEmpty := rfl
@[simp] theorem State.setCore_granPoison (s : State) (c : Nat) (x : Core) : (s.setCore c x).granPoison = s.granPoison := rfl
@[simp] theorem State.setCore_granUe (s : State) (c : Nat) (x : Core) : (s.setCore c x).granUe = s.granUe := rfl
@[simp] theorem State.setCore_packs (s : State) (c : Nat) (x : Core) : (s.setCore c x).packs = s.packs := rfl
@[simp] theorem State.setCore_cores (s : State) (c : Nat) (x : Core) : (s.setCore c x).cores = Table.set s.cores c x := rfl
@[simp] theorem State.setCore_clusters (s : State) (c : Nat) (x : Core) : (s.setCore c x).clusters = s.clusters := rfl
@[simp] theorem State.setCore_dies (s : State) (c : Nat) (x : Core) : (s.setCore c x).dies = s.dies := rfl
@[simp] theorem State.setCore_ctxs (s : State) (c : Nat) (x : Core) : (s.setCore c x).ctxs = s.ctxs := rfl
@[simp] theorem State.setCore_launches (s : State) (c : Nat) (x : Core) : (s.setCore c x).launches = s.launches := rfl
@[simp] theorem State.setCore_resumes (s : State) (c : Nat) (x : Core) : (s.setCore c x).resumes = s.resumes := rfl
@[simp] theorem State.setCore_frames (s : State) (c : Nat) (x : Core) : (s.setCore c x).frames = s.frames := rfl
@[simp] theorem State.setCore_guardQ (s : State) (c : Nat) (x : Core) : (s.setCore c x).guardQ = s.guardQ := rfl
@[simp] theorem State.setCore_colls (s : State) (c : Nat) (x : Core) : (s.setCore c x).colls = s.colls := rfl
@[simp] theorem State.setCore_mismatches (s : State) (c : Nat) (x : Core) : (s.setCore c x).mismatches = s.mismatches := rfl
@[simp] theorem State.setCore_journals (s : State) (c : Nat) (x : Core) : (s.setCore c x).journals = s.journals := rfl
@[simp] theorem State.setCore_dev (s : State) (c : Nat) (x : Core) : (s.setCore c x).dev = s.dev := rfl

@[simp] theorem State.accepted_agenda (s : State) (near : Nat → Bool) (f : Core → Core) : (s.accepted near f).agenda = s.agenda := by unfold State.accepted; rfl
@[simp] theorem State.accepted_cur (s : State) (near : Nat → Bool) (f : Core → Core) : (s.accepted near f).cur = s.cur := by unfold State.accepted; rfl
@[simp] theorem State.accepted_focus (s : State) (near : Nat → Bool) (f : Core → Core) : (s.accepted near f).focus = s.focus := by unfold State.accepted; rfl
@[simp] theorem State.accepted_evTurn (s : State) (near : Nat → Bool) (f : Core → Core) : (s.accepted near f).evTurn = s.evTurn := by unfold State.accepted; rfl
@[simp] theorem State.accepted_free (s : State) (near : Nat → Bool) (f : Core → Core) : (s.accepted near f).free = s.free := by unfold State.accepted; rfl
@[simp] theorem State.accepted_fresh (s : State) (near : Nat → Bool) (f : Core → Core) : (s.accepted near f).fresh = s.fresh := by unfold State.accepted; rfl
@[simp] theorem State.accepted_races (s : State) (near : Nat → Bool) (f : Core → Core) : (s.accepted near f).races = s.races := by unfold State.accepted; rfl
@[simp] theorem State.accepted_acts (s : State) (near : Nat → Bool) (f : Core → Core) : (s.accepted near f).acts = s.acts := by unfold State.accepted; rfl
@[simp] theorem State.accepted_touched (s : State) (near : Nat → Bool) (f : Core → Core) : (s.accepted near f).touched = s.touched := by unfold State.accepted; rfl
@[simp] theorem State.accepted_ticks (s : State) (near : Nat → Bool) (f : Core → Core) : (s.accepted near f).ticks = s.ticks := by unfold State.accepted; rfl
@[simp] theorem State.accepted_mem (s : State) (near : Nat → Bool) (f : Core → Core) : (s.accepted near f).mem = s.mem := by unfold State.accepted; rfl
@[simp] theorem State.accepted_hbmPoison (s : State) (near : Nat → Bool) (f : Core → Core) : (s.accepted near f).hbmPoison = s.hbmPoison := by unfold State.accepted; rfl
@[simp] theorem State.accepted_hbmUe (s : State) (near : Nat → Bool) (f : Core → Core) : (s.accepted near f).hbmUe = s.hbmUe := by unfold State.accepted; rfl
@[simp] theorem State.accepted_granEmpty (s : State) (near : Nat → Bool) (f : Core → Core) : (s.accepted near f).granEmpty = s.granEmpty := by unfold State.accepted; rfl
@[simp] theorem State.accepted_granPoison (s : State) (near : Nat → Bool) (f : Core → Core) : (s.accepted near f).granPoison = s.granPoison := by unfold State.accepted; rfl
@[simp] theorem State.accepted_granUe (s : State) (near : Nat → Bool) (f : Core → Core) : (s.accepted near f).granUe = s.granUe := by unfold State.accepted; rfl
@[simp] theorem State.accepted_packs (s : State) (near : Nat → Bool) (f : Core → Core) : (s.accepted near f).packs = s.packs := by unfold State.accepted; rfl
@[simp] theorem State.accepted_cores (s : State) (near : Nat → Bool) (f : Core → Core) : (s.accepted near f).cores =
    ((List.range Config.numCores).filter near).map (fun c => (c, f (s.core c))) ++
      s.cores.filter (fun e => !(near e.1 && e.1 < Config.numCores)) := by unfold State.accepted; rfl
@[simp] theorem State.accepted_clusters (s : State) (near : Nat → Bool) (f : Core → Core) : (s.accepted near f).clusters = s.clusters := by unfold State.accepted; rfl
@[simp] theorem State.accepted_dies (s : State) (near : Nat → Bool) (f : Core → Core) : (s.accepted near f).dies = s.dies := by unfold State.accepted; rfl
@[simp] theorem State.accepted_ctxs (s : State) (near : Nat → Bool) (f : Core → Core) : (s.accepted near f).ctxs = s.ctxs := by unfold State.accepted; rfl
@[simp] theorem State.accepted_launches (s : State) (near : Nat → Bool) (f : Core → Core) : (s.accepted near f).launches = s.launches := by unfold State.accepted; rfl
@[simp] theorem State.accepted_resumes (s : State) (near : Nat → Bool) (f : Core → Core) : (s.accepted near f).resumes = s.resumes := by unfold State.accepted; rfl
@[simp] theorem State.accepted_frames (s : State) (near : Nat → Bool) (f : Core → Core) : (s.accepted near f).frames = s.frames := by unfold State.accepted; rfl
@[simp] theorem State.accepted_guardQ (s : State) (near : Nat → Bool) (f : Core → Core) : (s.accepted near f).guardQ = s.guardQ := by unfold State.accepted; rfl
@[simp] theorem State.accepted_colls (s : State) (near : Nat → Bool) (f : Core → Core) : (s.accepted near f).colls = s.colls := by unfold State.accepted; rfl
@[simp] theorem State.accepted_mismatches (s : State) (near : Nat → Bool) (f : Core → Core) : (s.accepted near f).mismatches = s.mismatches := by unfold State.accepted; rfl
@[simp] theorem State.accepted_journals (s : State) (near : Nat → Bool) (f : Core → Core) : (s.accepted near f).journals = s.journals := by unfold State.accepted; rfl
@[simp] theorem State.accepted_dev (s : State) (near : Nat → Bool) (f : Core → Core) : (s.accepted near f).dev = s.dev := by unfold State.accepted; rfl

@[simp] theorem State.setCluster_agenda (s : State) (k : Nat) (x : Cluster) : (s.setCluster k x).agenda = s.agenda := rfl
@[simp] theorem State.setCluster_cur (s : State) (k : Nat) (x : Cluster) : (s.setCluster k x).cur = s.cur := rfl
@[simp] theorem State.setCluster_focus (s : State) (k : Nat) (x : Cluster) : (s.setCluster k x).focus = s.focus := rfl
@[simp] theorem State.setCluster_evTurn (s : State) (k : Nat) (x : Cluster) : (s.setCluster k x).evTurn = s.evTurn := rfl
@[simp] theorem State.setCluster_free (s : State) (k : Nat) (x : Cluster) : (s.setCluster k x).free = s.free := rfl
@[simp] theorem State.setCluster_fresh (s : State) (k : Nat) (x : Cluster) : (s.setCluster k x).fresh = s.fresh := rfl
@[simp] theorem State.setCluster_races (s : State) (k : Nat) (x : Cluster) : (s.setCluster k x).races = s.races := rfl
@[simp] theorem State.setCluster_acts (s : State) (k : Nat) (x : Cluster) : (s.setCluster k x).acts = s.acts := rfl
@[simp] theorem State.setCluster_touched (s : State) (k : Nat) (x : Cluster) : (s.setCluster k x).touched = s.touched := rfl
@[simp] theorem State.setCluster_ticks (s : State) (k : Nat) (x : Cluster) : (s.setCluster k x).ticks = s.ticks := rfl
@[simp] theorem State.setCluster_mem (s : State) (k : Nat) (x : Cluster) : (s.setCluster k x).mem = s.mem := rfl
@[simp] theorem State.setCluster_hbmPoison (s : State) (k : Nat) (x : Cluster) : (s.setCluster k x).hbmPoison = s.hbmPoison := rfl
@[simp] theorem State.setCluster_hbmUe (s : State) (k : Nat) (x : Cluster) : (s.setCluster k x).hbmUe = s.hbmUe := rfl
@[simp] theorem State.setCluster_granEmpty (s : State) (k : Nat) (x : Cluster) : (s.setCluster k x).granEmpty = s.granEmpty := rfl
@[simp] theorem State.setCluster_granPoison (s : State) (k : Nat) (x : Cluster) : (s.setCluster k x).granPoison = s.granPoison := rfl
@[simp] theorem State.setCluster_granUe (s : State) (k : Nat) (x : Cluster) : (s.setCluster k x).granUe = s.granUe := rfl
@[simp] theorem State.setCluster_packs (s : State) (k : Nat) (x : Cluster) : (s.setCluster k x).packs = s.packs := rfl
@[simp] theorem State.setCluster_cores (s : State) (k : Nat) (x : Cluster) : (s.setCluster k x).cores = s.cores := rfl
@[simp] theorem State.setCluster_clusters (s : State) (k : Nat) (x : Cluster) : (s.setCluster k x).clusters = Table.set s.clusters k x := rfl
@[simp] theorem State.setCluster_dies (s : State) (k : Nat) (x : Cluster) : (s.setCluster k x).dies = s.dies := rfl
@[simp] theorem State.setCluster_ctxs (s : State) (k : Nat) (x : Cluster) : (s.setCluster k x).ctxs = s.ctxs := rfl
@[simp] theorem State.setCluster_launches (s : State) (k : Nat) (x : Cluster) : (s.setCluster k x).launches = s.launches := rfl
@[simp] theorem State.setCluster_resumes (s : State) (k : Nat) (x : Cluster) : (s.setCluster k x).resumes = s.resumes := rfl
@[simp] theorem State.setCluster_frames (s : State) (k : Nat) (x : Cluster) : (s.setCluster k x).frames = s.frames := rfl
@[simp] theorem State.setCluster_guardQ (s : State) (k : Nat) (x : Cluster) : (s.setCluster k x).guardQ = s.guardQ := rfl
@[simp] theorem State.setCluster_colls (s : State) (k : Nat) (x : Cluster) : (s.setCluster k x).colls = s.colls := rfl
@[simp] theorem State.setCluster_mismatches (s : State) (k : Nat) (x : Cluster) : (s.setCluster k x).mismatches = s.mismatches := rfl
@[simp] theorem State.setCluster_journals (s : State) (k : Nat) (x : Cluster) : (s.setCluster k x).journals = s.journals := rfl
@[simp] theorem State.setCluster_dev (s : State) (k : Nat) (x : Cluster) : (s.setCluster k x).dev = s.dev := rfl

@[simp] theorem State.setDie_agenda (s : State) (d : Nat) (x : Die) : (s.setDie d x).agenda = s.agenda := rfl
@[simp] theorem State.setDie_cur (s : State) (d : Nat) (x : Die) : (s.setDie d x).cur = s.cur := rfl
@[simp] theorem State.setDie_focus (s : State) (d : Nat) (x : Die) : (s.setDie d x).focus = s.focus := rfl
@[simp] theorem State.setDie_evTurn (s : State) (d : Nat) (x : Die) : (s.setDie d x).evTurn = s.evTurn := rfl
@[simp] theorem State.setDie_free (s : State) (d : Nat) (x : Die) : (s.setDie d x).free = s.free := rfl
@[simp] theorem State.setDie_fresh (s : State) (d : Nat) (x : Die) : (s.setDie d x).fresh = s.fresh := rfl
@[simp] theorem State.setDie_races (s : State) (d : Nat) (x : Die) : (s.setDie d x).races = s.races := rfl
@[simp] theorem State.setDie_acts (s : State) (d : Nat) (x : Die) : (s.setDie d x).acts = s.acts := rfl
@[simp] theorem State.setDie_touched (s : State) (d : Nat) (x : Die) : (s.setDie d x).touched = s.touched := rfl
@[simp] theorem State.setDie_ticks (s : State) (d : Nat) (x : Die) : (s.setDie d x).ticks = s.ticks := rfl
@[simp] theorem State.setDie_mem (s : State) (d : Nat) (x : Die) : (s.setDie d x).mem = s.mem := rfl
@[simp] theorem State.setDie_hbmPoison (s : State) (d : Nat) (x : Die) : (s.setDie d x).hbmPoison = s.hbmPoison := rfl
@[simp] theorem State.setDie_hbmUe (s : State) (d : Nat) (x : Die) : (s.setDie d x).hbmUe = s.hbmUe := rfl
@[simp] theorem State.setDie_granEmpty (s : State) (d : Nat) (x : Die) : (s.setDie d x).granEmpty = s.granEmpty := rfl
@[simp] theorem State.setDie_granPoison (s : State) (d : Nat) (x : Die) : (s.setDie d x).granPoison = s.granPoison := rfl
@[simp] theorem State.setDie_granUe (s : State) (d : Nat) (x : Die) : (s.setDie d x).granUe = s.granUe := rfl
@[simp] theorem State.setDie_packs (s : State) (d : Nat) (x : Die) : (s.setDie d x).packs = s.packs := rfl
@[simp] theorem State.setDie_cores (s : State) (d : Nat) (x : Die) : (s.setDie d x).cores = s.cores := rfl
@[simp] theorem State.setDie_clusters (s : State) (d : Nat) (x : Die) : (s.setDie d x).clusters = s.clusters := rfl
@[simp] theorem State.setDie_dies (s : State) (d : Nat) (x : Die) : (s.setDie d x).dies = Table.set s.dies d x := rfl
@[simp] theorem State.setDie_ctxs (s : State) (d : Nat) (x : Die) : (s.setDie d x).ctxs = s.ctxs := rfl
@[simp] theorem State.setDie_launches (s : State) (d : Nat) (x : Die) : (s.setDie d x).launches = s.launches := rfl
@[simp] theorem State.setDie_resumes (s : State) (d : Nat) (x : Die) : (s.setDie d x).resumes = s.resumes := rfl
@[simp] theorem State.setDie_frames (s : State) (d : Nat) (x : Die) : (s.setDie d x).frames = s.frames := rfl
@[simp] theorem State.setDie_guardQ (s : State) (d : Nat) (x : Die) : (s.setDie d x).guardQ = s.guardQ := rfl
@[simp] theorem State.setDie_colls (s : State) (d : Nat) (x : Die) : (s.setDie d x).colls = s.colls := rfl
@[simp] theorem State.setDie_mismatches (s : State) (d : Nat) (x : Die) : (s.setDie d x).mismatches = s.mismatches := rfl
@[simp] theorem State.setDie_journals (s : State) (d : Nat) (x : Die) : (s.setDie d x).journals = s.journals := rfl
@[simp] theorem State.setDie_dev (s : State) (d : Nat) (x : Die) : (s.setDie d x).dev = s.dev := rfl

@[simp] theorem State.setCtx_agenda (s : State) (n : Nat) (x : Ctx) : (s.setCtx n x).agenda = s.agenda := rfl
@[simp] theorem State.setCtx_cur (s : State) (n : Nat) (x : Ctx) : (s.setCtx n x).cur = s.cur := rfl
@[simp] theorem State.setCtx_focus (s : State) (n : Nat) (x : Ctx) : (s.setCtx n x).focus = s.focus := rfl
@[simp] theorem State.setCtx_evTurn (s : State) (n : Nat) (x : Ctx) : (s.setCtx n x).evTurn = s.evTurn := rfl
@[simp] theorem State.setCtx_free (s : State) (n : Nat) (x : Ctx) : (s.setCtx n x).free = s.free := rfl
@[simp] theorem State.setCtx_fresh (s : State) (n : Nat) (x : Ctx) : (s.setCtx n x).fresh = s.fresh := rfl
@[simp] theorem State.setCtx_races (s : State) (n : Nat) (x : Ctx) : (s.setCtx n x).races = s.races := rfl
@[simp] theorem State.setCtx_acts (s : State) (n : Nat) (x : Ctx) : (s.setCtx n x).acts = s.acts := rfl
@[simp] theorem State.setCtx_touched (s : State) (n : Nat) (x : Ctx) : (s.setCtx n x).touched = s.touched := rfl
@[simp] theorem State.setCtx_ticks (s : State) (n : Nat) (x : Ctx) : (s.setCtx n x).ticks = s.ticks := rfl
@[simp] theorem State.setCtx_mem (s : State) (n : Nat) (x : Ctx) : (s.setCtx n x).mem = s.mem := rfl
@[simp] theorem State.setCtx_hbmPoison (s : State) (n : Nat) (x : Ctx) : (s.setCtx n x).hbmPoison = s.hbmPoison := rfl
@[simp] theorem State.setCtx_hbmUe (s : State) (n : Nat) (x : Ctx) : (s.setCtx n x).hbmUe = s.hbmUe := rfl
@[simp] theorem State.setCtx_granEmpty (s : State) (n : Nat) (x : Ctx) : (s.setCtx n x).granEmpty = s.granEmpty := rfl
@[simp] theorem State.setCtx_granPoison (s : State) (n : Nat) (x : Ctx) : (s.setCtx n x).granPoison = s.granPoison := rfl
@[simp] theorem State.setCtx_granUe (s : State) (n : Nat) (x : Ctx) : (s.setCtx n x).granUe = s.granUe := rfl
@[simp] theorem State.setCtx_packs (s : State) (n : Nat) (x : Ctx) : (s.setCtx n x).packs = s.packs := rfl
@[simp] theorem State.setCtx_cores (s : State) (n : Nat) (x : Ctx) : (s.setCtx n x).cores = s.cores := rfl
@[simp] theorem State.setCtx_clusters (s : State) (n : Nat) (x : Ctx) : (s.setCtx n x).clusters = s.clusters := rfl
@[simp] theorem State.setCtx_dies (s : State) (n : Nat) (x : Ctx) : (s.setCtx n x).dies = s.dies := rfl
@[simp] theorem State.setCtx_ctxs (s : State) (n : Nat) (x : Ctx) : (s.setCtx n x).ctxs = Table.set s.ctxs n x := rfl
@[simp] theorem State.setCtx_launches (s : State) (n : Nat) (x : Ctx) : (s.setCtx n x).launches = s.launches := rfl
@[simp] theorem State.setCtx_resumes (s : State) (n : Nat) (x : Ctx) : (s.setCtx n x).resumes = s.resumes := rfl
@[simp] theorem State.setCtx_frames (s : State) (n : Nat) (x : Ctx) : (s.setCtx n x).frames = s.frames := rfl
@[simp] theorem State.setCtx_guardQ (s : State) (n : Nat) (x : Ctx) : (s.setCtx n x).guardQ = s.guardQ := rfl
@[simp] theorem State.setCtx_colls (s : State) (n : Nat) (x : Ctx) : (s.setCtx n x).colls = s.colls := rfl
@[simp] theorem State.setCtx_mismatches (s : State) (n : Nat) (x : Ctx) : (s.setCtx n x).mismatches = s.mismatches := rfl
@[simp] theorem State.setCtx_journals (s : State) (n : Nat) (x : Ctx) : (s.setCtx n x).journals = s.journals := rfl
@[simp] theorem State.setCtx_dev (s : State) (n : Nat) (x : Ctx) : (s.setCtx n x).dev = s.dev := rfl

@[simp] theorem State.setLaunch_agenda (s : State) (n : Nat) (x : Launch) : (s.setLaunch n x).agenda = s.agenda := rfl
@[simp] theorem State.setLaunch_cur (s : State) (n : Nat) (x : Launch) : (s.setLaunch n x).cur = s.cur := rfl
@[simp] theorem State.setLaunch_focus (s : State) (n : Nat) (x : Launch) : (s.setLaunch n x).focus = s.focus := rfl
@[simp] theorem State.setLaunch_evTurn (s : State) (n : Nat) (x : Launch) : (s.setLaunch n x).evTurn = s.evTurn := rfl
@[simp] theorem State.setLaunch_free (s : State) (n : Nat) (x : Launch) : (s.setLaunch n x).free = s.free := rfl
@[simp] theorem State.setLaunch_fresh (s : State) (n : Nat) (x : Launch) : (s.setLaunch n x).fresh = s.fresh := rfl
@[simp] theorem State.setLaunch_races (s : State) (n : Nat) (x : Launch) : (s.setLaunch n x).races = s.races := rfl
@[simp] theorem State.setLaunch_acts (s : State) (n : Nat) (x : Launch) : (s.setLaunch n x).acts = s.acts := rfl
@[simp] theorem State.setLaunch_touched (s : State) (n : Nat) (x : Launch) : (s.setLaunch n x).touched = s.touched := rfl
@[simp] theorem State.setLaunch_ticks (s : State) (n : Nat) (x : Launch) : (s.setLaunch n x).ticks = s.ticks := rfl
@[simp] theorem State.setLaunch_mem (s : State) (n : Nat) (x : Launch) : (s.setLaunch n x).mem = s.mem := rfl
@[simp] theorem State.setLaunch_hbmPoison (s : State) (n : Nat) (x : Launch) : (s.setLaunch n x).hbmPoison = s.hbmPoison := rfl
@[simp] theorem State.setLaunch_hbmUe (s : State) (n : Nat) (x : Launch) : (s.setLaunch n x).hbmUe = s.hbmUe := rfl
@[simp] theorem State.setLaunch_granEmpty (s : State) (n : Nat) (x : Launch) : (s.setLaunch n x).granEmpty = s.granEmpty := rfl
@[simp] theorem State.setLaunch_granPoison (s : State) (n : Nat) (x : Launch) : (s.setLaunch n x).granPoison = s.granPoison := rfl
@[simp] theorem State.setLaunch_granUe (s : State) (n : Nat) (x : Launch) : (s.setLaunch n x).granUe = s.granUe := rfl
@[simp] theorem State.setLaunch_packs (s : State) (n : Nat) (x : Launch) : (s.setLaunch n x).packs = s.packs := rfl
@[simp] theorem State.setLaunch_cores (s : State) (n : Nat) (x : Launch) : (s.setLaunch n x).cores = s.cores := rfl
@[simp] theorem State.setLaunch_clusters (s : State) (n : Nat) (x : Launch) : (s.setLaunch n x).clusters = s.clusters := rfl
@[simp] theorem State.setLaunch_dies (s : State) (n : Nat) (x : Launch) : (s.setLaunch n x).dies = s.dies := rfl
@[simp] theorem State.setLaunch_ctxs (s : State) (n : Nat) (x : Launch) : (s.setLaunch n x).ctxs = s.ctxs := rfl
@[simp] theorem State.setLaunch_launches (s : State) (n : Nat) (x : Launch) : (s.setLaunch n x).launches = Table.set s.launches n x := rfl
@[simp] theorem State.setLaunch_resumes (s : State) (n : Nat) (x : Launch) : (s.setLaunch n x).resumes = s.resumes := rfl
@[simp] theorem State.setLaunch_frames (s : State) (n : Nat) (x : Launch) : (s.setLaunch n x).frames = s.frames := rfl
@[simp] theorem State.setLaunch_guardQ (s : State) (n : Nat) (x : Launch) : (s.setLaunch n x).guardQ = s.guardQ := rfl
@[simp] theorem State.setLaunch_colls (s : State) (n : Nat) (x : Launch) : (s.setLaunch n x).colls = s.colls := rfl
@[simp] theorem State.setLaunch_mismatches (s : State) (n : Nat) (x : Launch) : (s.setLaunch n x).mismatches = s.mismatches := rfl
@[simp] theorem State.setLaunch_journals (s : State) (n : Nat) (x : Launch) : (s.setLaunch n x).journals = s.journals := rfl
@[simp] theorem State.setLaunch_dev (s : State) (n : Nat) (x : Launch) : (s.setLaunch n x).dev = s.dev := rfl

/-! ### Replacing the issuing pack -/

@[simp] theorem State.setCurPack_agenda (s : State) (p : Pack) : (s.setCurPack p).agenda = s.agenda := by unfold State.setCurPack; split <;> rfl
@[simp] theorem State.setCurPack_cur (s : State) (p : Pack) : (s.setCurPack p).cur = s.cur := by unfold State.setCurPack; split <;> rfl
@[simp] theorem State.setCurPack_focus (s : State) (p : Pack) : (s.setCurPack p).focus = s.focus := by unfold State.setCurPack; split <;> rfl
@[simp] theorem State.setCurPack_evTurn (s : State) (p : Pack) : (s.setCurPack p).evTurn = s.evTurn := by unfold State.setCurPack; split <;> rfl
@[simp] theorem State.setCurPack_free (s : State) (p : Pack) : (s.setCurPack p).free = s.free := by unfold State.setCurPack; split <;> rfl
@[simp] theorem State.setCurPack_fresh (s : State) (p : Pack) : (s.setCurPack p).fresh = s.fresh := by unfold State.setCurPack; split <;> rfl
@[simp] theorem State.setCurPack_races (s : State) (p : Pack) : (s.setCurPack p).races = s.races := by unfold State.setCurPack; split <;> rfl
@[simp] theorem State.setCurPack_acts (s : State) (p : Pack) : (s.setCurPack p).acts = s.acts := by unfold State.setCurPack; split <;> rfl
@[simp] theorem State.setCurPack_touched (s : State) (p : Pack) : (s.setCurPack p).touched = s.touched := by unfold State.setCurPack; split <;> rfl
@[simp] theorem State.setCurPack_ticks (s : State) (p : Pack) : (s.setCurPack p).ticks = s.ticks := by unfold State.setCurPack; split <;> rfl
@[simp] theorem State.setCurPack_mem (s : State) (p : Pack) : (s.setCurPack p).mem = s.mem := by unfold State.setCurPack; split <;> rfl
@[simp] theorem State.setCurPack_hbmPoison (s : State) (p : Pack) : (s.setCurPack p).hbmPoison = s.hbmPoison := by unfold State.setCurPack; split <;> rfl
@[simp] theorem State.setCurPack_hbmUe (s : State) (p : Pack) : (s.setCurPack p).hbmUe = s.hbmUe := by unfold State.setCurPack; split <;> rfl
@[simp] theorem State.setCurPack_granEmpty (s : State) (p : Pack) : (s.setCurPack p).granEmpty = s.granEmpty := by unfold State.setCurPack; split <;> rfl
@[simp] theorem State.setCurPack_granPoison (s : State) (p : Pack) : (s.setCurPack p).granPoison = s.granPoison := by unfold State.setCurPack; split <;> rfl
@[simp] theorem State.setCurPack_granUe (s : State) (p : Pack) : (s.setCurPack p).granUe = s.granUe := by unfold State.setCurPack; split <;> rfl
@[simp] theorem State.setCurPack_cores (s : State) (p : Pack) : (s.setCurPack p).cores = s.cores := by unfold State.setCurPack; split <;> rfl
@[simp] theorem State.setCurPack_clusters (s : State) (p : Pack) : (s.setCurPack p).clusters = s.clusters := by unfold State.setCurPack; split <;> rfl
@[simp] theorem State.setCurPack_dies (s : State) (p : Pack) : (s.setCurPack p).dies = s.dies := by unfold State.setCurPack; split <;> rfl
@[simp] theorem State.setCurPack_ctxs (s : State) (p : Pack) : (s.setCurPack p).ctxs = s.ctxs := by unfold State.setCurPack; split <;> rfl
@[simp] theorem State.setCurPack_launches (s : State) (p : Pack) : (s.setCurPack p).launches = s.launches := by unfold State.setCurPack; split <;> rfl
@[simp] theorem State.setCurPack_resumes (s : State) (p : Pack) : (s.setCurPack p).resumes = s.resumes := by unfold State.setCurPack; split <;> rfl
@[simp] theorem State.setCurPack_frames (s : State) (p : Pack) : (s.setCurPack p).frames = s.frames := by unfold State.setCurPack; split <;> rfl
@[simp] theorem State.setCurPack_guardQ (s : State) (p : Pack) : (s.setCurPack p).guardQ = s.guardQ := by unfold State.setCurPack; split <;> rfl
@[simp] theorem State.setCurPack_colls (s : State) (p : Pack) : (s.setCurPack p).colls = s.colls := by unfold State.setCurPack; split <;> rfl
@[simp] theorem State.setCurPack_mismatches (s : State) (p : Pack) : (s.setCurPack p).mismatches = s.mismatches := by unfold State.setCurPack; split <;> rfl
@[simp] theorem State.setCurPack_journals (s : State) (p : Pack) : (s.setCurPack p).journals = s.journals := by unfold State.setCurPack; split <;> rfl
@[simp] theorem State.setCurPack_dev (s : State) (p : Pack) : (s.setCurPack p).dev = s.dev := by unfold State.setCurPack; split <;> rfl

/-- Replacing the issuing pack, where a pack is issuing. -/
theorem State.setCurPack_of_cur {s : State} {k : Nat × Nat} (h : s.cur = some k) (p : Pack) :
    s.setCurPack p = { s with packs := Table.set s.packs k p } := by
  simp [State.setCurPack, h]

/-! ### Updates of a pack -/

@[simp] theorem Pack.next_id (p : Pack) (o : Opnd) : (p.next o).id = p.id := rfl
@[simp] theorem Pack.next_width (p : Pack) (o : Opnd) : (p.next o).width = p.width := rfl
@[simp] theorem Pack.next_allot (p : Pack) (o : Opnd) : (p.next o).allot = p.allot := rfl
@[simp] theorem Pack.next_pc (p : Pack) (o : Opnd) : (p.next o).pc = p.pc + BitVec.ofNat 64 o.len := rfl
@[simp] theorem Pack.next_priv (p : Pack) (o : Opnd) : (p.next o).priv = p.priv := rfl
@[simp] theorem Pack.next_g (p : Pack) (o : Opnd) : (p.next o).g = p.g := rfl
@[simp] theorem Pack.next_sys (p : Pack) (o : Opnd) : (p.next o).sys = p.sys := rfl
@[simp] theorem Pack.next_lanes (p : Pack) (o : Opnd) : (p.next o).lanes = p.lanes := rfl
@[simp] theorem Pack.next_occ (p : Pack) (o : Opnd) : (p.next o).occ = p.occ := rfl
@[simp] theorem Pack.next_mask (p : Pack) (o : Opnd) : (p.next o).mask = p.mask := rfl
@[simp] theorem Pack.next_stack (p : Pack) (o : Opnd) : (p.next o).stack = p.stack := rfl
@[simp] theorem Pack.next_sml (p : Pack) (o : Opnd) : (p.next o).sml = p.sml := rfl
@[simp] theorem Pack.next_smp (p : Pack) (o : Opnd) : (p.next o).smp = p.smp := rfl
@[simp] theorem Pack.next_sdn (p : Pack) (o : Opnd) : (p.next o).sdn = p.sdn := rfl
@[simp] theorem Pack.next_cnt (p : Pack) (o : Opnd) : (p.next o).cnt = p.cnt := rfl
@[simp] theorem Pack.next_issued (p : Pack) (o : Opnd) : (p.next o).issued = p.issued := rfl
@[simp] theorem Pack.next_queries (p : Pack) (o : Opnd) : (p.next o).queries = p.queries := rfl
@[simp] theorem Pack.next_openOps (p : Pack) (o : Opnd) : (p.next o).openOps = p.openOps := rfl
@[simp] theorem Pack.next_held (p : Pack) (o : Opnd) : (p.next o).held = p.held := rfl
@[simp] theorem Pack.next_fills (p : Pack) (o : Opnd) : (p.next o).fills = p.fills := rfl
@[simp] theorem Pack.next_rgnMask (p : Pack) (o : Opnd) : (p.next o).rgnMask = p.rgnMask := rfl
@[simp] theorem Pack.next_rgnDepth (p : Pack) (o : Opnd) : (p.next o).rgnDepth = p.rgnDepth := rfl
@[simp] theorem Pack.next_status (p : Pack) (o : Opnd) : (p.next o).status = p.status := rfl
@[simp] theorem Pack.next_pre (p : Pack) (o : Opnd) : (p.next o).pre = p.pre := rfl
@[simp] theorem Pack.next_preReq (p : Pack) (o : Opnd) : (p.next o).preReq = p.preReq := rfl
@[simp] theorem Pack.next_restart (p : Pack) (o : Opnd) : (p.next o).restart = p.restart := rfl
@[simp] theorem Pack.next_pendingTrap (p : Pack) (o : Opnd) : (p.next o).pendingTrap = p.pendingTrap := rfl
@[simp] theorem Pack.next_prog (p : Pack) (o : Opnd) : (p.next o).prog = {} := rfl
@[simp] theorem Pack.next_lastIssue (p : Pack) (o : Opnd) : (p.next o).lastIssue = p.lastIssue := rfl
@[simp] theorem Pack.next_passed (p : Pack) (o : Opnd) : (p.next o).passed = p.passed := rfl
@[simp] theorem Pack.next_lag (p : Pack) (o : Opnd) : (p.next o).lag = p.lag := rfl
@[simp] theorem Pack.next_owed (p : Pack) (o : Opnd) : (p.next o).owed = p.owed := rfl

@[simp] theorem Pack.goto_id (p : Pack) (t : Word) : (p.goto t).id = p.id := rfl
@[simp] theorem Pack.goto_width (p : Pack) (t : Word) : (p.goto t).width = p.width := rfl
@[simp] theorem Pack.goto_allot (p : Pack) (t : Word) : (p.goto t).allot = p.allot := rfl
@[simp] theorem Pack.goto_pc (p : Pack) (t : Word) : (p.goto t).pc = t := rfl
@[simp] theorem Pack.goto_priv (p : Pack) (t : Word) : (p.goto t).priv = p.priv := rfl
@[simp] theorem Pack.goto_g (p : Pack) (t : Word) : (p.goto t).g = p.g := rfl
@[simp] theorem Pack.goto_sys (p : Pack) (t : Word) : (p.goto t).sys = p.sys := rfl
@[simp] theorem Pack.goto_lanes (p : Pack) (t : Word) : (p.goto t).lanes = p.lanes := rfl
@[simp] theorem Pack.goto_occ (p : Pack) (t : Word) : (p.goto t).occ = p.occ := rfl
@[simp] theorem Pack.goto_mask (p : Pack) (t : Word) : (p.goto t).mask = p.mask := rfl
@[simp] theorem Pack.goto_stack (p : Pack) (t : Word) : (p.goto t).stack = p.stack := rfl
@[simp] theorem Pack.goto_sml (p : Pack) (t : Word) : (p.goto t).sml = p.sml := rfl
@[simp] theorem Pack.goto_smp (p : Pack) (t : Word) : (p.goto t).smp = p.smp := rfl
@[simp] theorem Pack.goto_sdn (p : Pack) (t : Word) : (p.goto t).sdn = p.sdn := rfl
@[simp] theorem Pack.goto_cnt (p : Pack) (t : Word) : (p.goto t).cnt = p.cnt := rfl
@[simp] theorem Pack.goto_issued (p : Pack) (t : Word) : (p.goto t).issued = p.issued := rfl
@[simp] theorem Pack.goto_queries (p : Pack) (t : Word) : (p.goto t).queries = p.queries := rfl
@[simp] theorem Pack.goto_openOps (p : Pack) (t : Word) : (p.goto t).openOps = p.openOps := rfl
@[simp] theorem Pack.goto_held (p : Pack) (t : Word) : (p.goto t).held = p.held := rfl
@[simp] theorem Pack.goto_fills (p : Pack) (t : Word) : (p.goto t).fills = p.fills := rfl
@[simp] theorem Pack.goto_rgnMask (p : Pack) (t : Word) : (p.goto t).rgnMask = p.rgnMask := rfl
@[simp] theorem Pack.goto_rgnDepth (p : Pack) (t : Word) : (p.goto t).rgnDepth = p.rgnDepth := rfl
@[simp] theorem Pack.goto_status (p : Pack) (t : Word) : (p.goto t).status = p.status := rfl
@[simp] theorem Pack.goto_pre (p : Pack) (t : Word) : (p.goto t).pre = p.pre := rfl
@[simp] theorem Pack.goto_preReq (p : Pack) (t : Word) : (p.goto t).preReq = p.preReq := rfl
@[simp] theorem Pack.goto_restart (p : Pack) (t : Word) : (p.goto t).restart = p.restart := rfl
@[simp] theorem Pack.goto_pendingTrap (p : Pack) (t : Word) : (p.goto t).pendingTrap = p.pendingTrap := rfl
@[simp] theorem Pack.goto_prog (p : Pack) (t : Word) : (p.goto t).prog = {} := rfl
@[simp] theorem Pack.goto_lastIssue (p : Pack) (t : Word) : (p.goto t).lastIssue = p.lastIssue := rfl
@[simp] theorem Pack.goto_passed (p : Pack) (t : Word) : (p.goto t).passed = p.passed := rfl
@[simp] theorem Pack.goto_lag (p : Pack) (t : Word) : (p.goto t).lag = p.lag := rfl
@[simp] theorem Pack.goto_owed (p : Pack) (t : Word) : (p.goto t).owed = p.owed := rfl

@[simp] theorem Pack.writeG_id (p : Pack) (r : Nat) (v : Word) : (p.writeG r v).id = p.id := by unfold Pack.writeG; split <;> rfl
@[simp] theorem Pack.writeG_width (p : Pack) (r : Nat) (v : Word) : (p.writeG r v).width = p.width := by unfold Pack.writeG; split <;> rfl
@[simp] theorem Pack.writeG_allot (p : Pack) (r : Nat) (v : Word) : (p.writeG r v).allot = p.allot := by unfold Pack.writeG; split <;> rfl
@[simp] theorem Pack.writeG_pc (p : Pack) (r : Nat) (v : Word) : (p.writeG r v).pc = p.pc := by unfold Pack.writeG; split <;> rfl
@[simp] theorem Pack.writeG_priv (p : Pack) (r : Nat) (v : Word) : (p.writeG r v).priv = p.priv := by unfold Pack.writeG; split <;> rfl
@[simp] theorem Pack.writeG_sys (p : Pack) (r : Nat) (v : Word) : (p.writeG r v).sys = p.sys := by unfold Pack.writeG; split <;> rfl
@[simp] theorem Pack.writeG_lanes (p : Pack) (r : Nat) (v : Word) : (p.writeG r v).lanes = p.lanes := by unfold Pack.writeG; split <;> rfl
@[simp] theorem Pack.writeG_occ (p : Pack) (r : Nat) (v : Word) : (p.writeG r v).occ = p.occ := by unfold Pack.writeG; split <;> rfl
@[simp] theorem Pack.writeG_mask (p : Pack) (r : Nat) (v : Word) : (p.writeG r v).mask = p.mask := by unfold Pack.writeG; split <;> rfl
@[simp] theorem Pack.writeG_stack (p : Pack) (r : Nat) (v : Word) : (p.writeG r v).stack = p.stack := by unfold Pack.writeG; split <;> rfl
@[simp] theorem Pack.writeG_sml (p : Pack) (r : Nat) (v : Word) : (p.writeG r v).sml = p.sml := by unfold Pack.writeG; split <;> rfl
@[simp] theorem Pack.writeG_smp (p : Pack) (r : Nat) (v : Word) : (p.writeG r v).smp = p.smp := by unfold Pack.writeG; split <;> rfl
@[simp] theorem Pack.writeG_sdn (p : Pack) (r : Nat) (v : Word) : (p.writeG r v).sdn = p.sdn := by unfold Pack.writeG; split <;> rfl
@[simp] theorem Pack.writeG_cnt (p : Pack) (r : Nat) (v : Word) : (p.writeG r v).cnt = p.cnt := by unfold Pack.writeG; split <;> rfl
@[simp] theorem Pack.writeG_issued (p : Pack) (r : Nat) (v : Word) : (p.writeG r v).issued = p.issued := by unfold Pack.writeG; split <;> rfl
@[simp] theorem Pack.writeG_queries (p : Pack) (r : Nat) (v : Word) : (p.writeG r v).queries = p.queries := by unfold Pack.writeG; split <;> rfl
@[simp] theorem Pack.writeG_openOps (p : Pack) (r : Nat) (v : Word) : (p.writeG r v).openOps = p.openOps := by unfold Pack.writeG; split <;> rfl
@[simp] theorem Pack.writeG_held (p : Pack) (r : Nat) (v : Word) : (p.writeG r v).held = p.held := by unfold Pack.writeG; split <;> rfl
@[simp] theorem Pack.writeG_fills (p : Pack) (r : Nat) (v : Word) : (p.writeG r v).fills = p.fills := by unfold Pack.writeG; split <;> rfl
@[simp] theorem Pack.writeG_rgnMask (p : Pack) (r : Nat) (v : Word) : (p.writeG r v).rgnMask = p.rgnMask := by unfold Pack.writeG; split <;> rfl
@[simp] theorem Pack.writeG_rgnDepth (p : Pack) (r : Nat) (v : Word) : (p.writeG r v).rgnDepth = p.rgnDepth := by unfold Pack.writeG; split <;> rfl
@[simp] theorem Pack.writeG_status (p : Pack) (r : Nat) (v : Word) : (p.writeG r v).status = p.status := by unfold Pack.writeG; split <;> rfl
@[simp] theorem Pack.writeG_pre (p : Pack) (r : Nat) (v : Word) : (p.writeG r v).pre = p.pre := by unfold Pack.writeG; split <;> rfl
@[simp] theorem Pack.writeG_preReq (p : Pack) (r : Nat) (v : Word) : (p.writeG r v).preReq = p.preReq := by unfold Pack.writeG; split <;> rfl
@[simp] theorem Pack.writeG_restart (p : Pack) (r : Nat) (v : Word) : (p.writeG r v).restart = p.restart := by unfold Pack.writeG; split <;> rfl
@[simp] theorem Pack.writeG_pendingTrap (p : Pack) (r : Nat) (v : Word) : (p.writeG r v).pendingTrap = p.pendingTrap := by unfold Pack.writeG; split <;> rfl
@[simp] theorem Pack.writeG_prog (p : Pack) (r : Nat) (v : Word) : (p.writeG r v).prog = p.prog := by unfold Pack.writeG; split <;> rfl
@[simp] theorem Pack.writeG_lastIssue (p : Pack) (r : Nat) (v : Word) : (p.writeG r v).lastIssue = p.lastIssue := by unfold Pack.writeG; split <;> rfl
@[simp] theorem Pack.writeG_passed (p : Pack) (r : Nat) (v : Word) : (p.writeG r v).passed = p.passed := by unfold Pack.writeG; split <;> rfl
@[simp] theorem Pack.writeG_lag (p : Pack) (r : Nat) (v : Word) : (p.writeG r v).lag = p.lag := by unfold Pack.writeG; split <;> rfl
@[simp] theorem Pack.writeG_owed (p : Pack) (r : Nat) (v : Word) : (p.writeG r v).owed = p.owed := by unfold Pack.writeG; split <;> rfl

@[simp] theorem Pack.onLanes_id (p : Pack) (ls : Lanes) (f : Nat → Lane → Lane) : (p.onLanes ls f).id = p.id := rfl
@[simp] theorem Pack.onLanes_width (p : Pack) (ls : Lanes) (f : Nat → Lane → Lane) : (p.onLanes ls f).width = p.width := rfl
@[simp] theorem Pack.onLanes_allot (p : Pack) (ls : Lanes) (f : Nat → Lane → Lane) : (p.onLanes ls f).allot = p.allot := rfl
@[simp] theorem Pack.onLanes_pc (p : Pack) (ls : Lanes) (f : Nat → Lane → Lane) : (p.onLanes ls f).pc = p.pc := rfl
@[simp] theorem Pack.onLanes_priv (p : Pack) (ls : Lanes) (f : Nat → Lane → Lane) : (p.onLanes ls f).priv = p.priv := rfl
@[simp] theorem Pack.onLanes_g (p : Pack) (ls : Lanes) (f : Nat → Lane → Lane) : (p.onLanes ls f).g = p.g := rfl
@[simp] theorem Pack.onLanes_sys (p : Pack) (ls : Lanes) (f : Nat → Lane → Lane) : (p.onLanes ls f).sys = p.sys := rfl
@[simp] theorem Pack.onLanes_lanes (p : Pack) (ls : Lanes) (f : Nat → Lane → Lane) : (p.onLanes ls f).lanes = mapLanes ls f p.width 0 p.lanes := rfl
@[simp] theorem Pack.onLanes_occ (p : Pack) (ls : Lanes) (f : Nat → Lane → Lane) : (p.onLanes ls f).occ = p.occ := rfl
@[simp] theorem Pack.onLanes_mask (p : Pack) (ls : Lanes) (f : Nat → Lane → Lane) : (p.onLanes ls f).mask = p.mask := rfl
@[simp] theorem Pack.onLanes_stack (p : Pack) (ls : Lanes) (f : Nat → Lane → Lane) : (p.onLanes ls f).stack = p.stack := rfl
@[simp] theorem Pack.onLanes_sml (p : Pack) (ls : Lanes) (f : Nat → Lane → Lane) : (p.onLanes ls f).sml = p.sml := rfl
@[simp] theorem Pack.onLanes_smp (p : Pack) (ls : Lanes) (f : Nat → Lane → Lane) : (p.onLanes ls f).smp = p.smp := rfl
@[simp] theorem Pack.onLanes_sdn (p : Pack) (ls : Lanes) (f : Nat → Lane → Lane) : (p.onLanes ls f).sdn = p.sdn := rfl
@[simp] theorem Pack.onLanes_cnt (p : Pack) (ls : Lanes) (f : Nat → Lane → Lane) : (p.onLanes ls f).cnt = p.cnt := rfl
@[simp] theorem Pack.onLanes_issued (p : Pack) (ls : Lanes) (f : Nat → Lane → Lane) : (p.onLanes ls f).issued = p.issued := rfl
@[simp] theorem Pack.onLanes_queries (p : Pack) (ls : Lanes) (f : Nat → Lane → Lane) : (p.onLanes ls f).queries = p.queries := rfl
@[simp] theorem Pack.onLanes_openOps (p : Pack) (ls : Lanes) (f : Nat → Lane → Lane) : (p.onLanes ls f).openOps = p.openOps := rfl
@[simp] theorem Pack.onLanes_held (p : Pack) (ls : Lanes) (f : Nat → Lane → Lane) : (p.onLanes ls f).held = p.held := rfl
@[simp] theorem Pack.onLanes_fills (p : Pack) (ls : Lanes) (f : Nat → Lane → Lane) : (p.onLanes ls f).fills = p.fills := rfl
@[simp] theorem Pack.onLanes_rgnMask (p : Pack) (ls : Lanes) (f : Nat → Lane → Lane) : (p.onLanes ls f).rgnMask = p.rgnMask := rfl
@[simp] theorem Pack.onLanes_rgnDepth (p : Pack) (ls : Lanes) (f : Nat → Lane → Lane) : (p.onLanes ls f).rgnDepth = p.rgnDepth := rfl
@[simp] theorem Pack.onLanes_status (p : Pack) (ls : Lanes) (f : Nat → Lane → Lane) : (p.onLanes ls f).status = p.status := rfl
@[simp] theorem Pack.onLanes_pre (p : Pack) (ls : Lanes) (f : Nat → Lane → Lane) : (p.onLanes ls f).pre = p.pre := rfl
@[simp] theorem Pack.onLanes_preReq (p : Pack) (ls : Lanes) (f : Nat → Lane → Lane) : (p.onLanes ls f).preReq = p.preReq := rfl
@[simp] theorem Pack.onLanes_restart (p : Pack) (ls : Lanes) (f : Nat → Lane → Lane) : (p.onLanes ls f).restart = p.restart := rfl
@[simp] theorem Pack.onLanes_pendingTrap (p : Pack) (ls : Lanes) (f : Nat → Lane → Lane) : (p.onLanes ls f).pendingTrap = p.pendingTrap := rfl
@[simp] theorem Pack.onLanes_prog (p : Pack) (ls : Lanes) (f : Nat → Lane → Lane) : (p.onLanes ls f).prog = p.prog := rfl
@[simp] theorem Pack.onLanes_lastIssue (p : Pack) (ls : Lanes) (f : Nat → Lane → Lane) : (p.onLanes ls f).lastIssue = p.lastIssue := rfl
@[simp] theorem Pack.onLanes_passed (p : Pack) (ls : Lanes) (f : Nat → Lane → Lane) : (p.onLanes ls f).passed = p.passed := rfl
@[simp] theorem Pack.onLanes_lag (p : Pack) (ls : Lanes) (f : Nat → Lane → Lane) : (p.onLanes ls f).lag = p.lag := rfl
@[simp] theorem Pack.onLanes_owed (p : Pack) (ls : Lanes) (f : Nat → Lane → Lane) : (p.onLanes ls f).owed = p.owed := rfl

/-! ### Registers in a list -/

/-- The element written. -/
@[simp] theorem getAt_putAt_same {α : Type} (d : α) (l : List α) (i : Nat) (x : α) : getAt d (putAt d l i x) i = x := by
  induction i generalizing l with
  | zero => cases l <;> rfl
  | succ n ih => cases l <;> simpa [putAt, getAt] using ih _

/-- The other elements stay. -/
theorem getAt_putAt_other {α : Type} (d : α) (l : List α) {i j : Nat} (x : α) (h : j ≠ i) :
    getAt d (putAt d l i x) j = getAt d l j := by
  induction i generalizing l j with
  | zero =>
    obtain ⟨k, rfl⟩ := Nat.exists_eq_succ_of_ne_zero h
    cases l <;> rfl
  | succ n ih =>
    cases j with
    | zero => cases l <;> rfl
    | succ k =>
      cases l with
      | nil => simpa [putAt, getAt] using ih [] (by omega : k ≠ n)
      | cons y r => simpa [putAt, getAt] using ih r (by omega : k ≠ n)

/-- The general register written; g0 keeps reading as zero. -/
theorem Pack.readG_writeG (p : Pack) (r k : Nat) (x : Word) :
    (p.writeG r x).readG k = if k = r ∧ r ≠ 0 then x else p.readG k := by
  unfold Pack.writeG Pack.readG
  by_cases hr : r = 0
  · simp [hr]
  · by_cases hk : k = r
    · subst hk; simp [hr]
    · by_cases h0 : k = 0
      · simp [h0, Ne.symm hr]
      · simp [hr, hk, h0, getAt_putAt_other _ _ _ hk]

/-- Writing a general register changes the registers alone. -/
theorem Pack.writeG_eq (p : Pack) (r : Nat) (x : Word) : p.writeG r x = { p with g := (p.writeG r x).g } := by
  unfold Pack.writeG; split <;> rfl

@[simp] theorem Pack.readG_next (p : Pack) (o : Opnd) (k : Nat) : (p.next o).readG k = p.readG k := rfl
@[simp] theorem Pack.readG_goto (p : Pack) (t : Word) (k : Nat) : (p.goto t).readG k = p.readG k := rfl

end Sys2Proof.Machine
end

