-- ==== Sys2Proof/Laws/Lanes.lean ====
section
/-! SUPPORT. Lanes, their registers and predicates after a lane instruction's update. -/

namespace Sys2Proof.Machine

/-! ### Lanes of a pack -/

/-- A lane after an update of the lanes of a mask among `n` lanes from `i` up. -/
theorem getAt_mapLanes (ls : Lanes) (f : Nat → Lane → Lane) (n i : Nat) (l : List Lane) (j : Nat) :
    getAt {} (mapLanes ls f n i l) j =
      if j < n ∧ ls.getLsbD (i + j) then f (i + j) (getAt {} l j) else getAt {} l j := by
  induction n generalizing i l j with
  | zero => simp [mapLanes]
  | succ n ih =>
    cases l with
    | nil =>
      cases j with
      | zero => simp [mapLanes, getAt]
      | succ j =>
        simp only [mapLanes, getAt, ih, Nat.add_right_comm i 1 j, Nat.add_assoc]
        simp
    | cons x r =>
      cases j with
      | zero => simp [mapLanes, getAt]
      | succ j =>
        simp only [mapLanes, getAt, ih]
        simp [Nat.add_comm, Nat.add_left_comm]

/-- A lane after an update of the lanes of a mask. -/
theorem Pack.lane_onLanes (p : Pack) (ls : Lanes) (f : Nat → Lane → Lane) (l : Nat) :
    (p.onLanes ls f).lane l = if l < p.width ∧ ls.getLsbD l then f l (p.lane l) else p.lane l := by
  have := getAt_mapLanes ls f p.width 0 p.lanes l
  simpa [Pack.onLanes, Pack.lane] using this

@[simp] theorem Pack.lane_next (p : Pack) (o : Opnd) (l : Nat) : (p.next o).lane l = p.lane l := rfl
@[simp] theorem Pack.lane_goto (p : Pack) (t : Word) (l : Nat) : (p.goto t).lane l = p.lane l := rfl
@[simp] theorem Pack.lane_writeG (p : Pack) (r : Nat) (x : Word) (l : Nat) : (p.writeG r x).lane l = p.lane l := by
  unfold Pack.writeG Pack.lane; split <;> rfl

/-- The bit of a single-lane mask. -/
theorem getLsbD_oneLane (l m : Nat) : (1#1024 <<< l).getLsbD m = decide (m = l ∧ l < 1024) := by
  rw [BitVec.getLsbD_shiftLeft]
  by_cases h : m = l
  · subst h
    by_cases hl : m < 1024 <;> simp [hl]
  · simp only [h, false_and, decide_false, Bool.and_eq_false_iff]
    by_cases hm : m < l
    · simp [hm]
    · right
      simp only [BitVec.getLsbD_one]
      simp; omega

/-- The bits of the lanes whose lane satisfies a test. -/
theorem getLsbD_maskWhere (f : Lane → Bool) (n i : Nat) (l : List Lane) (j : Nat) :
    (maskWhere f n i l).getLsbD j = (decide (i ≤ j ∧ j < i + n ∧ j < 1024) && f (getAt {} l (j - i))) := by
  induction n generalizing i l with
  | zero =>
    simp [maskWhere]; omega
  | succ n ih =>
    have key : ∀ (x : Lane) (r : List Lane),
        ((if f x then 1#1024 <<< i else 0) ||| maskWhere f n (i + 1) r).getLsbD j =
          (decide (i ≤ j ∧ j < i + (n + 1) ∧ j < 1024) && f (if j = i then x else getAt {} r (j - (i + 1)))) := by
      intro x r
      rw [BitVec.getLsbD_or, ih]
      by_cases h : j = i
      · subst h
        by_cases hf : f x <;> by_cases hj : j < 1024 <;> simp [hf, hj]
      · have hz : (if f x then 1#1024 <<< i else 0).getLsbD j = false := by
          by_cases hf : f x
          · rw [if_pos hf, getLsbD_oneLane]; simp [h]
          · simp [hf]
        have hd : decide (i + 1 ≤ j ∧ j < i + 1 + n ∧ j < 1024) = decide (i ≤ j ∧ j < i + (n + 1) ∧ j < 1024) := by
          congr 1; apply propext; constructor <;> intro h <;> omega
        rw [hz, Bool.false_or, hd]; simp [h]
    cases l with
    | nil =>
      rw [maskWhere, key {} []]
      congr 2
      by_cases h : j = i <;> simp [h, getAt]
    | cons x r =>
      rw [maskWhere, key x r]
      by_cases h : j < i
      · have hd : decide (i ≤ j ∧ j < i + (n + 1) ∧ j < 1024) = false := by simp; omega
        rw [hd]; simp
      · congr 2
        by_cases hj : j = i
        · simp [hj, getAt]
        · obtain ⟨k, hk⟩ : ∃ k, j - i = k + 1 := ⟨j - i - 1, by omega⟩
          have : j - (i + 1) = k := by omega
          simp [hj, hk, getAt, this]

/-- The lanes of a pack in which a predicate is 1. -/
theorem Pack.getLsbD_predLanes (p : Pack) (n l : Nat) :
    (p.predLanes n).getLsbD l = (decide (l < p.width ∧ l < 1024) && (p.lane l).pred n) := by
  simp [Pack.predLanes, getLsbD_maskWhere, Pack.lane]

/-- The participating lanes in ascending order are those of the mask below the width. -/
theorem Pack.mem_partList (p : Pack) (o : Opnd) (l : Nat) : l ∈ p.partList o ↔ l < p.width ∧ (p.part o).getLsbD l := by
  simp [Pack.partList, lanesOf]

/-! ### Registers of a lane -/

@[simp] theorem Lane.writeV_p (ln : Lane) (n c x : Nat) : (ln.writeV n c x).p = ln.p := by
  induction c generalizing ln n x with
  | zero => rfl
  | succ c ih => simp [Lane.writeV, ih]

@[simp] theorem Lane.writeV_item (ln : Lane) (n c x : Nat) : (ln.writeV n c x).item = ln.item := by
  induction c generalizing ln n x with
  | zero => rfl
  | succ c ih => simp [Lane.writeV, ih]

@[simp] theorem Lane.pred_writeV (ln : Lane) (n c x k : Nat) : (ln.writeV n c x).pred k = ln.pred k := by
  simp [Lane.pred]

/-- A register outside the ones written stays. -/
theorem Lane.reg_writeV_other (ln : Lane) (n c x : Nat) {k : Nat} (h : k < n ∨ n + c ≤ k) :
    (ln.writeV n c x).reg k = ln.reg k := by
  induction c generalizing ln n x with
  | zero => rfl
  | succ c ih =>
    rw [Lane.writeV, ih _ _ _ (by omega)]
    exact getAt_putAt_other _ _ _ (by omega)

/-- A register written holds its 32 bits of the value and is full. -/
theorem Lane.reg_writeV_same (ln : Lane) (n c x : Nat) {i : Nat} (h : i < c) :
    (ln.writeV n c x).reg (n + i) = { val := BitVec.ofNat 32 (x / 2 ^ (32 * i)) } := by
  induction c generalizing ln n x i with
  | zero => omega
  | succ c ih =>
    rw [Lane.writeV]
    cases i with
    | zero =>
      rw [Lane.reg_writeV_other _ _ _ _ (by omega)]
      simp [Lane.reg]
    | succ i =>
      have := ih { ln with v := putAt {} ln.v n { val := BitVec.ofNat 32 x } } (n + 1) (x / 2 ^ 32) (i := i) (by omega)
      rw [show n + (i + 1) = n + 1 + i by omega, this, Nat.div_div_eq_div_mul, ← Nat.pow_add]
      congr 4; ring

/-- The value written reads back, cut to the registers' bits. -/
theorem Lane.readV_writeV (ln : Lane) (n c x : Nat) : (ln.writeV n c x).readV n c = x % 2 ^ (32 * c) := by
  induction c generalizing ln n x with
  | zero => simp [Lane.readV]; omega
  | succ c ih =>
    rw [Lane.writeV, Lane.readV, ih, Lane.reg_writeV_other _ _ _ _ (by omega)]
    simp only [Lane.reg, getAt_putAt_same, BitVec.toNat_ofNat]
    rw [show 32 * (c + 1) = 32 + 32 * c by ring, Nat.pow_add, Nat.mod_mul]

/-- A predicate after one is written; there is none beyond p7. -/
theorem Lane.pred_setPred (ln : Lane) (n k : Nat) (b : Bool) (hk : k < 8) :
    (ln.setPred n b).pred k = if k = n then b else ln.pred k := by
  have hb : (1#8 <<< n).getLsbD k = decide (k = n) := by
    rw [BitVec.getLsbD_shiftLeft]
    by_cases h : k = n
    · subst h; simp [hk]
    · simp only [h, decide_false, Bool.and_eq_false_iff]
      by_cases hn : k < n
      · simp [hn]
      · right; simp only [BitVec.getLsbD_one]; simp; omega
  unfold Lane.setPred Lane.pred
  cases b
  · simp only [Bool.false_eq_true, if_false, BitVec.getLsbD_and, BitVec.getLsbD_not, hb]
    by_cases h : k = n <;> simp [h, hk]
  · simp only [if_true, BitVec.getLsbD_or, hb]
    by_cases h : k = n <;> simp [h]

@[simp] theorem Lane.setPred_v (ln : Lane) (n : Nat) (b : Bool) : (ln.setPred n b).v = ln.v := rfl
@[simp] theorem Lane.setPred_item (ln : Lane) (n : Nat) (b : Bool) : (ln.setPred n b).item = ln.item := rfl
@[simp] theorem Lane.reg_setPred (ln : Lane) (n : Nat) (b : Bool) (k : Nat) : (ln.setPred n b).reg k = ln.reg k := rfl

/-! ### Elements -/

/-- Elements put together take the bits of each. -/
theorem joinElems_lt (n : Nat) (es : List Nat) : joinElems n es < 2 ^ (n * es.length) := by
  induction es with
  | nil => simp [joinElems]
  | cons e r ih =>
    simp only [joinElems, List.foldr_cons, List.length_cons, Nat.mul_succ] at ih ⊢
    have h : e % 2 ^ n < 2 ^ n := Nat.mod_lt _ (Nat.two_pow_pos n)
    rw [Nat.add_comm (n * r.length), Nat.pow_add]
    nlinarith [Nat.two_pow_pos n]

/-- An element of elements put together, cut to its bits. -/
theorem elem_joinElems (n : Nat) (es : List Nat) (i : Nat) (h : i < es.length) :
    elem n (joinElems n es) i = es[i] % 2 ^ n := by
  induction es generalizing i with
  | nil => simp at h
  | cons e r ih =>
    have hd : joinElems n (e :: r) = e % 2 ^ n + 2 ^ n * joinElems n r := rfl
    have hm : e % 2 ^ n < 2 ^ n := Nat.mod_lt _ (Nat.two_pow_pos n)
    cases i with
    | zero => simp [elem, hd, Nat.add_mul_mod_self_left]
    | succ i =>
      have hi : i < r.length := by simpa using h
      have := ih i hi
      simp only [elem] at this ⊢
      rw [hd, Nat.mul_succ, Nat.add_comm (n * i), Nat.pow_add, ← Nat.div_div_eq_div_mul,
        Nat.add_mul_div_left _ _ (Nat.two_pow_pos n), Nat.div_eq_of_lt hm, Nat.zero_add, this]
      rfl

/-- The elements of an operand. -/
theorem elems_get (n c x i : Nat) (h : i < (elems n c x).length) : (elems n c x)[i] = elem n x i := by
  simp [elems]

@[simp] theorem elems_length (n c x : Nat) : (elems n c x).length = c := by simp [elems]

/-! ### Lanes written one by one -/

/-- The bits of a list of lanes. -/
theorem getLsbD_maskOf (ls : List Nat) (l : Nat) : (maskOf ls).getLsbD l = (decide (l < 1024) && ls.contains l) := by
  have h : ∀ (m : Lanes), (ls.foldl (fun m l => m ||| (1#1024 <<< l)) m).getLsbD l =
      (m.getLsbD l || (decide (l < 1024) && ls.contains l)) := by
    induction ls with
    | nil => simp
    | cons a r ih =>
      intro m
      rw [List.foldl_cons, ih, BitVec.getLsbD_or, getLsbD_oneLane]
      by_cases h : l = a
      · subst h
        by_cases hl : l < 1024 <;> simp [hl]
      · simp only [h, false_and, decide_false, Bool.or_false, List.contains_cons, beq_eq_false_iff_ne.mpr h, Bool.false_or]
  simpa [maskOf] using h 0

end Sys2Proof.Machine
end

