-- ==== Sys2Proof/Laws/Memory.lean ====
section
/-! SUPPORT. Memory: reads after writes, and the canonical form that every operation keeps. -/

namespace Sys2Proof.Machine

@[simp] theorem Memory.read_nil (a : Nat) : Memory.read [] a = Memory.empty := rfl

/-- Reading below every listed address gives what an unlisted address reads as. -/
theorem Memory.read_below (m : Memory) (a : Nat) (h : ∀ c ∈ m, a < c.1) : Memory.read m a = Memory.empty := by
  induction m with
  | nil => rfl
  | cons c r ih =>
    obtain ⟨k, v⟩ := c
    have hk : k ≠ a := fun e => by have := h (k, v) (by simp); simp [e] at this
    simp only [Memory.read, hk, if_false]
    exact ih fun c hc => h c (by simp [hc])

/-- Every cell that a write leaves is the one written or one that stood before. -/
theorem Memory.mem_write {m : Memory} {a : Nat} {b : Byte} {c : Host.Cell} (h : c ∈ Memory.write m a b) :
    (c = (a, b) ∧ b ≠ Memory.empty) ∨ c ∈ m := by
  induction m with
  | nil =>
    simp only [Memory.write] at h
    split at h <;> simp_all
  | cons d r ih =>
    obtain ⟨k, v⟩ := d
    simp only [Memory.write] at h
    split at h
    · split at h <;> simp_all
    · split at h
      · split at h
        · simp_all
        · rename_i he hb
          rcases List.mem_cons.1 h with rfl | h
          · exact .inl ⟨rfl, hb⟩
          · simp [h]
      · rcases List.mem_cons.1 h with rfl | h
        · simp
        · rcases ih h with h | h <;> simp [h]

/-- A write keeps the canonical form. -/
theorem Memory.write_wf {m : Memory} (h : Memory.wf m) (a : Nat) (b : Byte) : Memory.wf (Memory.write m a b) := by
  refine ⟨?_, fun c hc => ?_⟩
  · induction m with
    | nil => simp only [Memory.write]; split <;> simp
    | cons d r ih =>
      obtain ⟨k, v⟩ := d
      have hr : Memory.wf r := ⟨(List.pairwise_cons.1 h.1).2, fun c hc => h.2 c (by simp [hc])⟩
      have hk := (List.pairwise_cons.1 h.1).1
      simp only [Memory.write]
      split
      · rename_i hlt
        split
        · exact h.1
        · refine List.pairwise_cons.2 ⟨fun c hc => ?_, h.1⟩
          rcases List.mem_cons.1 hc with rfl | hc
          · exact hlt
          · exact Nat.lt_trans hlt (hk c hc)
      · split
        · rename_i he
          subst he
          split
          · exact hr.1
          · exact List.pairwise_cons.2 ⟨hk, hr.1⟩
        · rename_i hlt hne
          refine List.pairwise_cons.2 ⟨fun c hc => ?_, ih hr⟩
          rcases Memory.mem_write hc with ⟨rfl, -⟩ | hc
          · simp only; omega
          · exact hk c hc
  · rcases Memory.mem_write hc with ⟨rfl, hb⟩ | hc
    · exact hb
    · exact h.2 c hc

/-- Writing a log keeps the canonical form. -/
theorem Memory.apply_wf {m : Memory} (h : Memory.wf m) (log : List Host.Cell) : Memory.wf (Memory.apply m log) := by
  induction log with
  | nil => exact h
  | cons c r ih => exact Memory.write_wf ih c.1 c.2

/-- Dropping cells keeps the canonical form. -/
theorem Memory.filter_wf {m : Memory} (h : Memory.wf m) (f : Host.Cell → Bool) : Memory.wf (m.filter f) :=
  ⟨h.1.filter f, fun c hc => h.2 c (List.mem_of_mem_filter hc)⟩

/-- Clearing ranges keeps the canonical form. -/
theorem Memory.wipe_wf {m : Memory} (h : Memory.wf m) (rs : List (Nat × Nat)) : Memory.wf (Memory.wipe m rs) := by
  unfold Memory.wipe
  split
  · exact h
  · exact Memory.filter_wf h _

/-- A byte reads back as written. -/
theorem Memory.read_write_same {m : Memory} (h : Memory.wf m) (a : Nat) (b : Byte) : Memory.read (Memory.write m a b) a = b := by
  induction m with
  | nil =>
    simp only [Memory.write]
    split
    · simp_all
    · simp [Memory.read]
  | cons d r ih =>
    obtain ⟨k, v⟩ := d
    have hr : Memory.wf r := ⟨(List.pairwise_cons.1 h.1).2, fun c hc => h.2 c (by simp [hc])⟩
    have hk := (List.pairwise_cons.1 h.1).1
    simp only [Memory.write]
    split
    · rename_i hlt
      split
      · rename_i hb
        rw [hb]
        apply Memory.read_below
        intro c hc
        rcases List.mem_cons.1 hc with rfl | hc
        · exact hlt
        · exact Nat.lt_trans hlt (hk c hc)
      · simp [Memory.read]
    · split
      · rename_i he
        subst he
        split
        · rename_i hb
          rw [hb]
          exact Memory.read_below r a hk
        · simp [Memory.read]
      · rename_i hlt hne
        have : k ≠ a := fun e => hne e.symm
        simp only [Memory.read, this, if_false]
        exact ih hr

/-- A write leaves every other byte as it was. -/
theorem Memory.read_write_other {m : Memory} (h : Memory.wf m) {a x : Nat} (b : Byte) (hx : x ≠ a) :
    Memory.read (Memory.write m a b) x = Memory.read m x := by
  induction m with
  | nil =>
    simp only [Memory.write]
    split
    · rfl
    · simp [Memory.read, Ne.symm hx]
  | cons d r ih =>
    obtain ⟨k, v⟩ := d
    have hr : Memory.wf r := ⟨(List.pairwise_cons.1 h.1).2, fun c hc => h.2 c (by simp [hc])⟩
    have hk := (List.pairwise_cons.1 h.1).1
    simp only [Memory.write]
    split
    · split
      · rfl
      · simp [Memory.read, Ne.symm hx]
    · split
      · rename_i he
        subst he
        split
        · rw [Memory.read, if_neg (Ne.symm hx)]
        · simp [Memory.read, Ne.symm hx]
      · simp only [Memory.read]
        split
        · rfl
        · exact ih hr

/-- A log leaves every byte that it does not name as it was. -/
theorem Memory.read_apply_other {m : Memory} (h : Memory.wf m) (log : List Host.Cell) (x : Nat) (hx : ∀ c ∈ log, c.1 ≠ x) :
    Memory.read (Memory.apply m log) x = Memory.read m x := by
  induction log with
  | nil => rfl
  | cons c r ih =>
    have h1 : x ≠ c.1 := fun e => hx c (by simp) e.symm
    have h2 := ih fun d hd => hx d (by simp [hd])
    exact (Memory.read_write_other (Memory.apply_wf h r) c.2 h1).trans h2

/-! ### Tables -/

/-- A key reads back as set. -/
@[simp] theorem Table.get?_set_same {α β : Type} [DecidableEq α] (t : Table α β) (k : α) (v : β) :
    Table.get? (Table.set t k v) k = some v := by
  induction t with
  | nil => simp [Table.set, Table.get?]
  | cons e r ih =>
    obtain ⟨k', v'⟩ := e
    by_cases h : k' = k <;> simp [Table.set, Table.get?, h, ih]

/-- Setting a key leaves every other key as it was. -/
theorem Table.get?_set_other {α β : Type} [DecidableEq α] (t : Table α β) {k x : α} (v : β) (h : x ≠ k) :
    Table.get? (Table.set t k v) x = Table.get? t x := by
  induction t with
  | nil => simp [Table.set, Table.get?, Ne.symm h]
  | cons e r ih =>
    obtain ⟨k', v'⟩ := e
    by_cases hk : k' = k
    · subst hk; simp [Table.set, Table.get?, Ne.symm h]
    · simp only [Table.set, Table.get?, hk, if_false, ih]

/-- Setting a key to the value that it has changes nothing. -/
theorem Table.set_get {α β : Type} [DecidableEq α] (t : Table α β) (k : α) (v : β) (h : Table.get? t k = some v) :
    Table.set t k v = t := by
  induction t with
  | nil => simp [Table.get?] at h
  | cons e r ih =>
    obtain ⟨k', v'⟩ := e
    by_cases hk : k' = k
    · subst hk; simp_all [Table.set, Table.get?]
    · simp_all [Table.set, Table.get?]

end Sys2Proof.Machine
end

