-- ==== Sys2Proof/Laws/Run.lean ====
section
/-! SUPPORT. How a meaning runs: the parts of `M`, and what `perform`, `onPack`, `laneOp` and `event` answer. -/

namespace Sys2Proof.Machine

/-! ### The parts of a meaning -/

/-- A part that completes hands its value on. -/
theorem run_bind_ok {α β : Type} {m : M α} {f : α → M β} {w w' : W} {a : α} (h : m w = .ok a w') :
    (m >>= f) w = f a w' := by
  show EStateM.bind m f w = _
  simp only [EStateM.bind, h]

/-- A part that stops stops the whole. -/
theorem run_bind_error {α β : Type} {m : M α} {f : α → M β} {w w' : W} {e : Stop} (h : m w = .error e w') :
    (m >>= f) w = .error e w' := by
  show EStateM.bind m f w = _
  simp only [EStateM.bind, h]

@[simp] theorem run_pure {α : Type} (a : α) (w : W) : (pure a : M α) w = .ok a w := rfl
@[simp] theorem run_throw {α : Type} (e : Stop) (w : W) : (throw e : M α) w = .error e w := rfl
@[simp] theorem run_trapM {α : Type} (c : Nat) (v : Word) (w : W) : (trapM c v : M α) w = .error (.trap c v none none) w := rfl
@[simp] theorem run_blockM {α : Type} (y : Wait) (w : W) : (blockM y : M α) w = .error (.block y) w := rfl
@[simp] theorem run_notNow {α : Type} (w : W) : (notNow : M α) w = .error (.code 0) w := rfl
@[simp] theorem run_get (w : W) : (get : M W) w = .ok w w := rfl
@[simp] theorem run_modify (f : W → W) (w : W) : (modify f : M Unit) w = .ok () (f w) := rfl
@[simp] theorem run_getS (w : W) : getS w = .ok w.st w := rfl
@[simp] theorem run_setS (s : State) (w : W) : setS s w = .ok () { w with st := s } := rfl
@[simp] theorem run_modS (f : State → State) (w : W) : modS f w = .ok () { w with st := f w.st } := rfl
@[simp] theorem run_getP (w : W) : getP w = .ok (w.st.curPack?.getD {}) w := rfl
@[simp] theorem run_setP (p : Pack) (w : W) : setP p w = .ok () { w with st := w.st.setCurPack p } := rfl
@[simp] theorem run_modP (f : Pack → Pack) (w : W) :
    modP f w = .ok () { w with st := w.st.setCurPack (f (w.st.curPack?.getD {})) } := rfl
@[simp] theorem run_getWho (w : W) : getWho w = .ok w.who w := rfl
@[simp] theorem run_getCtx (w : W) : getCtx w = .ok (w.st.ctx w.who.ctx) w := rfl
@[simp] theorem run_modCtx (f : Ctx → Ctx) (w : W) :
    modCtx f w = .ok () { w with st := w.st.setCtx w.who.ctx (f (w.st.ctx w.who.ctx)) } := rfl
@[simp] theorem run_freshM (w : W) : freshM w = .ok w.st.fresh { w with st := { w.st with fresh := w.st.fresh + 1 } } := rfl
@[simp] theorem run_loadKey (a : Nat) (w : W) : loadKey a w = .ok (view w a) w := rfl
@[simp] theorem run_storeKey (a : Nat) (b : Byte) (w : W) : storeKey a b w = .ok () { w with log := (a, b) :: w.log } := rfl
@[simp] theorem run_keep (w : W) :
    keep w = .ok () { w with keepSt := w.st, keepLog := w.log, keepMarks := w.marks, keepWiped := w.wiped } := rfl

/-- Reading many keys reads each. -/
theorem run_mapM_loadKey (l : List Nat) (w : W) : l.mapM (fun a => loadKey a) w = .ok (l.map (view w)) w := by
  induction l with
  | nil => rfl
  | cons a r ih =>
    rw [List.mapM_cons, run_bind_ok (run_loadKey a w), run_bind_ok ih]; rfl

/-- Reading bytes at a key gives what the meaning sees there. -/
@[simp] theorem run_loadKeys (a n : Nat) (w : W) :
    loadKeys a n w = .ok ((List.range n).map fun i => view w (a + i)) w := by
  have h := run_mapM_loadKey ((List.range n).map (a + ·)) w
  rw [List.mapM_map] at h
  simpa [loadKeys, List.map_map, Function.comp_def] using h

/-- The log of bytes written one after another from a key up, newest first. -/
def writeLog : Nat → List Byte → List Host.Cell → List Host.Cell
  | _, [], l => l
  | a, b :: r, l => writeLog (a + 1) r ((a, b) :: l)

/-- Writing bytes at a key logs each. -/
@[simp] theorem run_storeKeys (a : Nat) (bs : List Byte) (w : W) :
    storeKeys a bs w = .ok () { w with log := writeLog a bs w.log } := by
  induction bs generalizing a w with
  | nil => rfl
  | cons b r ih => rw [storeKeys, run_bind_ok (run_storeKey a b w), ih]; rfl

/-- Before anything is written a meaning sees memory. -/
@[simp] theorem view_start (s : State) (who : Who) (i : Instr) (a : Nat) : view (startW s who i) a = Memory.read s.mem a := rfl

@[simp] theorem startW_st (s : State) (who : Who) (i : Instr) : (startW s who i).st = s := rfl
@[simp] theorem startW_who (s : State) (who : Who) (i : Instr) : (startW s who i).who = who := rfl
@[simp] theorem startW_instr (s : State) (who : Who) (i : Instr) : (startW s who i).instr = i := rfl
@[simp] theorem startW_log (s : State) (who : Who) (i : Instr) : (startW s who i).log = [] := rfl
@[simp] theorem startW_marks (s : State) (who : Who) (i : Instr) : (startW s who i).marks = [] := rfl
@[simp] theorem startW_wiped (s : State) (who : Who) (i : Instr) : (startW s who i).wiped = [] := rfl

/-! ### The end of a meaning -/

/-- Nothing staged where nothing is written. -/
@[simp] theorem stageOld_nil (m : Memory) (d : Device) : stageOld m [] [] d = d := by
  unfold stageOld
  cases h : d.snapshot with
  | none => rfl
  | some n => cases d; simp_all

/-- Nothing covers a word where nothing is written. -/
theorem coversWord_nil (covered : List Nat) (u : Nat) : coversWord [] covered u = false := by
  simp [coversWord]

/-- A meaning that wrote no memory leaves memory as it was. -/
theorem finish_plain (s0 : State) (w : W) (hl : w.log = []) (hw : w.wiped = []) (hm : w.marks = []) :
    finish s0 w = { w.st with mem := s0.mem } := by
  simp [finish, hl, hw, hm, Memory.apply, Memory.wipe, coversWord_nil, touchedBytes, Touched.andBytes]

/-- Marking units leaves every field but the poison. -/
theorem foldl_marks_mem (l : List MemUnit) (s : State) : (l.foldl State.mark s).mem = s.mem := by
  induction l generalizing s with
  | nil => rfl
  | cons u r ih => rw [List.foldl_cons, ih]; cases u <;> rfl

/-- What memory is after a meaning: the bytes it cleared and then the bytes it wrote. -/
theorem finish_mem (s0 : State) (w : W) : (finish s0 w).mem = Memory.apply (Memory.wipe s0.mem w.wiped) w.log := by
  rw [finish, foldl_marks_mem]

/-- A meaning keeps memory in its canonical form, and nobody is issuing after it. -/
theorem finishIssue_inv (s0 : State) (w : W) (h : Memory.wf s0.mem) :
    Memory.wf (finishIssue s0 w).mem ∧ (finishIssue s0 w).cur = none := by
  refine ⟨?_, rfl⟩
  show Memory.wf (finish s0 w).mem
  rw [finish_mem]
  exact Memory.apply_wf (Memory.wipe_wf h _) _

/-- A meaning that wrote no memory, when it ends. -/
theorem finishIssue_plain (s0 : State) (w : W) (hl : w.log = []) (hw : w.wiped = []) (hm : w.marks = []) :
    finishIssue s0 w = { w.st with mem := s0.mem, cur := none } := by
  rw [finishIssue, finish_plain s0 w hl hw hm]

/-! ### What an instruction and an event answer -/

/-- A meaning that completes. -/
theorem perform_ok {i : Instr} {m : M Unit} {s : State} {k : Nat × Nat} {p : Pack} {w : W} (hk : s.cur = some k)
    (hp : s.curPack? = some p) (h : m (startW s (issuer k p) i) = .ok () w) : perform i m s = .next (finishIssue s w) := by
  unfold perform
  simp only [hk, hp]
  rw [h]

/-- A stop that is handled is handled at once. -/
theorem run_stopM {e : Stop} {w w' : W} (h : handleStop e w = .ok () w') : stopM e w = .ok () w' := by
  show EStateM.tryCatch (handleStop e) _ w = _
  simp only [EStateM.tryCatch, h]

/-- A meaning that stops, and what becomes of it. -/
theorem perform_stop {i : Instr} {m : M Unit} {s : State} {k : Nat × Nat} {p : Pack} {w w' : W} {e : Stop}
    (hk : s.cur = some k) (hp : s.curPack? = some p) (h : m (startW s (issuer k p) i) = .error e w)
    (h' : handleStop e (kept w) = .ok () w') : perform i m s = .next (finishIssue s w') := by
  unfold perform
  simp only [hk, hp]
  rw [h]
  simp only [run_stopM h']

/-- A meaning of an instruction word answers a next state that keeps what every step keeps, wherever a pack is issuing. -/
theorem perform_inv {i : Instr} {m : M Unit} {s t : State} (hw : Memory.wf s.mem) (h : perform i m s = .next t) :
    Memory.wf t.mem ∧ t.cur = none := by
  unfold perform at h
  split at h
  · split at h
    · cases h; exact finishIssue_inv _ _ hw
    · split at h <;> cases h <;> exact finishIssue_inv _ _ hw
  · cases h

/-- The same of a meaning that only changes its pack. -/
theorem onPack_inv {s t : State} {f : Pack → Pack} (hw : Memory.wf s.mem) (h : onPack s f = .next t) :
    Memory.wf t.mem ∧ t.cur = none := by
  unfold onPack at h
  split at h
  · cases h; exact ⟨by simpa using hw, rfl⟩
  · cases h

/-- The same of a lane instruction. -/
theorem laneOp_inv {i : Instr} {eff : Pack → Pack} {s t : State} (hw : Memory.wf s.mem) (h : laneOp i eff s = .next t) :
    Memory.wf t.mem ∧ t.cur = none := by
  unfold laneOp at h
  split at h
  · cases h
  · split at h
    · cases h; exact ⟨by simpa using hw, rfl⟩
    · exact perform_inv hw h

/-- The same of an event, from a state in which nobody is issuing. -/
theorem event_inv {s t : State} {m : M Unit} (hw : Memory.wf s.mem) (hc : s.cur = none) (h : event s m = .next t) :
    Memory.wf t.mem ∧ t.cur = none := by
  unfold event at h
  split at h
  · cases h; exact ⟨hw, hc⟩
  · split at h <;> cases h <;> exact finishIssue_inv _ _ hw

/-- An event always answers a next state. -/
theorem event_goes (s : State) (m : M Unit) : ∃ t, event s m = .next t := by
  unfold event
  split
  · exact ⟨_, rfl⟩
  · split <;> exact ⟨_, rfl⟩

/-- An instruction word always answers a next state where a pack is issuing. -/
theorem perform_goes (i : Instr) (m : M Unit) (s : State) (p : Pack) (h : s.curPack? = some p) :
    ∃ t, perform i m s = .next t := by
  unfold perform
  have hc : ∃ k, s.cur = some k := by
    cases hk : s.cur with
    | none => simp [State.curPack?, hk] at h
    | some k => exact ⟨k, rfl⟩
  obtain ⟨k, hk⟩ := hc
  simp only [hk, h]
  split
  · exact ⟨_, rfl⟩
  · split <;> exact ⟨_, rfl⟩

/-- An event that runs to its end. -/
theorem event_ok {s : State} {m : M Unit} {w : W} (ht : s.dev.tripped = false)
    (h : m (startW s noWho (.nop {})) = .ok () w) :
    event s m = .next (finishIssue s w) := by
  unfold event
  rw [ht]
  simp only [Bool.false_eq_true, if_false]
  rw [h]

/-- A lane instruction whose operands pass their checks. -/
theorem laneOp_go {i : Instr} {eff : Pack → Pack} {s : State} {p : Pack} (hp : s.curPack? = some p)
    (h : operandCheck i p = .go) : laneOp i eff s = .next { s.setCurPack (eff p) with cur := none } := by
  unfold laneOp
  simp only [hp, h]

/-- A meaning that only changes its pack. -/
theorem onPack_next {s : State} {p : Pack} (f : Pack → Pack) (hp : s.curPack? = some p) :
    onPack s f = .next { s.setCurPack (f p) with cur := none } := by
  unfold onPack
  simp only [hp]

end Sys2Proof.Machine
end

