-- ==== Sys2Proof/Laws/LaneOps.lean ====
section
/-! SUPPORT. From a lane instruction's update of its pack to what the claims say of it: registers written, predicates set, and the
element-by-element operations. -/

namespace Sys2Proof.Machine

theorem takes_iff (p : Pack) (o : Opnd) (l : Nat) : takes p o l = true ↔ l < p.width ∧ (p.part o).getLsbD l = true := by
  simp [takes]

/-- A lane that takes part has a bit in a mask. -/
theorem takes_lt (p : Pack) (o : Opnd) (l : Nat) (h : takes p o l = true) : l < p.width ∧ l < 1024 := by
  have h := (takes_iff p o l).1 h
  refine ⟨h.1, ?_⟩
  by_contra hn
  rw [BitVec.getLsbD_of_ge _ _ (by omega)] at h
  exact absurd h.2 (by simp)

/-- The participating lanes are those that take part. -/
theorem mem_partList (p : Pack) (o : Opnd) (l : Nat) : l ∈ p.partList o ↔ takes p o l = true := by
  rw [Pack.mem_partList, takes_iff]

theorem partList_contains (p : Pack) (o : Opnd) (l : Nat) : (p.partList o).contains l = takes p o l := by
  rw [Bool.eq_iff_iff, List.contains_iff_mem, mem_partList]

/-- The participating lanes in ascending order. -/
theorem partList_eq (p : Pack) (o : Opnd) : p.partList o = (List.range p.width).filter (takes p o) := by
  unfold Pack.partList lanesOf
  apply List.filter_congr
  intro l hl
  simp [takes, List.mem_range.1 hl]

/-- A lane after an update of the participating lanes. -/
theorem onLanes_lane (p : Pack) (o : Opnd) (f : Nat → Lane → Lane) (l : Nat) :
    (p.onLanes (p.part o) f).lane l = if takes p o l then f l (p.lane l) else p.lane l := by
  rw [Pack.lane_onLanes]
  simp only [takes_iff]

/-- A lane after values have been written lane by lane. -/
theorem writeLanes_lane (p : Pack) (vd c : Nat) (xs : List (Nat × Nat)) (l : Nat) :
    (p.writeLanes vd c xs).lane l = match xs.find? (fun e => e.1 == l) with
      | some e => if l < p.width ∧ l < 1024 then (p.lane l).writeV vd c e.2 else p.lane l
      | none => p.lane l := by
  unfold Pack.writeLanes
  rw [Pack.lane_onLanes, getLsbD_maskOf]
  cases h : xs.find? (fun e => e.1 == l) with
  | none => simp
  | some e =>
    have hm := List.mem_of_find?_eq_some h
    have he := List.find?_some h
    simp only [beq_iff_eq] at he
    have : (xs.map (·.1)).contains l = true := by
      simp only [List.contains_iff_mem, List.mem_map]; exact ⟨e, hm, he⟩
    rw [this]
    simp only [Bool.and_true, decide_eq_true_eq]

/-- An update that writes registers in participating lanes. -/
theorem laneWrites_of {s : State} {p : Pack} {o : Opnd} {i : Instr} {eff : Pack → Pack} {vd c : Nat} {val : Nat → Option Nat}
    (hp : s.curPack? = some p) (he : exec i s = laneOp i (fun p => (eff p).next o) s) (hc : operandCheck i p = .go)
    (hf : eff p = { p with lanes := (eff p).lanes })
    (hl : ∀ l, (eff p).lane l =
      if takes p o l then (match val l with | some x => (p.lane l).writeV vd c x | none => p.lane l) else p.lane l) :
    LaneWrites s p o i vd c val := by
  refine ⟨(eff p).next o, ?_, ?_, ?_, ?_⟩
  · rw [he, laneOp_go hp hc]; rfl
  · unfold LanesOnly; rw [hf]; rfl
  · intro l
    rw [Pack.lane_next, hl]
    split
    · cases val l <;> simp
    · simp
  · intro l k
    rw [Pack.lane_next, hl]
    by_cases ht : takes p o l = true
    · simp only [ht, true_and, if_true]
      cases hv : val l with
      | none => simp
      | some x =>
        by_cases hk : vd ≤ k ∧ k < vd + c
        · obtain ⟨j, rfl⟩ := Nat.exists_eq_add_of_le hk.1
          simp only [hk]
          rw [Lane.reg_writeV_same _ _ _ _ (by omega)]
          simp
        · simp only [hk, if_false, Option.map_none, Option.getD_none]
          exact Lane.reg_writeV_other _ _ _ _ (by omega)
    · simp [ht]

/-- The same where the value is a function of the lane. -/
theorem laneWrites_map {s : State} {p : Pack} {o : Opnd} {i : Instr} {eff : Pack → Pack} {vd c : Nat} {val : Nat → Nat}
    (hp : s.curPack? = some p) (he : exec i s = laneOp i (fun p => (eff p).next o) s) (f : Nat → Lane → Nat)
    (hf : eff p = p.onLanes (p.part o) fun l ln => ln.writeV vd c (f l ln)) (hc : operandCheck i p = .go)
    (hv : ∀ l, takes p o l = true → f l (p.lane l) = val l) : LaneWrites s p o i vd c fun l => some (val l) := by
  refine laneWrites_of hp he hc (by rw [hf]; rfl) fun l => ?_
  rw [hf, onLanes_lane]
  split
  · rename_i h; rw [hv l h]
  · rfl

/-- The same where the values are listed by lane. -/
theorem laneWrites_list {s : State} {p : Pack} {o : Opnd} {i : Instr} {eff : Pack → Pack} {vd c : Nat} {val : Nat → Option Nat}
    (hp : s.curPack? = some p) (he : exec i s = laneOp i (fun p => (eff p).next o) s) (xs : List (Nat × Nat))
    (hf : eff p = p.writeLanes vd c xs) (hc : operandCheck i p = .go)
    (hx : ∀ l, takes p o l = true → (xs.find? (fun e => e.1 == l)).map (·.2) = val l)
    (hn : ∀ e ∈ xs, takes p o e.1 = true) : LaneWrites s p o i vd c val := by
  refine laneWrites_of hp he hc (by rw [hf]; rfl) fun l => ?_
  rw [hf, writeLanes_lane]
  cases h : xs.find? (fun e => e.1 == l) with
  | none =>
    by_cases ht : takes p o l = true
    · have := hx l ht
      rw [h] at this
      simp [← this]
    · simp [ht]
  | some e =>
    have hm := List.mem_of_find?_eq_some h
    have he := List.find?_some h
    simp only [beq_iff_eq] at he
    have ht := hn e hm
    rw [he] at ht
    have hv := hx l ht
    rw [h] at hv
    simp only [Option.map_some] at hv
    simp [ht, ← hv, takes_lt p o l ht]

/-- The value that a list made lane by lane gives a lane. -/
theorem find_mapLanes (ls : List Nat) (f : Nat → Nat) (l : Nat) (h : l ∈ ls) :
    ((ls.map fun l => (l, f l)).find? (fun e => e.1 == l)).map (·.2) = some (f l) := by
  induction ls with
  | nil => simp at h
  | cons a r ih =>
    rw [List.map_cons, List.find?_cons]
    by_cases ha : a = l
    · simp [ha]
    · have : l ∈ r := by simpa [Ne.symm ha] using h
      rw [show (a == l) = false from beq_eq_false_iff_ne.mpr ha]
      exact ih this

/-- An update that sets predicates in participating lanes. -/
theorem laneSets_of {s : State} {p : Pack} {o : Opnd} {i : Instr} {eff : Pack → Pack} {val : Nat → Nat → Option Bool}
    (hp : s.curPack? = some p) (he : exec i s = laneOp i (fun p => (eff p).next o) s) (hc : operandCheck i p = .go)
    (f : Nat → Lane → Lane) (hf : eff p = p.onLanes (p.part o) f)
    (hv : ∀ l ln, (f l ln).v = ln.v ∧ (f l ln).item = ln.item)
    (hl : ∀ l k, k < 8 → (f l (p.lane l)).pred k = (val l k).getD ((p.lane l).pred k)) : LaneSets s p o i val := by
  refine ⟨(eff p).next o, ?_, ?_, ?_, ?_⟩
  · rw [he, laneOp_go hp hc]; rfl
  · unfold LanesOnly; rw [hf]; rfl
  · intro l
    rw [Pack.lane_next, hf, onLanes_lane]
    split
    · exact hv _ _
    · simp
  · intro l k hk
    rw [Pack.lane_next, hf, onLanes_lane]
    split <;> simp [hl _ _ hk]

/-- The same for predicate D. -/
theorem laneSets_predD {s : State} {p : Pack} {o : Opnd} {i : Instr} {eff : Pack → Pack} {val : Nat → Bool}
    (hp : s.curPack? = some p) (he : exec i s = laneOp i (fun p => (eff p).next o) s) (hc : operandCheck i p = .go)
    (f : Nat → Lane → Bool) (hf : eff p = p.onLanes (p.part o) fun l ln => ln.setPred o.d.toNat (f l ln))
    (hl : ∀ l, f l (p.lane l) = val l) : LaneSets s p o i fun l => predD o (val l) := by
  refine laneSets_of hp he hc _ hf (fun _ _ => ⟨rfl, rfl⟩) ?_
  intro l k hk
  rw [Lane.pred_setPred _ _ _ _ hk, hl]
  unfold predD; split <;> simp

/-- An update that writes a list of elements in each participating lane. -/
theorem elementwise_of {s : State} {p : Pack} {o : Opnd} {i : Instr} {eff : Pack → Pack} {n c : Nat}
    {f : Nat → Nat → Nat → Nat} (es : Lane → List Nat) (hp : s.curPack? = some p)
    (he : exec i s = laneOp i (fun p => (eff p).next o) s) (hc : operandCheck i p = .go)
    (hf : eff p = p.onLanes (p.part o) fun _ ln => ln.writeV o.vd c (joinElems n (es ln)))
    (hlen : ∀ ln, (es ln).length = 32 * c / n)
    (hes : ∀ ln e (h : e < (es ln).length), (es ln)[e] =
      f (elem n (ln.readV o.va c) e) (elem n (bValue o c ln) e) (elem n (ln.readV o.vc c) e)) :
    Elementwise s p o i n c f := by
  refine ⟨fun l => joinElems n (es (p.lane l)), laneWrites_of hp he hc ?_ ?_, ?_⟩
  · rw [hf]; rfl
  · intro l; rw [hf, onLanes_lane]
  · intro l e h
    rw [elem_joinElems _ _ _ (by rw [hlen]; exact h), hes]

/-- One source. -/
theorem elementwise_map1 {s : State} {p : Pack} {o : Opnd} {i : Instr} {n c : Nat} {eff : Pack → Pack} {f : Nat → Nat}
    {g : Nat → Nat → Nat → Nat} (hp : s.curPack? = some p) (he : exec i s = laneOp i (fun p => (eff p).next o) s)
    (hf : eff p = p.onLanes (p.part o) fun _ ln => mapElems1 n c o f ln) (hg : ∀ a b c, a < 2 ^ n → f a = g a b c)
    (hc : operandCheck i p = .go) : Elementwise s p o i n c g := by
  refine elementwise_of (fun ln => ((elems n (32 * c / n) (ln.readV o.va c)).map f)) hp he hc hf (by simp) ?_
  intro ln e h
  simp only [elems, List.getElem_map, List.getElem_range]
  exact hg _ _ _ (Nat.mod_lt _ (Nat.two_pow_pos n))

/-- Two sources. -/
theorem elementwise_map2 {s : State} {p : Pack} {o : Opnd} {i : Instr} {n c : Nat} {eff : Pack → Pack} {f : Nat → Nat → Nat}
    {g : Nat → Nat → Nat → Nat} (hp : s.curPack? = some p) (he : exec i s = laneOp i (fun p => (eff p).next o) s)
    (hf : eff p = p.onLanes (p.part o) fun _ ln => mapElems2 n c o f ln) (hg : ∀ a b c, f a b = g a b c)
    (hc : operandCheck i p = .go) : Elementwise s p o i n c g := by
  refine elementwise_of (fun ln => (List.zipWith f (elems n (32 * c / n) (ln.readV o.va c))
    (elems n (32 * c / n) (bValue o c ln)))) hp he hc hf (by simp) ?_
  intro ln e h
  simp only [elems, List.getElem_zipWith, List.getElem_map, List.getElem_range]
  exact hg _ _ _

/-- Three sources. -/
theorem elementwise_map3 {s : State} {p : Pack} {o : Opnd} {i : Instr} {n c : Nat} {eff : Pack → Pack}
    {g : Nat → Nat → Nat → Nat} (hp : s.curPack? = some p) (he : exec i s = laneOp i (fun p => (eff p).next o) s)
    (hf : eff p = p.onLanes (p.part o) fun _ ln => mapElems3 n c o g ln) (hc : operandCheck i p = .go) :
    Elementwise s p o i n c g := by
  refine elementwise_of (fun ln => ((List.range (32 * c / n)).map fun e =>
    g (elem n (ln.readV o.va c) e) (elem n (bValue o c ln) e) (elem n (ln.readV o.vc c) e))) hp he hc hf (by simp) ?_
  intro ln e h
  simp

/-- A lane instruction that writes a general register. -/
theorem laneWritesD {s : State} {p : Pack} {o : Opnd} {i : Instr} {eff : Pack → Pack} {v : Word}
    (hp : s.curPack? = some p) (he : exec i s = laneOp i (fun p => (eff p).next o) s) (hc : operandCheck i p = .go)
    (hf : eff p = p.writeG o.d.toNat v) : WritesD s p o i v := by
  refine ⟨(p.writeG o.d.toNat v).next o, ?_, ?_, ?_⟩
  · rw [he, laneOp_go hp hc, hf]; rfl
  · intro r; simp [Pack.readG_writeG]
  · rw [Pack.writeG_eq]; rfl

end Sys2Proof.Machine
end

