-- ==== Sys2Proof/Laws/PerInstr.lean ====
section
/-! SUPPORT. The opcode map (spec/02_encoding.md R43) read both ways, one lemma per constructor: `wordOf` and `ofOpcode` agree, and a
row without an encoding has no words. -/

namespace Sys2Proof.Laws.OpcodeMap

open Sys2Proof.Machine

/-- The constructor's major opcode leads back to it and fits the opcode field; an event has no words. -/
def Statement (i : Instr) : Prop :=
  match wordOf i with
  | some (op, o) => ofOpcode op o = some i ∧ op < 256
  | none => encode i = []

theorem add (o : Opnd) : Statement (.add o) := ⟨rfl, by decide⟩
theorem sub (o : Opnd) : Statement (.sub o) := ⟨rfl, by decide⟩
theorem mul (o : Opnd) : Statement (.mul o) := ⟨rfl, by decide⟩
theorem mulh (o : Opnd) : Statement (.mulh o) := ⟨rfl, by decide⟩
theorem div (o : Opnd) : Statement (.div o) := ⟨rfl, by decide⟩
theorem rem (o : Opnd) : Statement (.rem o) := ⟨rfl, by decide⟩
theorem min (o : Opnd) : Statement (.min o) := ⟨rfl, by decide⟩
theorem max (o : Opnd) : Statement (.max o) := ⟨rfl, by decide⟩
theorem and (o : Opnd) : Statement (.and o) := ⟨rfl, by decide⟩
theorem or (o : Opnd) : Statement (.or o) := ⟨rfl, by decide⟩
theorem xor (o : Opnd) : Statement (.xor o) := ⟨rfl, by decide⟩
theorem andn (o : Opnd) : Statement (.andn o) := ⟨rfl, by decide⟩
theorem shl (o : Opnd) : Statement (.shl o) := ⟨rfl, by decide⟩
theorem shr (o : Opnd) : Statement (.shr o) := ⟨rfl, by decide⟩
theorem sar (o : Opnd) : Statement (.sar o) := ⟨rfl, by decide⟩
theorem rol (o : Opnd) : Statement (.rol o) := ⟨rfl, by decide⟩
theorem clz (o : Opnd) : Statement (.clz o) := ⟨rfl, by decide⟩
theorem ctz (o : Opnd) : Statement (.ctz o) := ⟨rfl, by decide⟩
theorem popc (o : Opnd) : Statement (.popc o) := ⟨rfl, by decide⟩
theorem brev (o : Opnd) : Statement (.brev o) := ⟨rfl, by decide⟩
theorem sext (o : Opnd) : Statement (.sext o) := ⟨rfl, by decide⟩
theorem zext (o : Opnd) : Statement (.zext o) := ⟨rfl, by decide⟩
theorem bfx (o : Opnd) : Statement (.bfx o) := ⟨rfl, by decide⟩
theorem bfi (o : Opnd) : Statement (.bfi o) := ⟨rfl, by decide⟩
theorem setc (o : Opnd) : Statement (.setc o) := ⟨rfl, by decide⟩
theorem sel (o : Opnd) : Statement (.sel o) := ⟨rfl, by decide⟩
theorem lea (o : Opnd) : Statement (.lea o) := ⟨rfl, by decide⟩
theorem mov (o : Opnd) : Statement (.mov o) := ⟨rfl, by decide⟩
theorem br (o : Opnd) : Statement (.br o) := ⟨rfl, by decide⟩
theorem bz (o : Opnd) : Statement (.bz o) := ⟨rfl, by decide⟩
theorem bnz (o : Opnd) : Statement (.bnz o) := ⟨rfl, by decide⟩
theorem bcc (o : Opnd) : Statement (.bcc o) := ⟨rfl, by decide⟩
theorem call (o : Opnd) : Statement (.call o) := ⟨rfl, by decide⟩
theorem callr (o : Opnd) : Statement (.callr o) := ⟨rfl, by decide⟩
theorem jmp (o : Opnd) : Statement (.jmp o) := ⟨rfl, by decide⟩
theorem ret (o : Opnd) : Statement (.ret o) := ⟨rfl, by decide⟩
theorem loop (o : Opnd) : Statement (.loop o) := ⟨rfl, by decide⟩
theorem fadd (o : Opnd) : Statement (.fadd o) := ⟨rfl, by decide⟩
theorem fsub (o : Opnd) : Statement (.fsub o) := ⟨rfl, by decide⟩
theorem fmul (o : Opnd) : Statement (.fmul o) := ⟨rfl, by decide⟩
theorem ffma (o : Opnd) : Statement (.ffma o) := ⟨rfl, by decide⟩
theorem fdiv (o : Opnd) : Statement (.fdiv o) := ⟨rfl, by decide⟩
theorem fsqrt (o : Opnd) : Statement (.fsqrt o) := ⟨rfl, by decide⟩
theorem fmin (o : Opnd) : Statement (.fmin o) := ⟨rfl, by decide⟩
theorem fmax (o : Opnd) : Statement (.fmax o) := ⟨rfl, by decide⟩
theorem fsetc (o : Opnd) : Statement (.fsetc o) := ⟨rfl, by decide⟩
theorem fcvt (o : Opnd) : Statement (.fcvt o) := ⟨rfl, by decide⟩
theorem fclass (o : Opnd) : Statement (.fclass o) := ⟨rfl, by decide⟩
theorem ld (o : Opnd) : Statement (.ld o) := ⟨rfl, by decide⟩
theorem st (o : Opnd) : Statement (.st o) := ⟨rfl, by decide⟩
theorem amo (o : Opnd) : Statement (.amo o) := ⟨rfl, by decide⟩
theorem vadd (o : Opnd) : Statement (.vadd o) := ⟨rfl, by decide⟩
theorem vsub (o : Opnd) : Statement (.vsub o) := ⟨rfl, by decide⟩
theorem vmul (o : Opnd) : Statement (.vmul o) := ⟨rfl, by decide⟩
theorem vmulh (o : Opnd) : Statement (.vmulh o) := ⟨rfl, by decide⟩
theorem vmad (o : Opnd) : Statement (.vmad o) := ⟨rfl, by decide⟩
theorem vmin (o : Opnd) : Statement (.vmin o) := ⟨rfl, by decide⟩
theorem vmax (o : Opnd) : Statement (.vmax o) := ⟨rfl, by decide⟩
theorem vabs (o : Opnd) : Statement (.vabs o) := ⟨rfl, by decide⟩
theorem vneg (o : Opnd) : Statement (.vneg o) := ⟨rfl, by decide⟩
theorem vand (o : Opnd) : Statement (.vand o) := ⟨rfl, by decide⟩
theorem vor (o : Opnd) : Statement (.vor o) := ⟨rfl, by decide⟩
theorem vxor (o : Opnd) : Statement (.vxor o) := ⟨rfl, by decide⟩
theorem vnot (o : Opnd) : Statement (.vnot o) := ⟨rfl, by decide⟩
theorem vshl (o : Opnd) : Statement (.vshl o) := ⟨rfl, by decide⟩
theorem vshr (o : Opnd) : Statement (.vshr o) := ⟨rfl, by decide⟩
theorem vsar (o : Opnd) : Statement (.vsar o) := ⟨rfl, by decide⟩
theorem vclz (o : Opnd) : Statement (.vclz o) := ⟨rfl, by decide⟩
theorem vpopc (o : Opnd) : Statement (.vpopc o) := ⟨rfl, by decide⟩
theorem vbfx (o : Opnd) : Statement (.vbfx o) := ⟨rfl, by decide⟩
theorem vbfi (o : Opnd) : Statement (.vbfi o) := ⟨rfl, by decide⟩
theorem vsetc (o : Opnd) : Statement (.vsetc o) := ⟨rfl, by decide⟩
theorem vsel (o : Opnd) : Statement (.vsel o) := ⟨rfl, by decide⟩
theorem vsat (o : Opnd) : Statement (.vsat o) := ⟨rfl, by decide⟩
theorem vmov (o : Opnd) : Statement (.vmov o) := ⟨rfl, by decide⟩
theorem vmovx (o : Opnd) : Statement (.vmovx o) := ⟨rfl, by decide⟩
theorem vmovxw (o : Opnd) : Statement (.vmovxw o) := ⟨rfl, by decide⟩
theorem vbytp (o : Opnd) : Statement (.vbytp o) := ⟨rfl, by decide⟩
theorem vfadd (o : Opnd) : Statement (.vfadd o) := ⟨rfl, by decide⟩
theorem vfsub (o : Opnd) : Statement (.vfsub o) := ⟨rfl, by decide⟩
theorem vfmul (o : Opnd) : Statement (.vfmul o) := ⟨rfl, by decide⟩
theorem vffma (o : Opnd) : Statement (.vffma o) := ⟨rfl, by decide⟩
theorem vfmin (o : Opnd) : Statement (.vfmin o) := ⟨rfl, by decide⟩
theorem vfmax (o : Opnd) : Statement (.vfmax o) := ⟨rfl, by decide⟩
theorem vfsetc (o : Opnd) : Statement (.vfsetc o) := ⟨rfl, by decide⟩
theorem vfdiv (o : Opnd) : Statement (.vfdiv o) := ⟨rfl, by decide⟩
theorem vfsqrt (o : Opnd) : Statement (.vfsqrt o) := ⟨rfl, by decide⟩
theorem vrcp (o : Opnd) : Statement (.vrcp o) := ⟨rfl, by decide⟩
theorem vrsq (o : Opnd) : Statement (.vrsq o) := ⟨rfl, by decide⟩
theorem vexp2 (o : Opnd) : Statement (.vexp2 o) := ⟨rfl, by decide⟩
theorem vlog2 (o : Opnd) : Statement (.vlog2 o) := ⟨rfl, by decide⟩
theorem vsin (o : Opnd) : Statement (.vsin o) := ⟨rfl, by decide⟩
theorem vcos (o : Opnd) : Statement (.vcos o) := ⟨rfl, by decide⟩
theorem vtanh (o : Opnd) : Statement (.vtanh o) := ⟨rfl, by decide⟩
theorem vcvt (o : Opnd) : Statement (.vcvt o) := ⟨rfl, by decide⟩
theorem vfclass (o : Opnd) : Statement (.vfclass o) := ⟨rfl, by decide⟩
theorem venc (o : Opnd) : Statement (.venc o) := ⟨rfl, by decide⟩
theorem vdec (o : Opnd) : Statement (.vdec o) := ⟨rfl, by decide⟩
theorem vbpt (o : Opnd) : Statement (.vbpt o) := ⟨rfl, by decide⟩
theorem vperm (o : Opnd) : Statement (.vperm o) := ⟨rfl, by decide⟩
theorem vshfx (o : Opnd) : Statement (.vshfx o) := ⟨rfl, by decide⟩
theorem vbcast (o : Opnd) : Statement (.vbcast o) := ⟨rfl, by decide⟩
theorem vballot (o : Opnd) : Statement (.vballot o) := ⟨rfl, by decide⟩
theorem vscan (o : Opnd) : Statement (.vscan o) := ⟨rfl, by decide⟩
theorem vred (o : Opnd) : Statement (.vred o) := ⟨rfl, by decide⟩
theorem velect (o : Opnd) : Statement (.velect o) := ⟨rfl, by decide⟩
theorem vrnd (o : Opnd) : Statement (.vrnd o) := ⟨rfl, by decide⟩
theorem kmov (o : Opnd) : Statement (.kmov o) := ⟨rfl, by decide⟩
theorem kop (o : Opnd) : Statement (.kop o) := ⟨rfl, by decide⟩
theorem kpop (o : Opnd) : Statement (.kpop o) := ⟨rfl, by decide⟩
theorem pmov (o : Opnd) : Statement (.pmov o) := ⟨rfl, by decide⟩
theorem pop (o : Opnd) : Statement (.pop o) := ⟨rfl, by decide⟩
theorem wid (o : Opnd) : Statement (.wid o) := ⟨rfl, by decide⟩
theorem laneid (o : Opnd) : Statement (.laneid o) := ⟨rfl, by decide⟩
theorem vbr (o : Opnd) : Statement (.vbr o) := ⟨rfl, by decide⟩
theorem vbrd (o : Opnd) : Statement (.vbrd o) := ⟨rfl, by decide⟩
theorem recv (o : Opnd) : Statement (.recv o) := ⟨rfl, by decide⟩
theorem vbrk (o : Opnd) : Statement (.vbrk o) := ⟨rfl, by decide⟩
theorem issv (o : Opnd) : Statement (.issv o) := ⟨rfl, by decide⟩
theorem flow (o : Opnd) : Statement (.flow o) := ⟨rfl, by decide⟩
theorem frelab (o : Opnd) : Statement (.frelab o) := ⟨rfl, by decide⟩
theorem fdone (o : Opnd) : Statement (.fdone o) := ⟨rfl, by decide⟩
theorem bari (o : Opnd) : Statement (.bari o) := ⟨rfl, by decide⟩
theorem bara (o : Opnd) : Statement (.bara o) := ⟨rfl, by decide⟩
theorem barw (o : Opnd) : Statement (.barw o) := ⟨rfl, by decide⟩
theorem bart (o : Opnd) : Statement (.bart o) := ⟨rfl, by decide⟩
theorem yield (o : Opnd) : Statement (.yield o) := ⟨rfl, by decide⟩
theorem endItems (o : Opnd) : Statement (.endItems o) := ⟨rfl, by decide⟩
theorem vld (o : Opnd) : Statement (.vld o) := ⟨rfl, by decide⟩
theorem vst (o : Opnd) : Statement (.vst o) := ⟨rfl, by decide⟩
theorem vldx (o : Opnd) : Statement (.vldx o) := ⟨rfl, by decide⟩
theorem vstx (o : Opnd) : Statement (.vstx o) := ⟨rfl, by decide⟩
theorem lds (o : Opnd) : Statement (.lds o) := ⟨rfl, by decide⟩
theorem sts (o : Opnd) : Statement (.sts o) := ⟨rfl, by decide⟩
theorem vatom (o : Opnd) : Statement (.vatom o) := ⟨rfl, by decide⟩
theorem xchl (o : Opnd) : Statement (.xchl o) := ⟨rfl, by decide⟩
theorem acq (o : Opnd) : Statement (.acq o) := ⟨rfl, by decide⟩
theorem rel (o : Opnd) : Statement (.rel o) := ⟨rfl, by decide⟩
theorem bind (o : Opnd) : Statement (.bind o) := ⟨rfl, by decide⟩
theorem unbind (o : Opnd) : Statement (.unbind o) := ⟨rfl, by decide⟩
theorem fence (o : Opnd) : Statement (.fence o) := ⟨rfl, by decide⟩
theorem grow (o : Opnd) : Statement (.grow o) := ⟨rfl, by decide⟩
theorem shrink (o : Opnd) : Statement (.shrink o) := ⟨rfl, by decide⟩
theorem pref (o : Opnd) : Statement (.pref o) := ⟨rfl, by decide⟩
theorem hld (o : Opnd) : Statement (.hld o) := ⟨rfl, by decide⟩
theorem hrd (o : Opnd) : Statement (.hrd o) := ⟨rfl, by decide⟩
theorem femk (o : Opnd) : Statement (.femk o) := ⟨rfl, by decide⟩
theorem cpy (o : Opnd) : Statement (.cpy o) := ⟨rfl, by decide⟩
theorem cpym (o : Opnd) : Statement (.cpym o) := ⟨rfl, by decide⟩
theorem gth (o : Opnd) : Statement (.gth o) := ⟨rfl, by decide⟩
theorem mma (o : Opnd) : Statement (.mma o) := ⟨rfl, by decide⟩
theorem mmas (o : Opnd) : Statement (.mmas o) := ⟨rfl, by decide⟩
theorem mzero (o : Opnd) : Statement (.mzero o) := ⟨rfl, by decide⟩
theorem mld (o : Opnd) : Statement (.mld o) := ⟨rfl, by decide⟩
theorem mst (o : Opnd) : Statement (.mst o) := ⟨rfl, by decide⟩
theorem manc (o : Opnd) : Statement (.manc o) := ⟨rfl, by decide⟩
theorem mclose (o : Opnd) : Statement (.mclose o) := ⟨rfl, by decide⟩
theorem wait (o : Opnd) : Statement (.wait o) := ⟨rfl, by decide⟩
theorem astat (o : Opnd) : Statement (.astat o) := ⟨rfl, by decide⟩
theorem coll (o : Opnd) : Statement (.coll o) := ⟨rfl, by decide⟩
theorem scnew (o : Opnd) : Statement (.scnew o) := ⟨rfl, by decide⟩
theorem scfree (o : Opnd) : Statement (.scfree o) := ⟨rfl, by decide⟩
theorem scqry (o : Opnd) : Statement (.scqry o) := ⟨rfl, by decide⟩
theorem scapp (o : Opnd) : Statement (.scapp o) := ⟨rfl, by decide⟩
theorem scml (o : Opnd) : Statement (.scml o) := ⟨rfl, by decide⟩
theorem scsave (o : Opnd) : Statement (.scsave o) := ⟨rfl, by decide⟩
theorem scload (o : Opnd) : Statement (.scload o) := ⟨rfl, by decide⟩
theorem scatt (o : Opnd) : Statement (.scatt o) := ⟨rfl, by decide⟩
theorem scdet (o : Opnd) : Statement (.scdet o) := ⟨rfl, by decide⟩
theorem sccap (o : Opnd) : Statement (.sccap o) := ⟨rfl, by decide⟩
theorem launch (o : Opnd) : Statement (.launch o) := ⟨rfl, by decide⟩
theorem enq (o : Opnd) : Statement (.enq o) := ⟨rfl, by decide⟩
theorem grun (o : Opnd) : Statement (.grun o) := ⟨rfl, by decide⟩
theorem gcommit (o : Opnd) : Statement (.gcommit o) := ⟨rfl, by decide⟩
theorem nop (o : Opnd) : Statement (.nop o) := ⟨rfl, by decide⟩
theorem srd (o : Opnd) : Statement (.srd o) := ⟨rfl, by decide⟩
theorem swr (o : Opnd) : Statement (.swr o) := ⟨rfl, by decide⟩
theorem trap (o : Opnd) : Statement (.trap o) := ⟨rfl, by decide⟩
theorem eret (o : Opnd) : Statement (.eret o) := ⟨rfl, by decide⟩
theorem region (o : Opnd) : Statement (.region o) := ⟨rfl, by decide⟩
theorem chkerr (o : Opnd) : Statement (.chkerr o) := ⟨rfl, by decide⟩
theorem tlbw (o : Opnd) : Statement (.tlbw o) := ⟨rfl, by decide⟩
theorem tlbinv (o : Opnd) : Statement (.tlbinv o) := ⟨rfl, by decide⟩
theorem fresume (o : Opnd) : Statement (.fresume o) := ⟨rfl, by decide⟩
theorem snapt (o : Opnd) : Statement (.snapt o) := ⟨rfl, by decide⟩
theorem repackWindowClose (core n : Nat) : Statement (.repackWindowClose core n) := rfl
theorem barrierWaitRelease (core slot : Nat) : Statement (.barrierWaitRelease core slot) := rfl
theorem fullGranuleWaitRelease (core slot : Nat) : Statement (.fullGranuleWaitRelease core slot) := rfl
theorem engineWaitRelease (core slot : Nat) : Statement (.engineWaitRelease core slot) := rfl
theorem registerFill (core slot n : Nat) : Statement (.registerFill core slot n) := rfl
theorem guardGrant (loc : Nat) : Statement (.guardGrant loc) := rfl
theorem growGrant (core slot : Nat) : Statement (.growGrant core slot) := rfl
theorem growDeadlockPreempt (core : Nat) : Statement (.growDeadlockPreempt core) := rfl
theorem kennelPackRestore (core slot : Nat) : Statement (.kennelPackRestore core slot) := rfl
theorem leashAdmit (core slot : Nat) : Statement (.leashAdmit core slot) := rfl
theorem hostSubmission (cluster off size : Nat) (data : BitVec 512) : Statement (.hostSubmission cluster off size data) := rfl
theorem bankSpill (cluster bank : Nat) : Statement (.bankSpill cluster bank) := rfl
theorem bankRefill (cluster bank : Nat) : Statement (.bankRefill cluster bank) := rfl
theorem kennelTakeRecord (cluster : Nat) : Statement (.kennelTakeRecord cluster) := rfl
theorem argumentBlockRead (launch : Nat) : Statement (.argumentBlockRead launch) := rfl
theorem packStart (cluster core slot n : Nat) : Statement (.packStart cluster core slot n) := rfl
theorem gangStart (cluster core n : Nat) : Statement (.gangStart cluster core n) := rfl
theorem heelRelease (core n : Nat) : Statement (.heelRelease core n) := rfl
theorem launchCompletion (launch : Nat) : Statement (.launchCompletion launch) := rfl
theorem tlbWalkComplete (cluster n : Nat) : Statement (.tlbWalkComplete cluster n) := rfl
theorem walkerStart (core : Nat) : Statement (.walkerStart core) := rfl
theorem copyComplete (cluster n : Nat) : Statement (.copyComplete cluster n) := rfl
theorem gatherComplete (cluster n : Nat) : Statement (.gatherComplete cluster n) := rfl
theorem matrixAfterObserve (core n : Nat) : Statement (.matrixAfterObserve core n) := rfl
theorem matrixOpExecute (core n : Nat) : Statement (.matrixOpExecute core n) := rfl
theorem matrixBatchRetire (core slot : Nat) : Statement (.matrixBatchRetire core slot) := rfl
theorem collComplete (n : Nat) (peers : List PeerRank) : Statement (.collComplete n peers) := rfl
theorem collTimeout (n : Nat) : Statement (.collTimeout n) := rfl
theorem scentSerialPoint (die n : Nat) : Statement (.scentSerialPoint die n) := rfl
theorem faultRecordPost (ctx : Nat) : Statement (.faultRecordPost ctx) := rfl
theorem parkedReplay (core slot : Nat) : Statement (.parkedReplay core slot) := rfl
theorem watchdogExpiry (core slot : Nat) : Statement (.watchdogExpiry core slot) := rfl
theorem preemptionEntry (core slot : Nat) : Statement (.preemptionEntry core slot) := rfl
theorem preemptionComplete (ctx : Nat) : Statement (.preemptionComplete ctx) := rfl
theorem restoreEntry (core n slot : Nat) : Statement (.restoreEntry core n slot) := rfl
theorem regionRestart (core slot : Nat) : Statement (.regionRestart core slot) := rfl
theorem strikeReport (zone : List Nat) : Statement (.strikeReport zone) := rfl
theorem scrubError (unit : MemUnit) : Statement (.scrubError unit) := rfl
theorem planeLoss (plane : Nat) : Statement (.planeLoss plane) := rfl
theorem whistlePin : Statement (.whistlePin) := rfl
theorem snapshotLatch (die : Nat) : Statement (.snapshotLatch die) := rfl
theorem snapshotCopyOnWrite (block : Nat) : Statement (.snapshotCopyOnWrite block) := rfl
theorem snapshotSweep : Statement (.snapshotSweep) := rfl
theorem snapshotComplete : Statement (.snapshotComplete) := rfl
theorem create (c : Command) : Statement (.create c) := rfl
theorem destroy (c : Command) : Statement (.destroy c) := rfl
theorem place (c : Command) : Statement (.place c) := rfl
theorem preempt (c : Command) : Statement (.preempt c) := rfl
theorem restore (c : Command) : Statement (.restore c) := rfl
theorem faultans (c : Command) : Statement (.faultans c) := rfl
theorem cancel (c : Command) : Statement (.cancel c) := rfl
theorem whistle (c : Command) : Statement (.whistle c) := rfl
theorem snapset (c : Command) : Statement (.snapset c) := rfl
theorem ctimeout (c : Command) : Statement (.ctimeout c) := rfl
theorem budget (c : Command) : Statement (.budget c) := rfl
theorem memrestore (c : Command) : Statement (.memrestore c) := rfl
theorem invalidCommand (code : Byte) (c : Command) : Statement (.invalidCommand code c) := rfl
theorem mgmtWriteDiscarded (off : Nat) : Statement (.mgmtWriteDiscarded off) := rfl
theorem powerOnReset : Statement (.powerOnReset) := rfl
theorem firmwareImageLoad (verified : Bool) (digest : BitVec 256) : Statement (.firmwareImageLoad verified digest) := rfl
theorem enterFullService (passed : Bool) : Statement (.enterFullService passed) := rfl
theorem getVersion : Statement (.getVersion) := rfl
theorem getCapabilities : Statement (.getCapabilities) := rfl
theorem negotiateAlgorithms : Statement (.negotiateAlgorithms) := rfl
theorem getDigests : Statement (.getDigests) := rfl
theorem getCertificate : Statement (.getCertificate) := rfl
theorem challenge (nonce : BitVec 256) : Statement (.challenge nonce) := rfl
theorem getMeasurements : Statement (.getMeasurements) := rfl
theorem throttle (lower : Bool) : Statement (.throttle lower) := rfl
theorem thermalTrip : Statement (.thermalTrip) := rfl
theorem peerAccess (loc : PeerLoc) (op : PeerOp) (data cmp : Word) (size : Nat) : Statement (.peerAccess loc op data cmp size) := rfl
theorem pagerInvalidation (ctx : Nat) (page : Option Word) : Statement (.pagerInvalidation ctx page) := rfl
theorem faultQueueDrain (ctx n : Nat) : Statement (.faultQueueDrain ctx n) := rfl
theorem snapshotLogDrain (n : Nat) : Statement (.snapshotLogDrain n) := rfl
theorem hostPortFailure (port : Nat) : Statement (.hostPortFailure port) := rfl
theorem flitCrcError (port : Nat) : Statement (.flitCrcError port) := rfl

end Sys2Proof.Laws.OpcodeMap
end

