-- ==== Sys2Proof/Tests/Slice0.lean ====
section
/-! SUPPORT. The author's own tests: words written out from the spec decode to their instructions, an ill-formed word for each check of
R45, single steps with results from the spec's tables, and for every statement with hypotheses a state and operands that meet them. -/

set_option maxRecDepth 100000
set_option exponentiation.threshold 2000
set_option Elab.async false

namespace Sys2Proof.Tests

open Sys2Proof.Machine

/-! ### Words -/

/-- Do words decode to an instruction, and are they its encoding? -/
def reads (e : List Half × Instr) : Bool :=
  encode e.2 == e.1 && match decodeHalves e.1 with
    | .ok i => decide (i = e.2)
    | .error _ => false

/-- The case of R45 by which words are refused. -/
def refusedBy (ws : List Half) : Option Illegal :=
  match decodeHalves ws with
  | .error (.illegal c) => some c
  | _ => none

/-! The words below are put together from the map of R43 and the fields of R30 and R31. -/

theorem test_decode_scalar_integer : ([
  ([0x01851004], .add { b := 6, a := 5, d := 4 }),
  ([0x01851008], .sub { b := 6, a := 5, d := 4 }),
  ([0x0185100C], .mul { b := 6, a := 5, d := 4 }),
  ([0x11851010], .mulh { f := 1, b := 6, a := 5, d := 4 }),
  ([0x11851014], .div { f := 1, b := 6, a := 5, d := 4 }),
  ([0x11851018], .rem { f := 1, b := 6, a := 5, d := 4 }),
  ([0x1185101C], .min { f := 1, b := 6, a := 5, d := 4 }),
  ([0x11851020], .max { f := 1, b := 6, a := 5, d := 4 }),
  ([0x01851024], .and { b := 6, a := 5, d := 4 }),
  ([0x01851028], .or { b := 6, a := 5, d := 4 }),
  ([0x0185102C], .xor { b := 6, a := 5, d := 4 }),
  ([0x01851030], .andn { b := 6, a := 5, d := 4 }),
  ([0x01851034], .shl { b := 6, a := 5, d := 4 }),
  ([0x01851038], .shr { b := 6, a := 5, d := 4 }),
  ([0x0185103C], .sar { b := 6, a := 5, d := 4 }),
  ([0x01851040], .rol { b := 6, a := 5, d := 4 }),
  ([0x00051044], .clz { a := 5, d := 4 }),
  ([0x00051048], .ctz { a := 5, d := 4 }),
  ([0x0005104C], .popc { a := 5, d := 4 }),
  ([0x00051050], .brev { a := 5, d := 4 }),
  ([0x10051054], .sext { f := 1, a := 5, d := 4 }),
  ([0x10051058], .zext { f := 1, a := 5, d := 4 }),
  ([0x0185105C], .bfx { b := 6, a := 5, d := 4 }),
  ([0x01851061, 0x000001C0, 0x00000000], .bfi { b := 6, a := 5, d := 4, ext := some { c := 7 } }),
  ([0x11851064], .setc { f := 1, b := 6, a := 5, d := 4 }),
  ([0x01851069, 0x000001C0, 0x00000000], .sel { b := 6, a := 5, d := 4, ext := some { c := 7 } }),
  ([0x1185106C], .lea { f := 1, b := 6, a := 5, d := 4 }),
  ([0x01801070], .mov { b := 6, d := 4 })].all reads) = true := by decide +kernel

theorem test_decode_scalar_control_float_memory : ([
  ([0x01801080], .br { b := 6, d := 4 }),
  ([0x01851084], .bz { b := 6, a := 5, d := 4 }),
  ([0x01851088], .bnz { b := 6, a := 5, d := 4 }),
  ([0x1185008D, 0x00000000, 0x00000000], .bcc { f := 1, b := 6, a := 5, ext := some {} }),
  ([0x01801090], .call { b := 6, d := 4 }),
  ([0x00050094], .callr { a := 5 }),
  ([0x00050098], .jmp { a := 5 }),
  ([0x0000009C], .ret {}),
  ([0x018510A0], .loop { b := 6, a := 5, d := 4 }),
  ([0x818510C0], .fadd { f := 8, b := 6, a := 5, d := 4 }),
  ([0x818510C4], .fsub { f := 8, b := 6, a := 5, d := 4 }),
  ([0x818510C8], .fmul { f := 8, b := 6, a := 5, d := 4 }),
  ([0x818510CD, 0x000001C0, 0x00000000], .ffma { f := 8, b := 6, a := 5, d := 4, ext := some { c := 7 } }),
  ([0x818510D0], .fdiv { f := 8, b := 6, a := 5, d := 4 }),
  ([0x800510D4], .fsqrt { f := 8, a := 5, d := 4 }),
  ([0x818510D8], .fmin { f := 8, b := 6, a := 5, d := 4 }),
  ([0x818510DC], .fmax { f := 8, b := 6, a := 5, d := 4 }),
  ([0x118510E0], .fsetc { f := 1, b := 6, a := 5, d := 4 }),
  ([0x100510E5, 0x80000000, 0x00000000], .fcvt { f := 1, a := 5, d := 4, ext := some { ty2 := 8 } }),
  ([0x800510E8], .fclass { f := 8, a := 5, d := 4 }),
  ([0x118510F0], .ld { f := 1, b := 6, a := 5, d := 4 }),
  ([0x118510F4], .st { f := 1, b := 6, a := 5, d := 4 }),
  ([0x118510F9, 0x100001C0, 0x00000000], .amo { f := 1, b := 6, a := 5, d := 4, ext := some { c := 7, ty2 := 1 } })].all reads) = true := by decide +kernel

theorem test_decode_lane_integer : ([
  ([0x11851100], .vadd { f := 1, b := 6, a := 5, d := 4 }),
  ([0x11851104], .vsub { f := 1, b := 6, a := 5, d := 4 }),
  ([0x11851108], .vmul { f := 1, b := 6, a := 5, d := 4 }),
  ([0x1185110C], .vmulh { f := 1, b := 6, a := 5, d := 4 }),
  ([0x11851111, 0x000001C0, 0x00000000], .vmad { f := 1, b := 6, a := 5, d := 4, ext := some { c := 7 } }),
  ([0x11851114], .vmin { f := 1, b := 6, a := 5, d := 4 }),
  ([0x11851118], .vmax { f := 1, b := 6, a := 5, d := 4 }),
  ([0x1005111C], .vabs { f := 1, a := 5, d := 4 }),
  ([0x10051120], .vneg { f := 1, a := 5, d := 4 }),
  ([0x11851124], .vand { f := 1, b := 6, a := 5, d := 4 }),
  ([0x11851128], .vor { f := 1, b := 6, a := 5, d := 4 }),
  ([0x1185112C], .vxor { f := 1, b := 6, a := 5, d := 4 }),
  ([0x10051130], .vnot { f := 1, a := 5, d := 4 }),
  ([0x11851134], .vshl { f := 1, b := 6, a := 5, d := 4 }),
  ([0x11851138], .vshr { f := 1, b := 6, a := 5, d := 4 }),
  ([0x1185113C], .vsar { f := 1, b := 6, a := 5, d := 4 }),
  ([0x10051140], .vclz { f := 1, a := 5, d := 4 }),
  ([0x10051144], .vpopc { f := 1, a := 5, d := 4 }),
  ([0x11851148], .vbfx { f := 1, b := 6, a := 5, d := 4 }),
  ([0x1185114D, 0x000001C0, 0x00000000], .vbfi { f := 1, b := 6, a := 5, d := 4, ext := some { c := 7 } }),
  ([0x11851150], .vsetc { f := 1, b := 6, a := 5, d := 4 }),
  ([0x01851155, 0x000001C0, 0x00000000], .vsel { b := 6, a := 5, d := 4, ext := some { c := 7 } }),
  ([0x10051159, 0x10000000, 0x00000000], .vsat { f := 1, a := 5, d := 4, ext := some { ty2 := 1 } }),
  ([0x0180115C], .vmov { b := 6, d := 4 }),
  ([0x10051160], .vmovx { f := 1, a := 5, d := 4 }),
  ([0x11850164], .vmovxw { f := 1, b := 6, a := 5 }),
  ([0x01851168], .vbytp { b := 6, a := 5, d := 4 })].all reads) = true := by decide +kernel

theorem test_decode_lane_float_cross : ([
  ([0x81851180], .vfadd { f := 8, b := 6, a := 5, d := 4 }),
  ([0x81851184], .vfsub { f := 8, b := 6, a := 5, d := 4 }),
  ([0x81851188], .vfmul { f := 8, b := 6, a := 5, d := 4 }),
  ([0x8185118D, 0x000001C0, 0x00000000], .vffma { f := 8, b := 6, a := 5, d := 4, ext := some { c := 7 } }),
  ([0x81851190], .vfmin { f := 8, b := 6, a := 5, d := 4 }),
  ([0x81851194], .vfmax { f := 8, b := 6, a := 5, d := 4 }),
  ([0x11851198], .vfsetc { f := 1, b := 6, a := 5, d := 4 }),
  ([0x8185119C], .vfdiv { f := 8, b := 6, a := 5, d := 4 }),
  ([0x800511A0], .vfsqrt { f := 8, a := 5, d := 4 }),
  ([0x800511A4], .vrcp { f := 8, a := 5, d := 4 }),
  ([0x800511A8], .vrsq { f := 8, a := 5, d := 4 }),
  ([0x800511AC], .vexp2 { f := 8, a := 5, d := 4 }),
  ([0x800511B0], .vlog2 { f := 8, a := 5, d := 4 }),
  ([0x800511B4], .vsin { f := 8, a := 5, d := 4 }),
  ([0x800511B8], .vcos { f := 8, a := 5, d := 4 }),
  ([0x800511BC], .vtanh { f := 8, a := 5, d := 4 }),
  ([0x100511C1, 0x80000000, 0x00000000], .vcvt { f := 1, a := 5, d := 4, ext := some { ty2 := 8 } }),
  ([0x800511C4], .vfclass { f := 8, a := 5, d := 4 }),
  ([0x100511C8], .venc { f := 1, a := 5, d := 4 }),
  ([0x100511CC], .vdec { f := 1, a := 5, d := 4 }),
  ([0x100511D0], .vbpt { f := 1, a := 5, d := 4 }),
  ([0x118511E0], .vperm { f := 1, b := 6, a := 5, d := 4 }),
  ([0x118511E4], .vshfx { f := 1, b := 6, a := 5, d := 4 }),
  ([0x018511E8], .vbcast { b := 6, a := 5, d := 4 }),
  ([0x100511EC], .vballot { f := 1, a := 5, d := 4 }),
  ([0x800511F1, 0x80000000, 0x00000000], .vscan { f := 8, a := 5, d := 4, ext := some { ty2 := 8 } }),
  ([0x800511F5, 0x80000000, 0x00000000], .vred { f := 8, a := 5, d := 4, ext := some { ty2 := 8 } }),
  ([0x100011F8], .velect { f := 1, d := 4 }),
  ([0x118511FC], .vrnd { f := 1, b := 6, a := 5, d := 4 })].all reads) = true := by decide +kernel

theorem test_decode_masks_and_flow : ([
  ([0x20051200], .kmov { f := 2, a := 5, d := 4 }),
  ([0x10050204], .kop { f := 1, a := 5 }),
  ([0x10001208], .kpop { f := 1, d := 4 }),
  ([0x2005120C], .pmov { f := 2, a := 5, d := 4 }),
  ([0x11851210], .pop { f := 1, b := 6, a := 5, d := 4 }),
  ([0x10001218], .wid { f := 1, d := 4 }),
  ([0x1000121C], .laneid { f := 1, d := 4 }),
  ([0x01851241, 0x00000000, 0x00000000], .vbr { b := 6, a := 5, d := 4, ext := some {} }),
  ([0x01851245, 0x00000000, 0x00000000], .vbrd { b := 6, a := 5, d := 4, ext := some {} }),
  ([0x00000248], .recv {}),
  ([0x0000024C], .vbrk {}),
  ([0x00050250], .issv { a := 5 }),
  ([0x11800254], .flow { f := 1, b := 6 }),
  ([0x11800258], .frelab { f := 1, b := 6 }),
  ([0x0000025C], .fdone {}),
  ([0x01850260], .bari { b := 6, a := 5 }),
  ([0x01850264], .bara { b := 6, a := 5 }),
  ([0x01850268], .barw { b := 6, a := 5 }),
  ([0x0185126C], .bart { b := 6, a := 5, d := 4 }),
  ([0x00000270], .yield {}),
  ([0x00000274], .endItems {})].all reads) = true := by decide +kernel

theorem test_decode_memory : ([
  ([0x11851280], .vld { f := 1, b := 6, a := 5, d := 4 }),
  ([0x11851284], .vst { f := 1, b := 6, a := 5, d := 4 }),
  ([0x11851288], .vldx { f := 1, b := 6, a := 5, d := 4 }),
  ([0x1185128C], .vstx { f := 1, b := 6, a := 5, d := 4 }),
  ([0x11851291, 0x00000040, 0x00000000], .lds { f := 1, b := 6, a := 5, d := 4, ext := some { c := 1 } }),
  ([0x11851295, 0x00000040, 0x00000000], .sts { f := 1, b := 6, a := 5, d := 4, ext := some { c := 1 } }),
  ([0x11851299, 0x800001C0, 0x00000000], .vatom { f := 1, b := 6, a := 5, d := 4, ext := some { c := 7, ty2 := 8 } }),
  ([0x1185129C], .xchl { f := 1, b := 6, a := 5, d := 4 }),
  ([0x118502A0], .acq { f := 1, b := 6, a := 5 }),
  ([0x018502A4], .rel { b := 6, a := 5 }),
  ([0x018512A8], .bind { b := 6, a := 5, d := 4 }),
  ([0x018512AC], .unbind { b := 6, a := 5, d := 4 }),
  ([0x000002B0], .fence {}),
  ([0x118002B4], .grow { f := 1, b := 6 }),
  ([0x118002B8], .shrink { f := 1, b := 6 }),
  ([0x118502BC], .pref { f := 1, b := 6, a := 5 }),
  ([0x000012C0], .hld { d := 4 }),
  ([0x100012C4], .hrd { f := 1, d := 4 }),
  ([0x118502C8], .femk { f := 1, b := 6, a := 5 })].all reads) = true := by decide +kernel

theorem test_decode_engines : ([
  ([0x11851301, 0x000001C0, 0x00000000], .cpy { f := 1, b := 6, a := 5, d := 4, ext := some { c := 7 } }),
  ([0x11851305, 0x000001C0, 0x00000000], .cpym { f := 1, b := 6, a := 5, d := 4, ext := some { c := 7 } }),
  ([0x11851309, 0x000001C0, 0x00000000], .gth { f := 1, b := 6, a := 5, d := 4, ext := some { c := 7 } }),
  ([0x11850F0D, 0x000001C0, 0x00000000], .mma { f := 1, b := 6, a := 5, d := 3, ext := some { c := 7 } }),
  ([0x11850F11, 0x000001C0, 0x00000000], .mmas { f := 1, b := 6, a := 5, d := 3, ext := some { c := 7 } }),
  ([0x10000F14], .mzero { f := 1, d := 3 }),
  ([0x11850F19, 0x00000000, 0x00000000], .mld { f := 1, b := 6, a := 5, d := 3, ext := some {} }),
  ([0x11850F1D, 0x00000000, 0x00000000], .mst { f := 1, b := 6, a := 5, d := 3, ext := some {} }),
  ([0x01800F20], .manc { b := 6, d := 3 }),
  ([0x00000324], .mclose {}),
  ([0x11800328], .wait { f := 1, b := 6 }),
  ([0x1000132C], .astat { f := 1, d := 4 }),
  ([0x11851331, 0x800001C0, 0x00000000], .coll { f := 1, b := 6, a := 5, d := 4, ext := some { c := 7, ty2 := 8 } })].all reads) = true := by decide +kernel

theorem test_decode_scent_and_submission : ([
  ([0x11851340], .scnew { f := 1, b := 6, a := 5, d := 4 }),
  ([0x00050344], .scfree { a := 5 }),
  ([0x01851348], .scqry { b := 6, a := 5, d := 4 }),
  ([0x0185134C], .scapp { b := 6, a := 5, d := 4 }),
  ([0x40050350], .scml { f := 4, a := 5 }),
  ([0x01851354], .scsave { b := 6, a := 5, d := 4 }),
  ([0x01851358], .scload { b := 6, a := 5, d := 4 }),
  ([0x0185135C], .scatt { b := 6, a := 5, d := 4 }),
  ([0x00050360], .scdet { a := 5 }),
  ([0x01850364], .sccap { b := 6, a := 5 }),
  ([0x10051380], .launch { f := 1, a := 5, d := 4 }),
  ([0x11851385, 0x000001C0, 0x00000000], .enq { f := 1, b := 6, a := 5, d := 4, ext := some { c := 7 } }),
  ([0x01851388], .grun { b := 6, a := 5, d := 4 }),
  ([0x0185138C], .gcommit { b := 6, a := 5, d := 4 })].all reads) = true := by decide +kernel

theorem test_decode_system : ([
  ([0x000003C0], .nop {}),
  ([0x000213C4], .srd { a := 2, d := 4 }),
  ([0x000503C8], .swr { a := 5 }),
  ([0x018003CC], .trap { b := 6 }),
  ([0x000003D0], .eret {}),
  ([0x000003D4], .region {}),
  ([0x000013D8], .chkerr { d := 4 }),
  ([0x118503DD, 0x000001C0, 0x00000000], .tlbw { f := 1, b := 6, a := 5, ext := some { c := 7 } }),
  ([0x000503E0], .tlbinv { a := 5 }),
  ([0x000003E4], .fresume {}),
  ([0x000513E8], .snapt { a := 5, d := 4 })].all reads) = true := by decide +kernel

/-- "Scalar encodings", "Lane encodings", "Memory encodings", "Engine encodings" and the Scent and submission tables of the spec. -/
theorem test_worked_encodings : ([
  ([0x01440C08], .sub { b := 5, a := 4, d := 3 }),
  ([0x11440C14], .div { f := 1, b := 5, a := 4, d := 3 }),
  ([0x0FC7F084], .bz { b := 0x3F, a := 7, d := 0x3C }),
  ([0x2144008D, 0, 0x000A0000], .bcc { f := 2, b := 5, a := 4, ext := some { imm16 := 10 } }),
  ([0x814324F1, 0, 0x00040004], .ld { f := 8, b := 5, a := 3, d := 9, ext := some { imm16 := 4, sc := 4 } }),
  ([0x118408F9, 0x20000200, 4], .amo { f := 1, b := 6, a := 4, d := 2, ext := some { ty2 := 2, c := 8, sc := 4 } }),
  ([0x930B28CD, 0x340, 0], .ffma { f := 9, b := 12, a := 11, d := 10, ext := some { c := 13 } }),
  ([0x22070998], .vfsetc { f := 2, b := 8, a := 7, d := 2 }),
  ([0x800321C1, 0xC0008000, 0], .vcvt { f := 8, a := 3, d := 8, ext := some { wd := 2, ty2 := 12 } }),
  ([0x000425F5, 0x80000000, 0], .vred { a := 4, d := 9, ext := some { ty2 := 8 } }),
  ([0x00040DE6, 1, 0], .vshfx { a := 4, d := 3, lit := some 1 }),
  ([0x00012241, 0, 0x00100000], .vbr { d := 8, a := 1, ext := some { imm16 := 16 } }),
  ([0x2000025A, 9, 0], .frelab { f := 2, lit := some 9 }),
  ([0x01440265, 0, 0x1002], .bara { b := 5, a := 4, ext := some { pe := true, sc := 2 } }),
  ([0x81432280], .vld { f := 8, b := 5, a := 3, d := 8 }),
  ([0x0282228C], .vstx { b := 10, a := 2, d := 8 }),
  ([0x81021A85, 0, 0x84], .vst { f := 8, b := 4, a := 2, d := 6, ext := some { hld := true, sc := 4 } }),
  ([0x80861291, 0x80, 0x00080002], .lds { f := 8, b := 2, a := 6, d := 4, ext := some { imm16 := 8, sc := 2, c := 2 } }),
  ([0x10C42699, 0x100001C0, 2], .vatom { f := 1, b := 3, a := 4, d := 9, ext := some { ty2 := 1, c := 7, sc := 2 } }),
  ([0x01C502A0], .acq { b := 7, a := 5 }),
  ([0x000002B1, 0, 0x1C], .fence { ext := some { ord := 3, sc := 4 } }),
  ([0x000002B6, 0x40, 0], .grow { lit := some 64 }),
  ([0x01021B01, 0x200, 0], .cpy { b := 4, a := 2, d := 6, ext := some { c := 8 } }),
  ([0x21021B05, 0x200, 0], .cpym { f := 2, b := 4, a := 2, d := 6, ext := some { c := 8 } }),
  ([0x40031F09, 0x300, 0], .gth { f := 4, a := 3, d := 7, ext := some { c := 12 } }),
  ([0x3102070D, 0x140, 0x000A0000], .mma { f := 3, b := 4, a := 2, d := 1, ext := some { c := 5, imm16 := 10 } }),
  ([0x01020311, 0x140, 0x110A0000], .mmas { b := 4, a := 2, ext := some { c := 5, imm16 := 0x110A } }),
  ([0x00000B22, 0xFFFFFFD8, 0xFFFFFFFF], .manc { d := 2, lit := some 0xFFFFFFFFFFFFFFD8 }),
  ([0x2242071D, 0, 0x000C0000], .mst { f := 2, b := 9, a := 2, d := 1, ext := some { imm16 := 12 } }),
  ([0x20000328], .wait { f := 2 }),
  ([0x6000172C], .astat { f := 6, d := 5 }),
  ([0x02051B31, 0x800001C0, 0], .coll { b := 8, a := 5, d := 6, ext := some { ty2 := 8, c := 7 } }),
  ([0x0005534A, 3, 0], .scqry { a := 5, d := 20, lit := some 3 }),
  ([0x01852349, 3, 0], .scqry { b := 6, a := 5, d := 8, ext := some { dh := 3 } }),
  ([0x00050366, 0x1000, 0], .sccap { a := 5, lit := some 0x1000 }),
  ([0x01850B85, 0x00040000, 0], .enq { b := 6, a := 5, d := 2, ext := some { wb := 1 } }),
  ([0x11850B85, 0x000401C0, 0], .enq { f := 1, b := 6, a := 5, d := 2, ext := some { wb := 1, c := 7 } }),
  ([0x000003E4], .fresume {}), ([0x000003D4], .region {}), ([0x00001FD8], .chkerr { d := 7 }), ([0x000003C0], .nop {})].all reads) = true := by
  decide +kernel

/-- R45: a word for each case; the third to the sixth are those of "Decoding borderline words". -/
theorem test_illegal_words :
    decodeHalves [0x00000000] = .error .opcode ∧ decodeHalves [0x00000001, 0, 0x2000] = .error .reserved ∧
    refusedBy [0x000003C3, 0, 0, 0, 0] = some .length ∧ refusedBy [0x01851102, 0, 0] = some .literal ∧
    refusedBy [0xC0C20464] = some .function ∧ refusedBy [0x00C50901, 0x00010000, 0] = some .width ∧
    refusedBy [0x000000A0] = some .register ∧ refusedBy [0x01C61405, 0, 0x00010000] = some .extension ∧
    refusedBy [0x000425F5, 0xA0000000, 0] = some .code ∧ refusedBy [0x01851101, 0, 0x0300] = some .guard := by
  decide +kernel

/-- WellFormed refuses a term for each of its checks. -/
theorem test_ill_formed :
    [illegalCase (.kennelTakeRecord 0), illegalCase (.nop { lit := some 0 }), illegalCase (.vadd { b := 6, lit := some 0 }),
      illegalCase (.setc { f := 12 }), illegalCase (.loop {}), illegalCase (.vadd { b := 6, a := 5, ext := some { wa := 1 } }),
      illegalCase (.add { ext := some { imm16 := 1 } }), illegalCase (.vred { ext := some { ty2 := 10 } }),
      illegalCase (.vadd { ext := some { pg := 3 } })] =
    [some .opcode, some .length, some .literal, some .function, some .register, some .width, some .extension, some .code, some .guard] := by
  decide +kernel

/-- R43, R45: the last opcodes of each reserved run are no instruction. -/
theorem test_reserved_opcodes : ([0x1D, 0x3F, 0x5B, 0x77, 0x85, 0x8F, 0x9F, 0xB3, 0xBF, 0xCD, 0xDA, 0xDF, 0xE4, 0xEF, 0xFB, 0xFF].all fun n =>
    match decodeHalves [BitVec.ofNat 32 (4 * n)] with | .error .opcode => true | _ => false) = true := by
  decide +kernel

/-! ### Small states -/

/-- Core 0 with one pack of 32 lanes, which is issuing. -/
def base : State := { State.reset.placed [] with cur := some (0, 0) }

/-- Its pack. -/
def pk : Pack := (base.pack? 0 0).getD {}

/-- `base` with another pack in its place. -/
def mk (p : Pack) : State := base.setPack 0 0 p

/-- A buffer record (R179): base, extent, scratchpad, read-only. -/
def bufRec (at_ extent : Nat) (space ro : Bool) : Nat :=
  at_ + (if ro then 2 ^ 58 else 0) + (if space then 2 ^ 59 else 0) + 2 ^ 60 + extent * 2 ^ 64

/-- `s` with bytes at a key. -/
def put (s : State) (k : Nat) (bs : List Byte) : State := { s with mem := Memory.apply s.mem (bs.zipIdx.map fun e => (k + e.2, e.1)) }

/-- `base` with a trap handler, a fault ring, and the page of the handle table, at 0x20000: h1 memory, h2 scratchpad, h3 read-only memory,
h4 scratchpad beyond the window; h5 is not valid. -/
def hs : State :=
  let s := base.setCtx 0 { base.ctx 0 with tvec := 0x10800, fqBase := 2 ^ 50 + 0x1000, fqSize := 16 }
  let s := s.setCore 0 { s.core 0 with
    tlb := { ctx := 0, page := 0, size := 4096, frame := 0x20000, rd := true, wr := true, exe := false, ha := false } :: (s.core 0).tlb }
  let s := put s 0x20040 (leBytes 16 (bufRec 0x10000 0x1000 false false))
  let s := put s 0x20080 (leBytes 16 (bufRec 0 0x1000 true false))
  let s := put s 0x200C0 (leBytes 16 (bufRec 0x10000 0x1000 false true))
  put s 0x20100 (leBytes 16 (bufRec 0x1000 0x1000 true false))

/-- `hs` with another pack. -/
def hm (p : Pack) : State := hs.setPack 0 0 p

/-- What pack 0 of core 0 has become. -/
def after (i : Instr) (s : State) : Pack :=
  match exec i s with
  | .next t => (t.pack? 0 0).getD { status := .ended }
  | _ => { status := .ended }

/-- Does `m` give `a` and leave everything as it was? -/
def gives {α : Type} [DecidableEq α] (m : M α) (w : W) (a : α) : Bool :=
  match m w with
  | .ok x v => decide (x = a ∧ v = w)
  | .error _ _ => false

theorem gives_ok {α : Type} [DecidableEq α] {m : M α} {w : W} {a : α} (h : gives m w a = true) : m w = .ok a w := by
  unfold gives at h
  split at h
  · rename_i e
    obtain ⟨h1, h2⟩ := of_decide_eq_true h
    rw [e, h1, h2]
  · cases h

/-- Does `m` stop with `e` and leave everything as it was? -/
def stops {α : Type} (m : M α) (w : W) (e : Stop) : Bool :=
  match m w with
  | .ok _ _ => false
  | .error x v => decide (x = e ∧ v = w)

theorem stops_error {α : Type} {m : M α} {w : W} {e : Stop} (h : stops m w e = true) : m w = .error e w := by
  unfold stops at h
  split at h
  · cases h
  · rename_i e'
    obtain ⟨h1, h2⟩ := of_decide_eq_true h
    rw [e', h1, h2]

/-- What holds of every lane of the pack that takes part holds of every lane that takes part. -/
theorem all_takes {p : Pack} {o : Opnd} {P : Nat → Prop} (h : ∀ l, l < p.width → takes p o l = true → P l) (l : Nat)
    (t : takes p o l = true) : P l := by
  refine h l ?_ t
  unfold takes at t
  exact of_decide_eq_true (Bool.and_eq_true_iff.mp t).1

/-! ### Single steps, with results that the spec's tables give -/

/-- g3 after an instruction with g4 and g5. -/
def g3 (i : Instr) (x y : Word) : Word := (after i (mk { pk with g := [0, 0, 0, 0, x, y] })).readG 3

/-- "Results at the limits" of R80. -/
theorem test_results_at_limits :
    let r : Opnd := { d := 3, a := 4, b := 5 }
    let lit (n : Word) : Opnd := { d := 3, a := 4, lit := some n }
    g3 (.div { r with f := 1 }) 0x8000000000000000 (-1) = 0x8000000000000000 ∧ g3 (.rem { r with f := 1 }) 0x8000000000000000 (-1) = 0 ∧
    g3 (.div r) 77 0 = 0xFFFFFFFFFFFFFFFF ∧ g3 (.rem r) 77 0 = 77 ∧ g3 (.mulh r) 0xFFFFFFFFFFFFFFFF 2 = 1 ∧
    g3 (.mulh { r with f := 1 }) 0xFFFFFFFFFFFFFFFF 2 = 0xFFFFFFFFFFFFFFFF ∧ g3 (.shl (lit 65)) 1 0 = 2 ∧
    g3 (.sar (lit 63)) 0x8000000000000000 0 = 0xFFFFFFFFFFFFFFFF ∧ g3 (.rol (lit 4)) 0x8000000000000001 0 = 0x18 ∧
    g3 (.clz { d := 3 }) 0 0 = 64 ∧ g3 (.bfx (lit 0x23C)) 0xF000000000000000 0 = 0xF ∧
    g3 (.sext { f := 1, d := 3, a := 4 }) 0x18000 0 = 0xFFFFFFFFFFFF8000 := by
  decide +kernel

/-- R82, R81: CALLR reads its target before it writes the link; a LOOP that starts at 0 writes all ones and branches. -/
theorem test_control :
    (after (.callr { a := 62 }) (mk { pk with g := List.replicate 62 0 ++ [0x12340] })).pc = 0x12340 ∧
    (after (.callr { a := 62 }) (mk { pk with g := List.replicate 62 0 ++ [0x12340] })).readG 62 = 0x10004 ∧
    (after (.loop { a := 1, d := 4 }) (mk pk)).pc = 0x10010 ∧ (after (.loop { a := 1, d := 4 }) (mk pk)).readG 1 = 0xFFFFFFFFFFFFFFFF := by
  decide +kernel

/-- R21, R322, R22: NOP advances PC; REGION opens a region after itself; TRAP enters the handler with cause 0x10. -/
theorem test_system :
    (after (.nop {}) base).pc = 0x10004 ∧ (after (.region {}) base).sys.rgnpc = 0x10004 ∧
    (after (.trap { lit := some 9 }) hs).pc = 0x10800 ∧ (after (.trap { lit := some 9 }) hs).sys.tcause = 0x10 ∧
    (after (.trap { lit := some 9 }) hs).sys.tval = 9 ∧ (after (.trap { lit := some 9 }) hs).sys.tstat = 8 := by
  decide +kernel

/-- R13: "Bounds and alignment through h3", by h1 of extent 0x1000. -/
theorem test_bounds :
    (after (.ld { f := 3, a := 1, d := 5, lit := some 0xFF8 }) hs).pc = 0x1000C ∧
    (after (.ld { f := 3, a := 1, d := 5, lit := some 0xFFC }) hs).sys.tcause = 5 ∧
    (after (.ld { f := 3, a := 1, d := 5, lit := some 0xFFC }) hs).sys.tval = 0xFFC ∧
    (after (.ld { f := 3, a := 1, d := 5, lit := some 0xFFFFFFFFFFFFFFF8 }) hs).sys.tcause = 5 ∧
    (after (.ld { f := 1, a := 1, d := 5, lit := some 0xFFA }) hs).sys.tcause = 6 ∧
    (after (.ld { f := 1, a := 1, d := 5, lit := some 0xFFA }) hs).sys.tval = 0x10FFA := by
  decide +kernel

/-- R127, R124: a lane sum wraps, in the lanes that take part only. -/
theorem test_vadd :
    let p : Pack := { pk with lanes := [{ v := [{ val := 0xFFFFFFFF }, { val := 2 }], p := 1 }, { v := [{ val := 1 }, { val := 2 }] }] }
    let q := after (.vadd { b := 1, d := 2, ext := some { pe := true } }) (mk p)
    ((q.lane 0).reg 2).val = 1 ∧ ((q.lane 1).reg 2).val = 0 ∧ q.pc = 0x1000C := by
  decide +kernel

/-- R78, R87, R54: counts, the class of minus zero, and an overflow under RTZ. -/
theorem test_numbers :
    g3 (.fclass { f := 8, d := 3, a := 4 }) 0x80000000 0 = 8 ∧
    g3 (.fadd { f := 8, d := 3, a := 4, b := 5, ext := some { rm := 1 } }) 0x7F7FFFFF 0x7F7FFFFF = 0x7F7FFFFF ∧
    g3 (.fadd { f := 8, d := 3, a := 4, b := 5 }) 0x7F7FFFFF 0x7F7FFFFF = 0x7F800000 ∧
    g3 (.popc { d := 3, a := 4 }) 0xFF00 0 = 8 := by
  decide +kernel

/-! ### Hypotheses that can be met: one theorem for each statement, a state and operands for each of its clauses -/

/-- The pack that is issuing, for every statement that has no other hypothesis. -/
theorem wit_pack : base.curPack? = some pk ∧ base.cur = some (0, 0) ∧ base.Calm ∧ base.dev.tripped = false := by
  unfold State.Calm
  decide +kernel

/-- Which of R80's conditions and R81's branches hold, and do not. -/
theorem wit_scalar :
    condHolds 2 0 1 = true ∧ condHolds 3 0 1 = false ∧ pk.readG 1 = 0 ∧ pk.readG 0 ≠ (-1 : Word) ∧
    (Instr.and {}).WellFormed ∧ (Instr.clz {}).WellFormed ∧ (Instr.zext { f := 2 }).WellFormed ∧ (Instr.setc { f := 9 }).WellFormed ∧
    (Instr.sel { ext := some {} }).WellFormed ∧ (Instr.mov {}).WellFormed ∧ (Instr.call {}).WellFormed ∧ (Instr.callr {}).WellFormed ∧
    (Instr.jmp {}).WellFormed ∧ (Instr.ret {}).WellFormed := by
  decide +kernel

/-- LaneInteger, LaneSelect, LaneFloating, LaneConversions, LaneCross, LaneReductions, MasksAndPredicates: operands that pass. -/
theorem wit_lane_go :
    let o : Opnd := {}
    let f : Opnd := { f := 8 }
    let x (ty rm : Nat) : Opnd := { f := 8, ext := some { ty2 := BitVec.ofNat 4 ty, rm := BitVec.ofNat 3 rm } }
    ([.vadd o, .vsub o, .vmul o, .vmulh o, .vmad o, .vmin o, .vmax o, .vabs o, .vneg o, .vand o, .vor o, .vxor o, .vnot o, .vshl o, .vshr o,
        .vsar o, .vclz o, .vpopc o, .vbfi o, .vbfx o, .vsetc o, .vsel o, .vmov o, .vsat { ext := some {} }, .vbytp o,
        .vfadd f, .vfsub f, .vfmul f, .vffma f, .vfmin f, .vfmax f, .vfdiv f, .vfsqrt f, .vrcp f, .vrsq f, .vexp2 f, .vlog2 f, .vsin f,
        .vcos f, .vtanh f, .vfclass f, .vfsetc o, .vcvt (x 8 0), .venc o, .vdec o, .vbpt o, .vbpt { f := 4 },
        .vperm o, .vshfx o, .vbcast o, .vballot o, .vballot { f := 1 }, .vballot { f := 2 }, .vballot { f := 3 }, .velect o, .vrnd o,
        .vscan { ext := some {} }, .vred { ext := some {} }, .kmov { a := 32 }, .kmov { f := 1, d := 31 }, .kmov { f := 1, d := 32 },
        .kmov { f := 2, a := 32 }, .kop o, .kpop o, .pmov o, .pmov { f := 1 }, .pmov { f := 2 }, .pmov { f := 3 }, .pmov { f := 4 },
        .pmov { f := 5 }, .pop o, .wid o, .wid { f := 6 }, .laneid o] : List Instr).all (fun i => decide (operandCheck i pk = .go)) = true ∧
    pk.width ≤ 1024 ∧ takes pk o 31 = true ∧ takes pk o 32 = false ∧ takes { pk with mask := 0 } o 0 = false ∧
    operandCheck (.vred { ext := some {} }) { pk with mask := 0 } = .go ∧ (mk { pk with mask := 0 }).curPack? = some { pk with mask := 0 } ∧
    redTree (scanOp 0 0 0) (fun l => if takes { pk with mask := 0 } o l then some 1 else none) 10 0 = none ∧
    redTree (scanOp 0 0 0) (fun l => if takes pk o l then some 1 else none) 10 0 = some 32 := by
  decide +kernel

/-- DecodeEncode, EncodeDecode. -/
theorem wit_decode :
    (Instr.add { b := 7, a := 6, d := 5 }).WellFormed ∧
      (match decode [0x04, 0x14, 0xC6, 0x01] with | .ok i => decide (i = .add { b := 7, a := 6, d := 5 }) | .error _ => false) = true := by
  decide +kernel

/-- ReservedRefused: a word of each kind, at every length, and an extension with each of its reserved bits. -/
theorem wit_reserved :
    ([0x0, 0x77, 0x2CC, 0x2FC, 0x368, 0x37C, 0x390, 0x3BC, 0x3FE] : List Half).map opOf = [0, 0x1D, 0xB3, 0xBF, 0xDA, 0xDF, 0xE4, 0xEF, 0xFF] ∧
    ([0x0, 0x77, 0x3FE] : List Half).map (fun w => lenOf (lOf w)) = [4, 20, 12] ∧
    ([0x2000, 0x4000, 0x8000] : List Half).map (·.extractLsb' 13 3) = [1, 2, 4] ∧ (lOf 0x3C1).getLsbD 0 = true ∧
    lenOf (lOf 0x3C1) = 12 := by
  decide +kernel

/-- ResetInv, StepKeepsInv. -/
theorem wit_inv : State.reset.Inv ∧ (State.reset.placed [1]).Inv := by
  refine ⟨⟨?_, rfl⟩, ⟨?_, rfl⟩⟩ <;> decide +kernel

/-- The word at an address is what memory holds there, or the copy that the core gives out. -/
theorem fetches_of {s : State} {who : Who} {va k : Nat} {w now : Half} (h0 : va < 2 ^ 57)
    (h1 : gives (translate .ex va) (startW s who (.nop {})) k = true)
    (h2 : (List.range 4).map (fun j => Memory.read s.mem (k + j)) = halfBytes now)
    (h3 : codeWord (s.core who.core) ((s.curPack?.map (·.id.launch)).getD 0) k now = w) : Fetches s who va w :=
  ⟨h0, k, now, gives_ok h1, h2, h3⟩

/-- StepRunsDecoded: an ADD at PC, read as memory has it and as a copy; a core's turn on the agenda; by the default order; a pack that still owes
issue cycles. -/
theorem wit_step :
    let s := (State.reset.placed [0x04, 0x14, 0xC6, 0x01])
    let s0 := { s with cur := some (0, 0) }
    let i : Instr := .add { b := 7, a := 6, d := 5 }
    (s.choose 0 = some (0, true) ∨ s.choose 0 = some (0, false)) ∧ s.pack? 0 0 = some pk ∧ i.WellFormed ∧ pk.pc.toNat < 2 ^ 57 ∧
    pk.pc.toNat % 4 = 0 ∧ pk.prog.replay = none ∧ mismatchAt s0 0 0 pk i = none ∧ encode i = [0x01C61404] ∧
    gives (translate .ex pk.pc.toNat) (startW s0 (issuer (0, 0) pk) (.nop {})) 0x10000 = true ∧
    (List.range 4).map (fun j => Memory.read s.mem (0x10000 + j)) = halfBytes 0x01C61404 ∧
    codeWord (s.core 0) pk.id.launch 0x10000 0x01C61404 = 0x01C61404 ∧
    codeWord { code := [{ launch := 0, key := 0x10000, copies := [5], use := some 0 }] } 0 0x10000 0x01C61404 = 5 ∧
    pk.owed = 0 ∧ (s.setPack 0 0 { pk with owed := 2 }).pack? 0 0 = some { pk with owed := 2 } ∧ s.journals = [] ∧
    ((s.setPack 0 0 { pk with owed := 2 }).choose 0).map (·.1) = some 0 ∧ allotted pk i = true ∧
    allotted { pk with allot := 8 } (.vadd { d := 63 }) = false ∧ s.runs = true ∧ ({ s with agenda := [.core 0] } : State).agenda = .core 0 :: [] ∧ s.agenda = [] ∧
    ({ s with evTurn := true } : State).nextEvent = none ∧ ({ s with evTurn := true } : State).nextCore = some 0 := by
  decide +kernel

/-- FetchChecks: PC out of bounds, misaligned, on an unmapped page, on one not yet walked, on one that cannot be executed; an illegal
word. -/
theorem wit_fetch :
    let at_ (pc : Word) : Pack := { pk with pc }
    let w (p : Pack) : W := startW (hm p) (issuer (0, 0) p) (.nop {})
    2 ^ 57 ≤ (at_ (2 ^ 57)).pc.toNat ∧ (at_ 0x10002).pc.toNat % 4 ≠ 0 ∧
    lookup (w { at_ 0x30000 with prog := { walked := [(0x30, none)] } }) 0x30000 = .absent ∧ lookup (w (at_ 0x30000)) 0x30000 = .miss ∧
    (match lookup (w (at_ 0x100)) 0x100 with | .entry e => !e.exe | _ => false) = true ∧
    (match fetch hs with | .illegal w => decide (w = 0) | _ => false) = true ∧ pk.priv = 0 ∧ pk.owed = 0 ∧
    (match fetch (hm (at_ (2 ^ 57))) with | .stop e => decide (e = .trap 5 (2 ^ 57) none none) | _ => false) = true ∧
    (hs.ctx pk.id.ctx).tvec &&& 0xFFFFFFFFFFFFFFFC ≠ 0 ∧ hs.pack? 0 0 = some pk := by
  decide +kernel

/-- TrapTaken, TrapStops (with room in the ring, and without), TrapReturns. -/
theorem wit_traps :
    Memory.wf hs.mem = true ∧ hs.Calm ∧ hs.curPack? = some pk ∧ pk.priv = 0 ∧ (hs.ctx pk.id.ctx).tvec &&& 0xFFFFFFFFFFFFFFFC ≠ 0 ∧
    (base.ctx pk.id.ctx).tvec &&& 0xFFFFFFFFFFFFFFFC = 0 ∧ ({ pk with priv := 1 } : Pack).priv ≠ 0 ∧
    (hs.ctx 0).fqWaiting = [] ∧ (hs.ctx 0).fqPosted < (hs.ctx 0).fqFreed + (hs.ctx 0).fqSize ∧
    (let s := base.setCtx 0 { base.ctx 0 with fqSize := 0 }; ¬ (s.ctx 0).fqPosted < (s.ctx 0).fqFreed + (s.ctx 0).fqSize) ∧
    (let p : Pack := { pk with priv := 1, sys := { pk.sys with fltmaskp := 0x10100 } }
     p.pre = none ∧ (hm p).curPack? = some p ∧
     gives (scalarAccess .rd 0 p.sys.fltmaskp 128) (startW (hm p) (issuer (0, 0) p) (.fresume {})) (true, 0x10100, 0x10100) = true ∧
     consumes (hm p) 0x10100 128 = none) := by
  unfold State.Calm
  decide +kernel

/-- PrivilegeTraps, SystemRegisters: a register out of reach, a read-only one and one that can be written. -/
theorem wit_registers :
    sysAt (srdNumber { b := 0, a := 0x11 }) 0 = .trap ∧ sysAt (swrNumber { b := 0, d := 0x11 }) 0 = .trap ∧ (hs.ctx 0).snapok = false ∧
    sysAt (srdNumber { b := 0, a := 0x01 }) 0 ≠ .trap ∧ sysAt (swrNumber { b := 0, d := 0x01 }) 0 = .ro ∧
    sysAt (swrNumber { b := 0, d := 0x10 }) 0 = .ro ∧ sysAt (swrNumber { b := 0, d := 0x20 }) 0 = .rw ∧
    sysAt (swrNumber { b := 0, d := 0x10 }) 1 = .rw := by
  decide +kernel

/-- Rounding: each mode, on either side of a tie and on it. -/
theorem wit_rounding : 0 < 2 ∧ 4 ≤ 4 ∧ roundDiv 0 false 5 2 = 2 ∧ roundDiv 0 false 7 2 = 4 ∧ roundDiv 4 false 5 2 = 3 ∧
    roundDiv 1 false 7 2 = 3 ∧ roundDiv 2 false 9 4 = 3 ∧ roundDiv 2 true 9 4 = 2 ∧ roundDiv 3 true 9 4 = 3 := by
  decide +kernel


/-- ScalarMemory: memory, the scratchpad, slot 0 of the handle table; an atomic. -/
theorem wit_scalar_memory :
    let w (i : Instr) : W := startW hs (issuer (0, 0) pk) i
    let o (a off : Nat) : Opnd := { f := 3, a := BitVec.ofNat 6 a, d := 5, lit := some (BitVec.ofNat 64 off) }
    let m : Opnd := { f := 1, a := 1, d := 5, b := 63, ext := some { ty2 := 3 } }
    let w0 : W := w (.amo m)
    hs.cur = some (0, 0) ∧ hs.curPack? = some pk ∧ hs.Calm ∧ Memory.wf hs.mem = true ∧
    gives (scalarAccess .rd 1 (scalarOffset pk (o 1 16) 8) 8) (w (.ld (o 1 16))) (true, 0x10010, 0x10010) = true ∧
    gives (scalarAccess .wr 2 (scalarOffset pk (o 2 16) 8) 8) (w (.st (o 2 16))) (false, 16, 2 ^ 52 + 16) = true ∧
    consumes hs 0x10010 8 = none ∧ pk.id.records = false ∧ pk.sys.rgnpc = 0 ∧ m.x.ty2.toNat < 4 ∧
    gives (scalarAccess .rmw 1 (scalarOffset pk m 8) 8) w0 (true, 0x10000, 0x10000) = true ∧ consumes hs 0x10000 8 = none ∧
    (match entryOf w0 0x10000 with | some e => !haRefuses e (isAtomicOp 1 3) | none => false) = true := by
  unfold State.Calm
  decide +kernel

/-- ScalarAccessOrder: a record of every kind: not valid, out of bounds, beyond the window, misaligned, read-only, and good ones. -/
theorem wit_scalar_access :
    let w : W := startW hs (issuer (0, 0) pk) (.nop {})
    let r (space ro : Bool) := bufRec 0x10000 0x1000 space ro
    gives (readRecord 1 none) w (r false false) = true ∧ gives (readRecord 2 none) w (bufRec 0 0x1000 true false) = true ∧
    gives (readRecord 3 none) w (r false true) = true ∧ gives (readRecord 4 none) w (bufRec 0x1000 0x1000 true false) = true ∧
    gives (readRecord 5 none) w 0 = true ∧ recordOk 0 = false ∧
    scratchAt hs (issuer (0, 0) pk) 0x1000 8 = none ∧ scratchAt hs (issuer (0, 0) pk) 16 8 = some (2 ^ 52 + 16) ∧
    gives (translate .rd 0x10010) w 0x10010 = true ∧
    gives (readRecord 0 none) w (bufRec 0 (2 ^ 52) false false) = false := by
  decide +kernel

/-- LaneMoveIndexed: indices of 0 and 1; with an immediate of -1 lane 0 is the lowest that names no register. -/
theorem wit_move_indexed :
    let p : Pack := { pk with lanes := [{}, { v := [{}, { val := 1 }] }] }
    let o : Opnd := { a := 1, d := 2, ext := some { imm16 := 0 } }
    let b : Opnd := { a := 1, d := 2, ext := some { imm16 := -1 } }
    let w (i : Instr) : W := startW (mk p) (issuer (0, 0) p) i
    (mk p).curPack? = some p ∧ operandCheck (.vmovx o) p = .go ∧ operandCheck (.vmovxw o) p = .go ∧ operandCheck (.vmovx b) p = .go ∧
    gives (movxCheck o 1 false) (w (.vmovx o)) () = true ∧ gives (movxCheck o 1 true) (w (.vmovxw o)) () = true ∧ takes p b 0 = true ∧
    (BitVec.toInt (-1 : BitVec 16)) + 0 < 0 := by
  decide +kernel

/-- LaneChecks: a register at the allotment; an empty source that traps, and one that waits. -/
theorem wit_lane_checks :
    let o : Opnd := { a := 1, b := 2, d := 20 }
    let o' : Opnd := { o with ext := some { ea := true } }
    let small : Pack := { pk with allot := 16 }
    let p : Pack := { pk with lanes := [{}, { v := [{}, { full := false }] }] }
    wordOf (.vadd o) = some (0x40, o) ∧ 0x40 ≤ 0x40 ∧ 0x40 < 0x90 ∧
    operandCheck (.vadd o) small = .stop (.trap 0x01 ((firstWord (.vadd o)).setWidth 64) none none) ∧
    o.x.wa = o.x.wd ∧ o.x.wb = o.x.wd ∧ o.lit = none ∧ small.allot < o.vd + dCount o.f o ∧ o.vd + dCount o.f o ≤ p.allot ∧
    o'.x.ea = true ∧ o.x.ea = false ∧ o.x.eb = false ∧ takes p o' 1 = true ∧ ((p.lane 1).reg 1).full = false ∧
    ((p.lane 0).reg 1).full = true ∧ ((p.lane 0).reg 1).bad = none ∧ ((p.lane 1).reg 1).bad = none ∧ p.pre = none ∧
    (∀ x ∈ [0, 1, 2], ((p.lane 1).reg x).ue = false) ∧ ({ ue := true } : VReg).ue = true := by
  decide +kernel

/-- `pk` with predicate 1 true in lane 0, and a stack. -/
def pd (st : List Entry) : Pack := { pk with lanes := [{ p := 2 }], stack := st }

/-- Divergence: each case of VBR, RECV and VBRK. -/
theorem wit_divergence :
    let o : Opnd := { a := 1, b := 0, d := 4, ext := some { imm16 := 8 } }
    let same : Opnd := { o with ext := some { imm16 := 4 } }
    let e (k : EntryKind) (ra : Word) : Entry := { kind := k, pc := ra, mask := 2, ra }
    let p := pd []
    let tgt := p.pc + o.lit.getD ((o.b ++ o.d).signExtend 64 * 4)
    p.sys.rgnpc = 0 ∧ tgt ≠ p.pc + o.x.imm16.signExtend 64 * 4 ∧ tgt = p.pc + same.x.imm16.signExtend 64 * 4 ∧
    pk.taken o = 0 ∧ p.taken o = 1 ∧ p.mask &&& ~~~(p.taken o) ≠ 0 ∧
    (let q : Pack := { p with mask := 1 }; q.taken o ≠ 0 ∧ q.mask &&& ~~~(q.taken o) = 0) ∧ p.stack.length < 256 ∧
    256 ≤ (pd (List.replicate 256 (e .join 0))).stack.length ∧
    (pd [e .exit tgt]).stack.head? = some (e .exit tgt) ∧ (e .exit tgt).ra = tgt ∧ p.stack.head? = none ∧
    (pd [e .pending p.pc]).stack = [e .pending p.pc] ∧ (e .pending p.pc).ra = (pd [e .pending p.pc]).pc ∧
    (e .exit 0).ra ≠ p.pc ∧ (e .join 0).kind ≠ .exit ∧ (pd [e .join 0, e .exit 0]).stack = [e .join 0] ++ e .exit 0 :: [] := by
  decide +kernel

/-- Resume: an empty stack, an entry whose lanes are there, one whose lanes have left. -/
theorem wit_resume :
    let e (m : Lanes) : Entry := { kind := .pending, pc := 0, mask := m, ra := 0 }
    (pd []).stack = [] ∧ (pd [e 2]).stack = e 2 :: [] ∧ (e 2).mask &&& (pd []).occ ≠ 0 ∧ (e (1 <<< 40)).mask &&& (pd []).occ = 0 := by
  decide +kernel

/-- FlowsOpenAndComplete, LanesLeave, Turns: a pack whose first two lanes run items of an ordered flow, at the head and behind it. -/
def pf : Pack :=
  { pk with
    lanes := [{ v := [{}, { val := 7 }], item := { label := 7, cls := .o, arr := 0 } }, { v := [{}, { val := 7 }], item := { label := 7, cls := .o, arr := 1 } }]
    mask := 3, occ := 3 }

/-- Its state. -/
def sf : State :=
  (base.setCtx 0 { base.ctx 0 with
    flowCap := 16, flows := [(7, { cls := .o, pins := [1], incomplete := [(0, 2)], nextArr := 2 })] }).setPack 0 0 pf

/-- FlowsOpenAndComplete. -/
theorem wit_flows :
    let o : Opnd := { f := 1, b := 1 }
    let x := sf.ctx 0
    sf.curPack? = some pf ∧ pf.sys.rgnpc = 0 ∧ operandCheck (.flow o) pf = .go ∧ takes pf o 1 = true ∧
    BitVec.ofNat 32 (bValue o 1 (pf.lane 1)) = 7 ∧ (x.flow? 7).map (·.cls) = some .o ∧ x.flows.length + 1 ≤ x.flowCap ∧
    (pf.lane 1).item.done = false ∧ (pf.lane 1).item.label = 7 ∧
    (∀ e ∈ x.flows, e.2.incomplete.Pairwise fun a b => a.1 + a.2 ≤ b.1) := by
  decide +kernel

/-- LanesLeave: END and FRELAB of some lanes and of all; VBRD in both kinds of launch. -/
theorem wit_lanes_leave :
    let o : Opnd := { f := 1, b := 1 }
    let one : Pack := { pf with mask := 1 }
    let done : Pack := { pk with id := { pk.id with det := true } }
    let f7 : Flow := { cls := .o, pins := [1], incomplete := [(0, 2)], nextArr := 2 }
    sf.cur = some (0, 0) ∧ one.occ &&& ~~~(one.part o) ≠ 0 ∧ one.part o ≠ 0 ∧ pf.occ &&& ~~~(pf.part o) = 0 ∧ pf.part o ≠ 0 ∧
    sf.records pf = false ∧ pf.id.walker = none ∧ pf.openOps = 0 ∧ pf.cnt = {} ∧ pf.fills = [] ∧ pf.held = [] ∧
    (pf.lanes.all fun n => n.v.all fun v => !v.due) = true ∧ (sf.ctx 0).pre = .none ∧ pf.sys.asyncerr = 0 ∧ pf.sys.cki &&& 3 = 0 ∧
    ((sf.ctx 0).flows.all fun e => pf.launches.all fun id => !e.2.pins.contains id) = true ∧
    operandCheck (.frelab o) one = .go ∧ operandCheck (.frelab o) pf = .go ∧ one.dueRegs (one.partList o) = [] ∧
    pf.dueRegs (pf.partList o) = [] ∧ sf.bankFull (clusterOf 0) 1 0 (pf.partList o).length false = false ∧
    sf.heldBack 0 (sf.fresh + 1) [7] = false ∧
    (sf.ctx 0).flow? 7 = some f7 ∧ f7.pins ≠ [] ∧ f7.live + 1024 ≤ 2 ^ 31 - 1 ∧
    done.mask ≠ 0 ∧ (sf.core 0).repacks = [] ∧ ((pd []).vbr { a := 1, d := 4, ext := some { imm16 := 8 } }).isSome = true ∧
    ((sf.setPack 0 1 pf).readyOthers 0 0 ≠ [] ∧ sf.readyOthers 0 0 = []) := by
  decide +kernel

/-- The same of a recorded pack: its entry can be written, or read, and what is recorded is its hash, or is not. -/
theorem wit_lanes_recorded :
    let o : Opnd := {}
    let pr (lag : Option (List (Word × Word))) : Pack := { pk with id := { pk.id with records := true }, lag }
    let sr (m : Nat) (p : Pack) : State := (hs.setCtx 0 { hs.ctx 0 with trlbase := 0x10200, trail := { mode := m } }).setPack 0 0 p
    let caught : Pack := { pr none with sys := { pk.sys with shash := 3 }, lag := some [] }
    let w (m : Nat) (p : Pack) : W := { startW (sr m p) (issuer (0, 0) p) (.endItems o) with st := (sr m p).setCurPack p }
    let read (m : Nat) : Nat := leNat ((List.range 8).map fun j => Memory.read (sr m (pr none)).mem (0x10400 + j))
    (sr 1 (pr none)).records (pr none) = true ∧ (sr 2 (pr none)).records (pr none) = true ∧ (pr none).occ &&& ~~~(pr none).part o = 0 ∧
    Memory.wf (sr 1 (pr none)).mem = true ∧ (sr 1 (pr none)).Calm ∧ (sr 1 (pr none)).curPack? = some (pr none) ∧ (pr none).sys.asyncerr = 0 ∧ (pr none).cnt = {} ∧
    gives (scalarAccess .wr 0 0x10400 8) (w 1 (pr none)) (true, 0x10400, 0x10400) = true ∧
    gives (scalarAccess .rd 0 0x10400 8) (w 2 (pr none)) (true, 0x10400, 0x10400) = true ∧
    gives (scalarAccess .wr 0 0x10400 8) (w 1 caught) (true, 0x10400, 0x10400) = true ∧
    inSlot0 ((sr 1 (pr none)).ctx 0) 0x10400 = false ∧ consumes (sr 2 (pr none)) 0x10400 8 = none ∧ read 2 = 0 ∧
    (pr none).sys.shash = 0 ∧ caught.sys.shash ≠ BitVec.ofNat 64 (read 2) := by
  unfold State.Calm
  decide +kernel

/-- Turns. -/
theorem wit_turns :
    let o : Opnd := { b := 1 }
    let e : HeelEntry := { ctx := 0, uid := 99, item := 0, stamp := 0, label := 7, arr := 0, launch := 0, scratch := false, addr := 0, bytes := [], full := false, spilled := false, region := 0 }
    let behind (s : State) (it : Item) : Bool := it.cls == .o && s.cores.any fun c => c.2.heel.any fun e =>
      e.ctx == 0 && e.label == it.label && decide (e.arr < it.arr) && e.uid != pf.id.uid
    operandCheck (.hrd o) pf = .go ∧ operandCheck (.hrd { o with f := 1 }) pf = .go ∧ pf.ownTurn (sf.ctx 0) 0 = true ∧
    (let q : Pack := { pf with lanes := [{ item := { label := 7, cls := .o, arr := 1 } }], mask := 1, occ := 1 }
     (q.partList o).all fun l => q.ownTurn (sf.ctx 0) l) = false ∧
    (({ pf with mask := 1 } : Pack).partList o).all (fun l => pf.ownTurn (sf.ctx 0) l && !behind sf (pf.lane l).item) = true ∧
    behind (sf.setCore 3 { sf.core 3 with heel := [e] }) (pf.lane 1).item = true ∧ pf.yields = false ∧
    ({ pf with prog := { wait := some { why := .yielded [], instr := .yield o } } } : Pack).yields = true := by
  decide +kernel
/-- What `m` gives, when it leaves everything as it was. -/
def got {α : Type} (m : M α) (w : W) : Option α :=
  match m w with
  | .ok x v => if v = w then some x else none
  | .error _ _ => none

theorem got_ok {α : Type} {m : M α} {w : W} {a : α} (h : got m w = some a) : m w = .ok a w := by
  unfold got at h
  split at h
  · rename_i e
    split at h
    · rename_i hw
      cases h
      rw [e, hw]
    · cases h
  · cases h

/-- A pack whose two lanes wait for their turn behind the head of an ordered flow, with the handles of `hs`. -/
def ph : Pack :=
  { pk with
    mask := 3, occ := 3
    lanes := [{ v := [{}, { val := 8 }], item := { label := 7, cls := .o, arr := 1 } }, { v := [{}, { val := 16 }], item := { label := 7, cls := .o, arr := 2 } }] }

/-- Its state. -/
def sh : State :=
  (hs.setCtx 0 { hs.ctx 0 with flowCap := 16, flows := [(7, { cls := .o, incomplete := [(0, 3)], nextArr := 3 })] }).setPack 0 0 ph

/-- LaneLoads: through a handle, from the scratchpad, with a granule that is empty, and one that C empties. -/
theorem wit_lane_loads :
    let o : Opnd := { a := 1, b := 63, d := 2, ext := some {} }
    let x : Opnd := { o with b := 1 }
    let w (i : Instr) : W := startW sh (issuer (0, 0) ph) i
    let all (acc : Acc) (i : Instr) (off : Nat → Nat) : Option LaneSet :=
      got (laneAccess acc true 1 4 (ph.part o) ((ph.partList o).map fun l => (l, off l))) (w i)
    sh.curPack? = some ph ∧ operandCheck (.vld o) ph = .go ∧ operandCheck (.vldx x) ph = .go ∧ operandCheck (.lds x) ph = .go ∧
    (all .rd (.vld o) (fun l => l * 4)).map (·.unfinished) = some [] ∧
    (all .rd (.vldx x) (fun l => (vectorOffset x (ph.lane l)).toNat)).map (·.unfinished) = some [] ∧
    (got (readRecord 1 (some (ph.part o))) (w (.vld o))).isSome = true ∧
    (got (scratchAccess 4 [(0, 8), (1, 16)]) (w (.lds x))).map (fun as => as.map (·.key)) = some [2 ^ 52 + 8, 2 ^ 52 + 16] ∧
    granulesOf (2 ^ 52 + 16) 4 = [1] ∧ sh.granEmpty = [] ∧ ({ sh with granEmpty := [1] } : State).granEmpty = [1] := by
  decide +kernel

/-- LaneStores: stored at once, and held, since no lane's turn has come. -/
theorem wit_lane_stores :
    let o : Opnd := { a := 1, b := 63, d := 2, ext := some {} }
    let x : Opnd := { o with b := 1 }
    let h : Opnd := { o with ext := some { hld := true } }
    let w (i : Instr) : W := startW sh (issuer (0, 0) ph) i
    sh.Calm ∧ Memory.wf sh.mem = true ∧ operandCheck (.vst o) ph = .go ∧ operandCheck (.vst h) ph = .go ∧ operandCheck (.vstx x) ph = .go ∧ operandCheck (.sts x) ph = .go ∧
    (got (laneAccess .wr true 1 4 (ph.part o) ((ph.partList o).map fun l => (l, l * 4))) (w (.vst h))).map (·.unfinished) = some [] ∧
    (got (laneAccess .wr true 1 4 (ph.part o) ((ph.partList o).map fun l => (l, l * 4))) (w (.vst o))).map (·.unfinished) = some [] ∧
    (got (laneAccess .wr true 1 4 (ph.part o) [(0, 8), (1, 16)]) (w (.vstx x))).map (·.unfinished) = some [] ∧
    (got (scratchAccess 4 [(0, 8), (1, 16)]) (w (.sts x))).isSome = true ∧ h.x.hld = true ∧ o.x.hld = false ∧
    ((ph.partList h).all fun l => (ph.lane l).item.cls == .o && !(ph.lane l).item.done && !turnCome (sh.ctx 0) (ph.lane l).item) = true ∧
    (sh.core 0).heel = [] ∧ 0 + 2 * ((4 + 15) / 16) ≤ Config.heelEntries := by
  unfold State.Calm
  decide +kernel

/-- LaneAtomics: two lanes on two words. -/
theorem wit_lane_atomics :
    let o : Opnd := { f := 1, a := 1, b := 1, d := 2, ext := some {} }
    let x : Opnd := { a := 1, b := 1, d := 2, ext := some {} }
    let w (i : Instr) : W := startW sh (issuer (0, 0) ph) i
    Memory.wf sh.mem = true ∧ ph.id.records = false ∧ ph.sys.rgnpc = 0 ∧ ph.prog.first = none ∧ operandCheck (.vatom o) ph = .go ∧ operandCheck (.xchl x) ph = .go ∧
    (got (laneAccess .rmw (isAtomicOp 1 0) 1 4 (ph.part o) [(0, 8), (1, 16)]) (w (.vatom o))).map (·.unfinished) = some [] ∧
    (got (laneAccess .rmw (isAtomicOp 0 0) 1 4 (ph.part x) [(0, 8), (1, 16)]) (w (.xchl x))).map (·.unfinished) = some [] := by
  decide +kernel

/-- Barriers: no lane takes part; an object that waits for two, with none arrived and with one; a pack with a pending path. -/
theorem wit_barriers :
    let o (n : Nat) : Opnd := { a := 0, b := 5, lit := some (BitVec.ofNat 64 n), ext := some {} }
    let s (b : BarObj) : State := put hs (2 ^ 52) b.bytes
    let b (n : Nat) : BarObj := { expect := 2, arrived := n, phase := false, ovr := false, reserved := false }
    let obj (t : State) (key : Nat) : BarObj := parseBar (leNat ((List.range 16).map fun j => Memory.read t.mem (key + j)))
    let e : Entry := { kind := .pending, pc := 0x10000, mask := 1, ra := 0 }
    Memory.wf (s (b 0)).mem = true ∧ (s (b 0)).dev.triggers = [] ∧ ({ pk with mask := 0 } : Pack).part (o 1) = 0 ∧ pk.part (o 1) ≠ 0 ∧ barKey (s (b 0)) (issuer (0, 0) pk) 0 = some (2 ^ 52) ∧
    pk.readG 0 + (o 1).x.imm16.signExtend 64 * 16 = 0 ∧ obj (s (b 0)) (2 ^ 52) = b 0 ∧ obj (s (b 1)) (2 ^ 52) = b 1 ∧
    (pk.opB (o 1)).toNat % 2 ^ 32 = 1 ∧ (b 1).arrived + 1 = (b 1).expect ∧ (b 0).arrived + 1 < (b 0).expect ∧
    (b 1).expect < (b 1).arrived + 2 ∧ pk.priv = 0 ∧ (hs.ctx 0).tvec &&& 0xFFFFFFFFFFFFFFFC ≠ 0 ∧ pk.stack.head? = none ∧
    e.kind = .pending ∧ e.bar = none ∧ (pk.readG 5).getLsbD 0 = false ∧
    (let e2 : Entry := { e with bar := some (2 ^ 52, false) }
     let q : Pack := { pk with stack := [e2], prog := { wait := some { why := .barrier (2 ^ 52) true, instr := .barw (o 1) } } }
     e2.bar = some (2 ^ 52, false) ∧ (obj (s (b 0)) (2 ^ 52)).phase = false ∧ q.atBarrier = true ∧ q.prog.wait ≠ none ∧ pk.prog.wait = none ∧ q.stack = e2 :: [] ∧
     ({ e with bar := some (2 ^ 52, true) } : Entry).bar ≠ none ∧ (obj (s (b 0)) (2 ^ 52)).phase ≠ true) ∧ ({ pk with g := [0, 0, 0, 0, 0, 1] } : Pack).readG 5 = 1 ∧
    (s (b 0)).curPack? = some pk := by
  decide +kernel

/-- Guards: a free guard at 0x10000, not asked for, asked for, held, and a ninth one; requests that are granted together, alone, not at all,
that wait no longer, and one of a peer. -/
theorem wit_guards :
    let o : Opnd := { a := 0, b := 5, ext := some {} }
    let p : Pack := { pk with g := [0, 0, 0, 0, 0, 0x10000] }
    let h (a : Nat) : HeldGuard := { addr := BitVec.ofNat 64 a, loc := a, excl := true }
    let q : Pack := { p with held := [h 0x10000] }
    let nine : Pack := { p with held := (List.range 8).map fun n => h (0x20000 + 16 * n) }
    let r (core slot : Nat) (excl : Bool) : GuardReq := { core, slot, uid := p.id.uid, excl, addr := 0x10000 }
    let obj (t : State) (key : Nat) : GuardObj := parseGuard (leNat ((List.range 16).map fun j => Memory.read t.mem (key + j)))
    let w (p : Pack) (i : Instr) : W := startW (hm p) (issuer (0, 0) p) i
    let off := p.readG 5 + o.x.imm16.signExtend 64 * 16
    let waits : Pack := { p with prog := { wait := some { why := .guard 0x10000, instr := .acq o } } }
    let s (p : Pack) (l : List GuardReq) : State := { (hm p).setPack 0 1 p with guardQ := [(0x10000, l)] }
    let g (s : State) : State := put s 0x10000 ({ shared := 1, excl := false, owner := 0, epoch := 0, rest1 := 0, rest2 := 0 } : GuardObj).bytes
    Memory.wf (hm p).mem = true ∧ Memory.wf (g (s waits [])).mem = true ∧ (hm q).Calm ∧
    gives (scalarAccess .rmw 0 off 16) (w p (.acq o)) (true, 0x10000, 0x10000) = true ∧
    gives (scalarAccess .rmw 0 off 16) (w q (.acq o)) (true, 0x10000, 0x10000) = true ∧
    gives (scalarAccess .rmw 0 off 16) (w nine (.acq o)) (true, 0x10000, 0x10000) = true ∧
    gives (scalarAccess .rmw 0 off 16) (w q (.rel o)) (true, 0x10000, 0x10000) = true ∧
    gives (scalarAccess .rmw 0 off 16) (w p (.rel o)) (true, 0x10000, 0x10000) = true ∧
    (entryOf (w p (.acq o)) 0x10000).all (fun e => !e.ha) = true ∧ (entryOf (w q (.rel o)) 0x10000).all (fun e => !e.ha) = true ∧
    p.holds 0x10000 = none ∧ (q.holds 0x10000).isSome = true ∧ 8 ≤ nine.held.length ∧ p.priv = 0 ∧
    (hs.ctx 0).tvec &&& 0xFFFFFFFFFFFFFFFC ≠ 0 ∧ Table.getD (hm p).guardQ 0x10000 [] = [] ∧
    (Table.getD (s p [r 0 0 true]).guardQ 0x10000 []).any (fun r => r.uid == p.id.uid) = true ∧
    ¬ ((hs.ctx 0).htab.toNat ≤ 0x10000 ∧ 0x10000 < (hs.ctx 0).htab.toNat + 64) ∧ (s p []).dev.tripped = false ∧ (s p []).Calm ∧
    (let s := s waits [r 0 0 false, r 0 1 false, r 0 2 true]
     Table.getD s.guardQ 0x10000 [] = [r 0 0 false, r 0 1 false] ++ [r 0 2 true] ∧
     ([r 0 0 false, r 0 1 false].map fun r => (r.core, r.slot)).Nodup ∧ (r 0 1 false).core < Config.numCores ∧
     s.pack? 0 0 = some waits ∧ s.pack? 0 1 = some waits ∧ (obj s 0x10000).excl = false ∧ (obj s 0x10000).shared + 2 < 2 ^ 32 ∧
     (obj s 0x10000).shared = 0) ∧
    (obj (g (s waits [r 0 0 true])) 0x10000).shared ≠ 0 ∧ (r Config.numCores 7 true).core ≥ Config.numCores ∧
    (r Config.numCores 7 true).slot < 2 ^ 16 ∧ p.prog.wait = none := by
  unfold State.Calm
  decide +kernel
/-- BindingsAndRegisters: a binding that is new and one that stands; allotments above and below; a request that waits and one that has
been met. -/
theorem wit_bindings :
    let p : Pack := { pk with g := [0, 0, 0, 0, 0, 0x10000], allot := 16 }
    let s := hm p
    let o : Opnd := { a := 1, d := 5, lit := some (2 ^ 32), ext := some {} }
    let n (c : Nat) : Opnd := { lit := some (BitVec.ofNat 64 c) }
    let y : Binding := { base := 0x10000, start := 0, len := 128, swb := 0, swl := 0, sws := 0, space := false, guard := 0x10000 }
    let w (i : Instr) : W := startW s (issuer (0, 0) p) i
    gives (readRecord 1 none) (w (.bind o)) (bufRec 0x10000 0x1000 false false) = true ∧
    gives (scalarAccess .rmw 0 (p.readG 5) 16) (w (.bind o)) (true, 0x10000, 0x10000) = true ∧
    gives (readRecord 1 none) (w (.unbind o)) (bufRec 0x10000 0x1000 false false) = true ∧
    gives (scalarAccess .rmw 0 (p.readG 5) 16) (w (.unbind o)) (true, 0x10000, 0x10000) = true ∧
    (p.opB o).toNat % 2 ^ 32 = 0 ∧ (p.opB o).toNat / 2 ^ 32 = 1 ∧
    (let h := parseHnd (bufRec 0x10000 0x1000 false false); h.extent = 0x1000 ∧ h.base = 0x10000 ∧ h.swb = 0 ∧ h.space = false) ∧
    (s.ctx 0).bindings = [] ∧ ([y] : List Binding).length < 256 ∧ p.prog.wait = none ∧ ((p.opB (n 24)).toInt + 7) / 8 * 8 = 24 ∧
    (p.allot : Int) < 24 ∧ (p.width : Int) * 24 ≤ s.capacity 0 0 ∧ (s.core 0).growing = [] ∧
    (({ p with prog := { wait := some { why := .grow 16, instr := .grow (n 16) } } } : Pack).prog.wait).isSome = true ∧
    ((p.opB (n 8)).toInt + 7) / 8 * 8 < p.allot ∧
    (let s := s.setCore 0 { s.core 0 with growing := [(0, 24)] }
     (s.core 0).growing.find? (fun e => e.1 == 0) = some (0, 24) ∧ s.pack? 0 0 = some p ∧ s.usedRegs 0 + p.width * (24 - p.allot) ≤ s.capacity 0 0) := by
  decide +kernel

/-- RegionsAndHints: values due and none, inside a region and outside; a hint; ranges of granules. -/
theorem wit_regions :
    let o : Opnd := { f := 1, a := 0, b := 5 }
    let n (c : Nat) : Opnd := { a := 0, lit := some (BitVec.ofNat 64 c), ext := some {} }
    let w : W := startW hs (issuer (0, 0) pk) (.pref o)
    pk.anyDue = false ∧ ({ pk with lanes := [{ v := [{ full := false, due := true }] }] } : Pack).anyDue = true ∧ pk.sys.rgnpc = 0 ∧
    (got (prefEntry o) w).isSome = true ∧ (pk.opB (n 0)).toNat = 0 ∧ (pk.opB (n 32)).toNat = 32 ∧
    pk.readG 0 + (n 32).x.imm16.signExtend 64 * 16 = 0 ∧ scratchAt hs (issuer (0, 0) pk) 0 32 = some (2 ^ 52) ∧
    granulesOf (2 ^ 52) 32 = [0, 1] := by
  decide +kernel

/-- Translations: a leaf that is well formed, at handler level; a pack that it may serve. -/
theorem wit_translations :
    let leaf : Nat := 0x10000 + 0b11111
    let p : Pack := { pk with priv := 1, g := [0, 0, 0, 0, 0, BitVec.ofNat 64 leaf] }
    let o : Opnd := { a := 0, b := 5, ext := some {} }
    (hm p).curPack? = some p ∧ p.priv ≠ 0 ∧ (p.readG 5).toNat = leaf ∧ leaf.testBit 0 = true ∧ leaf.testBit 1 = true ∧
    malformed hs.dev (leafLevel (bits leaf 11 9)) leaf = false ∧ o.x.c = 0 ∧ ({ o with ext := some { c := 5 } } : Opnd).x.c ≠ 0 ∧
    (packId 0 1 32).toNat % 2 ^ 22 = (packId 0 1 32).toNat ∧ hs.dev.tripped = false := by
  decide +kernel

/-- EngineIssue: records that are read; counts below and at their limit; an error recorded for a class. -/
theorem wit_engine_issue :
    let w (i : Instr) : W := startW hs (issuer (0, 0) pk) i
    let o : Opnd := { a := 1, d := 2, b := 63, ext := some {} }
    let full : Pack := { pk with cnt := { cp := 255, gt := 255, cl := 255 } }
    let failed : Pack := { pk with sys := { pk.sys with asyncerr := 1 } }
    let x := bufRec 0x10000 0x1000 false false
    let y := bufRec 0 0x1000 true false
    gives (readRecord 1 none) (w (.cpy o)) x = true ∧ gives (readRecord 2 none) (w (.cpy o)) y = true ∧
    gives (readRecord 1 none) (w (.cpym o)) x = true ∧ gives (readRecord 2 none) (w (.cpym o)) y = true ∧
    gives (readRecord 1 none) (w (.coll o)) x = true ∧ gives (readRecord 2 none) (w (.coll o)) y = true ∧
    (got (readRecord 0 none) (w (.coll o))).isSome = true ∧ operandCheck (.gth o) pk = .go ∧
    gives (readRecord 1 (some (pk.part o))) (w (.gth o)) x = true ∧ gives (readRecord 2 (some (pk.part o))) (w (.gth o)) y = true ∧
    pk.cnt.cp < 255 ∧ pk.cnt.gt < 255 ∧ pk.cnt.cl < 255 ∧ 255 ≤ full.cnt.cp ∧ 255 ≤ full.cnt.gt ∧ 255 ≤ full.cnt.cl ∧
    (pk.opB o).toNat < full.cnt.of (engOf 0) ∧ pk.cnt.of (engOf 0) ≤ (pk.opB o).toNat ∧ pk.sys.asyncerr.getLsbD (engCode (engOf 0)) = false ∧
    failed.sys.asyncerr.getLsbD (engCode (engOf 0)) = true ∧ pk.priv = 0 ∧ (hs.ctx 0).tvec &&& 0xFFFFFFFFFFFFFFFC ≠ 0 := by
  decide +kernel

/-- MatrixIssue: operands that pass, records without scales; a batch that is open, with room and without. -/
theorem wit_matrix_issue :
    let w (i : Instr) : W := startW hs (issuer (0, 0) pk) i
    let o : Opnd := { a := 1, b := 1, d := 0, ext := some { imm16 := 5, c := 1 } }
    let s (sel : Nat) : Opnd := { o with ext := some { o.x with imm16 := BitVec.ofNat 16 (sel * 2 ^ 12 + 5) } }
    let x := bufRec 0x10000 0x1000 false false
    let lanes := (pk.partList o).filter (· < 128)
    ([.mma o, .mmas (s 0), .mmas (s 3), .mld o, .mst o, .manc o] : List Instr).all (fun i => gives (mxCheck i) (w i) ()) = true ∧
    ([.mma o, .mmas (s 0), .mld o, .mst o] : List Instr).all (fun i =>
      gives (readRecord 1 (some (pk.part o))) (w i) x && gives (scaleRecord x (some (pk.part o))) (w i) 0) = true ∧
    4 ≤ pk.allot ∧
    gives (checkIn (lanes.dedup) [{ which := 2, base := 0, count := 4, trap := false }]) (w (.mmas (s 0))) () = true ∧
    pk.openOps = 0 ∧ ({ pk with openOps := 1 } : Pack).openOps ≠ 0 ∧ pk.cnt.mx < 255 ∧ 255 ≤ ({ mx := 255 } : Counts).mx := by
  decide +kernel

/-- ScentIssue: operands that pass; queries outstanding and none; a sequence with an operation pending and one without. -/
theorem wit_scent_issue :
    let w (i : Instr) : W := startW hs (issuer (0, 0) pk) i
    let o : Opnd := { a := 1, b := 5, d := 2, ext := some {} }
    ([.scnew o, .scqry o, .scapp o, .scatt o] : List Instr).all (fun i => gives (scAllot i) (w i) ()) = true ∧
    regCheck pk [0] [] [o.vd] = .go ∧ regCheck pk (List.range 16) [] [o.vd] = .go ∧
    regCheck pk (List.range 0) [{ which := 1, base := o.vb, count := 1, trap := o.x.eb }] [] = .go ∧
    (got (readRecord 1 none) (w (.scnew o))).isSome = true ∧ (got (readRecord 2 none) (w (.scsave o))).isSome = true ∧
    (got (readRecord 2 none) (w (.scload o))).isSome = true ∧ pk.cnt.sc < 255 ∧ pk.queries = 0 ∧
    ({ pk with queries := 1 } : Pack).queries ≠ 0 ∧ hs.scActs pk.id.uid 0 = false ∧
    State.scActs (hs.setDie 0 { hs.die 0 with scq := [{ head := { core := 0, slot := 0, uid := pk.id.uid, ctx := 0, seq := 1 }, kind := .free, a := 0, b := 0, hrec := 0, vd := 0, d := 0, toks := [], width := 0 }] }) pk.id.uid 0 = true := by
  decide +kernel

/-- LaneIssue: no lane takes part; every lane holds the word of VADD v2, v1, v1. -/
theorem wit_lane_issue :
    let w : Half := 0x00410900
    let i : Instr := .vadd { b := 1, a := 1, d := 2 }
    let p : Pack := { pk with lanes := List.replicate 32 { v := [{ val := w }, { val := 5 }] } }
    let o : Opnd := {}
    let p1 : Pack := { p with mask := maskOf (p.partList o) }
    let s1 := (mk p).setCurPack p1
    let q := after i s1
    operandCheck (.issv o) p = .go ∧ (mk p).curPack? = some p ∧ (mk p).mismatches = [] ∧ p.prog = {} ∧ ({ p with mask := 0 } : Pack).partList o = [] ∧
    p.partList o ≠ [] ∧ (p.partList o).all (fun l => ((p.lane l).reg o.va).val == w) = true ∧ laneInstr p w 1 = some i ∧
    (match exec i s1 with | .next t => decide (t = s1.after q) | _ => false) = true ∧
    ((q.lane 3).reg 2).val = 10 ∧ q = { p1 with lanes := q.lanes, pc := p1.pc + BitVec.ofNat 64 (opndOf i).len, prog := {} } ∧
    ((List.range 32).all fun l => takes p1 (opndOf i) l) = true := by
  decide +kernel

/-- A task record (R277): items, label 9, class, width 32, 8 registers per lane, kernel 0x10000, and further bits. -/
def taskRec (count cls done extra : Nat) : Nat :=
  1000 + count * 2 ^ 64 + 0x10000 * 2 ^ 128 + 9 * 2 ^ 256 + cls * 2 ^ 288 + 5 * 2 ^ 290 + 2 ^ 342 + done * 2 ^ 384 + extra

/-- `hs` in full service, label 9 active, with task records at 0x10400 (one that is refused at 0x10440, with a completion record, one
refused without at 0x10480), a graph descriptor at 0x10800 and a node table at 0x10A00. -/
def sk : State :=
  let s := hs.setCtx 0 { hs.ctx 0 with flowCap := 16, flows := [(9, { cls := .o, nextArr := 4 })] }
  let s : State := { s with dev := { s.dev with service := .full } }
  let s := put s 0x10400 (leBytes 64 (taskRec 40 1 0 0))
  let s := put s 0x10440 (leBytes 64 (taskRec 40 2 0x10007 0))
  let s := put s 0x10480 (leBytes 64 (taskRec 40 3 0 0))
  let s := put s 0x10800 (leBytes 32 (0x10A00 + 7 * 2 ^ 64 + 3 * 2 ^ 96))
  put s 0x10A00 (leBytes 64 1 ++ leBytes 64 (taskRec 40 1 0 0))

/-- A pack of it that names those records. -/
def pg : Pack := { pk with g := [0, 0x10400, 0x10440, 0x10480, 0x10800, 0x10A00] }

/-- The submission of the first. -/
def sub1 : Submission := { cluster := 0, bank := 1, task := taskRec 40 1 0 0, issuer := some 0 }

/-- It joins. -/
theorem sub1_joins : Joins (sk.setPack 0 0 pg) sub1 { cls := .o, nextArr := 4 } := by
  refine ⟨⟨?_, ?_, ?_, ?_⟩, ?_, ?_, ?_, ?_⟩ <;> decide +kernel

/-- SubmissionInstructions: a record that joins (above), refused ones, a full bank; ENQ with and without lanes; a graph and a table. -/
theorem wit_submission :
    let s := sk.setPack 0 0 pg
    let w (i : Instr) : W := startW s (issuer (0, 0) pg) i
    let at_ (a : Nat) : Opnd := { a := BitVec.ofNat 6 a, b := 5, d := 6, ext := some {} }
    let x (t : Nat) : Submission := { sub1 with task := t }
    let full := (s.setCtx 0 { s.ctx 0 with ovrSize := 24 }).setBank 0 1 { s.bank 0 1 with spilled := [{ acc := 0, launch := 0, ctx := 0, prio := 0, src := .run 0 0 1, before := 0 }] }
    let e : Opnd := at_ 1
    let y : Submission := { sub1 with items := some ((pg.partList e).map fun l => (BitVec.ofNat 64 (bValue e 1 (pg.lane l)), 9)) }
    gives (readBlock (pg.readG 1) 64) (w (.launch (at_ 1))) (0x10400, 0x10400, taskRec 40 1 0 0) = true ∧
    gives (readBlock (pg.readG 2) 64) (w (.launch (at_ 2))) (0x10440, 0x10440, taskRec 40 2 0x10007 0) = true ∧
    gives (readBlock (pg.readG 3) 64) (w (.launch (at_ 3))) (0x10480, 0x10480, taskRec 40 3 0 0) = true ∧
    (refusal s (x (taskRec 40 2 0x10007 0))).isSome = true ∧ (refusal s (x (taskRec 40 3 0 0))).isSome = true ∧
    full.bankFull 0 1 0 1 false = true ∧ s.bankFull 0 1 0 1 false = false ∧ Memory.wf s.mem = true ∧ (s.ctxs.any fun e => e.1 == 0) = true ∧
    operandCheck (.enq e) pg = .go ∧ ({ pg with mask := 0 } : Pack).part e = 0 ∧ pg.part e ≠ 0 ∧ pg.partList e ≠ [] ∧
    gives (withImage (some (pg.part e)) (readBlock (pg.readG 1) 64)) (w (.enq e)) (0x10400, 0x10400, taskRec 40 1 0 0) = true ∧
    s.bankFull 0 1 (parseTask y.task).ctx (pg.partList e).length false = false ∧ refusal s y = none ∧ (parseTask y.task).clmask = 0 ∧
    ((s.ctx 0).flow? 9).map (·.cls) = some (parseTask y.task).cls := by
  decide +kernel

/-- The node of the table at 0x10A00, as GRUN at 0x10800 submits it. -/
def node1 : Submission :=
  { cluster := homeDie 0x10800 * 6, bank := 2, task := leNat ((List.range 64).map fun j => Memory.read sk.mem (0x10A40 + j)) + 0x10A00 * 2 ^ 192
    node := some { die := homeDie 0x10800, inst := (sk.setPack 0 0 pg).fresh, node := 0 } }

/-- It joins. -/
theorem node1_joins : Joins (sk.setPack 0 0 pg) node1 { cls := .o, nextArr := 4 } := by
  refine ⟨⟨?_, ?_, ?_, ?_⟩, ?_, ?_, ?_, ?_⟩ <;> decide +kernel

/-- The same of GRUN, with room and without, on a descriptor with a reserved bit, and of GCOMMIT. -/
theorem wit_graph :
    let s := sk.setPack 0 0 pg
    let w (i : Instr) : W := startW s (issuer (0, 0) pg) i
    let o : Opnd := { a := 4, b := 5, d := 6 }
    let x := 0x10A00 + 7 * 2 ^ 64 + 3 * 2 ^ 96
    let plain (x : Nat) : Bool := bits x 511 185 == 0 && bits x 127 115 == 0
    let node := leNat ((List.range 128).map fun j => Memory.read s.mem (0x10A40 + j))
    let d := homeDie 0x10800
    let inst : GraphInst :=
      { id := s.fresh, ctx := 0, loc := 0x10800, desc := 0x10800, gen := 3, table := 0x10A00, argp := pg.readG 5, running := [], arrived := []
        err := none, doneAt := 0 }
    let started : State := { s.setDie d { s.die d with graphs := [inst] } with fresh := s.fresh + 1 }
    let q : Pack := { pg with pc := pg.pc + 4, prog := {}, g := (pg.writeG 6 3).g }
    let w1 : W := { w (.grun o) with st := started.setCurPack q
                                     log := ((leBytes 2 4 ++ leBytes 1 1).zipIdx.map fun e => (0x10800 + 12 + e.2, e.1)).reverse }
    gives (readBlock (pg.readG 4) 64) (w (.grun o)) (0x10800, 0x10800, x) = true ∧
    plain x = true ∧ plain (x + 2 ^ 200) = false ∧ graphFree s 0x10800 = true ∧ inSlot0 (s.ctx 0) 0x10800 = false ∧ s.Calm ∧ Memory.wf s.mem = true ∧
    (match readBlock 0x10A00 128 (w (.grun o)) with | .ok (_, _, t) v => bits t 31 0 == 1 && bits t 511 32 == 0 && decide (v = w (.grun o)) | _ => false) = true ∧
    (let g (n : Nat) : GraphInst := { inst with id := n, gen := n }
     graphFree (s.setDie d { s.die d with graphs := [g 0, g 1, g 2, g 3] }) 0x10800 = false) ∧
    (match (do dueRoots d s.fresh 1; drainInst d s.fresh drainFuel : M Unit) w1 with | .ok () _ => true | _ => false) = true ∧
    (s.die d).graphs = [] ∧
    ((List.range 128).all fun j => (tlbFind (s.core (d * 144)).tlb 0 ((0x10A00 + 64) % 2 ^ 57 + j)).map
      (fun e => canonPa s.dev (e.pa ((0x10A00 + 64) % 2 ^ 57 + j))) == some (0x10A40 + j)) = true ∧
    0x10800 + 15 ≤ 0x10A40 ∧ bits node 591 576 = 0 ∧ bits node 639 608 = 0 ∧ bits node 1023 768 = 0 ∧
    bits (bits node 511 0) 248 192 = 0 ∧ bits node 511 0 + inst.argp.toNat % 2 ^ 57 * 2 ^ 192 = node1.task ∧
    (match readBlock (pg.readG 4) 64 (w (.gcommit o)), readBlock (pg.readG 5) 128 (w (.gcommit o)) with
     | .ok (va, _, y) v, .ok _ v' => va == 0x10800 && y == x && decide (v = w (.gcommit o) ∧ v' = w (.gcommit o))
     | _, _ => false) = true := by
  unfold State.Calm
  decide +kernel
/-- `sk` with the first record submitted from the host, taken, and its arguments read. -/
def sq : State := (match exec (.hostSubmission 0 64 64 (BitVec.ofNat 512 (taskRec 40 1 0 0))) sk with | .next t => t | _ => sk)

/-- Its submission joins. -/
theorem sk_joins : Joins sk { cluster := 0, bank := 0, task := taskRec 40 1 0 0 } { cls := .o, nextArr := 4 } := by
  refine ⟨⟨?_, ?_, ?_, ?_⟩, ?_, ?_, ?_, ?_⟩ <;> decide +kernel

/-- A state in which a second cluster has a core with a window for the context. -/
def s2c : State := sk.setCore 24 { wins := [(0, { base := 0, size := 0x10000 })] }

/-- A submission that names three clusters, two of which take parts (R286). -/
theorem wide_joins :
    let x : Submission := { cluster := 0, bank := 0, task := taskRec 40 1 0 (7 * 2 ^ 360) }
    s2c.receivers x = [0, 1] ∧ Joins s2c x { cls := .o, nextArr := 4 } := by
  refine ⟨by decide +kernel, ⟨?_, ?_, ?_, ?_⟩, ?_, ?_, ?_, ?_⟩ <;> decide +kernel

/-- The same record in bank 2, behind which a node of a graph waits for room. -/
def sw : State :=
  let g : GraphInst := { id := 5, ctx := 0, loc := 0x10800, desc := 0x10800, gen := 3, table := 0x10A00, argp := 0x10A00, running := [], arrived := []
                         err := none, doneAt := 0, pending := [0] }
  ((sq.setBank 0 0 {}).setBank 0 2 (sq.bank 0 0)).setDie 0 { sq.die 0 with graphs := [g] }

/-- `sw` once the record has been taken. -/
def swTaken : State :=
  match sw.nextBank 0 with
  | some (b, r) =>
    let s1 := sw.setBank 0 b { sw.bank 0 b with recs := [] }
    let c := s1.cluster 0
    s1.setCluster 0 { c with lastBank := b, taken := c.taken ++ [{ q := r, bank := b, placed := 0 }] }
  | none => sw

/-- The node that waits joins then. -/
theorem node_waits : ∃ f, Joins swTaken
    { cluster := 0, bank := 2, task := leNat ((List.range 64).map fun j => Memory.read sk.mem (0x10A40 + j)) + 0x10A00 * 2 ^ 192
      node := some { die := 0, inst := 5, node := 0 } } f :=
  ⟨((swTaken.ctx 0).flow? 9).getD { cls := .u }, by refine ⟨⟨?_, ?_, ?_, ?_⟩, ?_, ?_, ?_, ?_⟩ <;> decide +kernel⟩

/-- KennelRecords, of bank 2: the record that leaves it, and the completion of the launch of an instance's last node. -/
theorem wit_bank2 :
    let node := leNat ((List.range 128).map fun j => Memory.read sw.mem (0x10A40 + j))
    let at_ (s : State) (a : Nat) := (tlbFind (s.core 0).tlb 0 a).map (fun e => canonPa s.dev (e.pa a))
    let s := (sq.setLaunch 2 { sq.launch 2 with
      task := { (sq.launch 2).task with done := 0 }, left := 0, unplaced := 0, node := some { die := 0, inst := 5, node := 0 } }).setDie 0
        { sq.die 0 with graphs := (sw.die 0).graphs.map fun g => { g with pending := [], running := [0] } }
    (sw.nextBank 0).map (fun e => (e.1, (sw.launch e.2.launch).arr.isSome)) = some (2, true) ∧
    (List.range 128).all (fun j => at_ sw (0x10A40 + j) == some (0x10A40 + j)) = true ∧ bits node 639 608 = 0 ∧ bits node 1023 768 = 0 ∧
    ((sw.die 0).graphs.map fun g => (g.pending, g.err)) = [([0], none)] ∧ (sw.dies.map (·.1)) = [0] ∧
    s.launchOver 2 = true ∧ (s.launch 2).err = none ∧ ((s.ctx 0).flows.all fun f => !f.2.pins.contains 2) = true ∧ s.Calm ∧ Memory.wf s.mem ∧
    (List.range 128).all (fun j => at_ s (0x10A40 + j) == some (0x10A40 + j)) = true ∧
    leNat ((List.range 2).map fun j => Memory.read s.mem (0x10A40 + 74 + j)) = 0 ∧ at_ s 0x1080E = some 0x1080E ∧
    inSlot0 (s.ctx 0) 0x1080E = false := by
  unfold State.Calm
  decide +kernel

/-- The same once the record has been taken and its arguments read. -/
def st : State :=
  match exec (.kennelTakeRecord 0) sq with
  | .next t => t.setLaunch 2 { t.launch 2 with args := some [7] }
  | _ => sq

/-- KennelRecords: writes to a window before full service, malformed, the first block of a gang, a task; banks that spill and refill; a
record to take, in a launch whose items have their numbers and in one whose items have none; argument blocks; launches that are over. -/
theorem wit_kennel :
    let rec_ (n : Nat) : QRec := { acc := n, launch := 0, ctx := 0, prio := 0, src := .gang }
    let big := (sk.setCtx 0 { sk.ctx 0 with ovrSize := 4096 }).setBank 0 0 { recs := List.replicate 960 (rec_ 1) }
    let small := sk.setBank 0 0 { spilled := [rec_ 1] }
    let un := sq.setLaunch 2 { sq.launch 2 with arr := none }
    let ended (done : Word) : State := st.setLaunch 2 { st.launch 2 with task := { (st.launch 2).task with done }, left := 0, unplaced := 0 }
    let args (argp : Word) := readArgs 0 (sq.argCore 0) [] argp (startW sq noWho (.nop {}))
    let walks := sq.setCtx 0 { sq.ctx 0 with programmable := true }
    sk.dev.tripped = false ∧ sk.dev.service = .full ∧ Memory.wf (ended 0x10040).mem = true ∧ (ended 0x10040).Calm ∧ ({ sk.dev with service := .reduced } : Device).service ≠ .boot ∧
    (sk.bank 0 0).gangFirst = none ∧ (BitVec.ofNat 512 (taskRec 40 1 0 0)).getLsbD 357 = false ∧
    (BitVec.ofNat 512 (taskRec 40 1 0 (2 ^ 357))).getLsbD 357 = true ∧ 960 ≤ recWeight (big.bank 0 0).recs ∧ (small.bank 0 0).head = some (rec_ 1) ∧ un.enqOf 2 = none ∧
    spillable big 0 0 = some (rec_ 1) ∧ recWeight (small.bank 0 0).recs + (rec_ 1).weight < 960 ∧ rec_ 1 ∈ (small.bank 0 0).spilled ∧
    (sq.nextBank 0).map (·.1) = some 0 ∧ (sq.launch 2).arr = some 4 ∧ (un.nextBank 0).isSome = true ∧ (un.launch 2).arr = none ∧
    ((sq.ctx 0).flow? 9).isSome = true ∧ (Table.get? sq.launches 2).isSome = true ∧ (sq.launch 2).args = none ∧ (sq.launch 2).failed = false ∧
    (match args 0 with | .ok (.ok []) w => decide (w = startW sq noWho (.nop {})) | _ => false) = true ∧
    (match args 0x900000 with | .ok (.error _) w => decide (w = startW sq noWho (.nop {})) | _ => false) = true ∧
    (match readArgs 0 (walks.argCore 0) [] 0x900000 (startW walks noWho (.nop {})) with
     | .error (.miss [va] _) w => va == 0x900000 && decide (w = startW walks noWho (.nop {})) | _ => false) = true ∧
    (∀ m ∈ (walks.core (walks.argCore 0)).misses, m.launch = some 2 → m.page ≠ 0x900) ∧ (∀ e ∈ sq.dies, ∀ g ∈ e.2.graphs, g.pending = []) ∧
    (ended 0).launchOver 2 = true ∧ ((ended 0).launch 2).node = none ∧ (((ended 0).ctx 0).flows.all fun f => !f.2.pins.contains 2) = true ∧
    (List.range 16).all (fun j => residentKey (startW (ended 0x10040) noWho (.nop {})) 0 0 (0x10040 + j) == some (0x10040 + j)) = true ∧
    ((ended 0x10040).launch 2).err = none := by
  unfold State.Calm
  decide +kernel

/-- A gang of three packs in two roles (R278, R279), submitted, taken, its arguments read. -/
def sg : State :=
  let block := taskRec 128 1 0 (2 ^ 357) - 2 ^ 342 - 0x10000 * 2 ^ 128
  let roles := 2 * 2 ^ 75 + 2 ^ 64 + 0x20000 + (2 ^ 75 + 2 ^ 70 + 2 * 2 ^ 64 + 0x30000) * 2 ^ 128
  match exec (.hostSubmission 0 0 64 (BitVec.ofNat 512 roles)) (sk.setBank 0 0 { sk.bank 0 0 with gangFirst := some (BitVec.ofNat 512 block) }) with
  | .next t =>
    match exec (.kennelTakeRecord 0) t with
    | .next t => t.setLaunch 2 { t.launch 2 with args := some [7] }
    | _ => t
  | _ => sk

/-- PackStarts: a full pack of a launch, its last pack, a gang. -/
theorem wit_starts :
    let t : Taken := (st.cluster 0).taken.headD { q := { acc := 0, launch := 0, ctx := 0, prio := 0, src := .gang }, bank := 0, placed := 0 }
    let key := keyOf st t.q
    let last := st.setCluster 0 { st.cluster 0 with taken := [{ t with placed := 32 }] }
    (st.cluster 0).taken = [t] ∧ (match t.q.src with | .run _ _ m => m == 40 | _ => false) = true ∧ t.q.launch = 2 ∧
    (Table.get? st.launches 2).isSome = true ∧ (st.launch 2).task.cls ≠ .a ∧ (st.launch 2).args = some [7] ∧ (st.launch 2).arr = some 4 ∧
    st.coreOpen 0 0 0 = true ∧ st.slotOk 0 5 0 = true ∧ st.roomFor 0 0 (key.width * key.allot) key.mirr = true ∧ key.det = none ∧
    key.width = 32 ∧ (st.launch 2).task.records = false ∧ last.moreFor 0 key = false ∧
    (let ps := gangPacks (sg.launch 2).roles
     ((sg.cluster 0).taken[0]?.map (·.q.src)) = some .gang ∧ (Table.get? sg.launches 2).isSome = true ∧ (sg.launch 2).task.ctx = 0 ∧
     (sg.launch 2).args = some [7] ∧ (sg.launch 2).arr.isSome = true ∧ ps.length = 3 ∧
     ps.length ≤ ((List.range Config.numSlots).filter (sg.slotOk 0 · 0)).length ∧
     sg.roomFor 0 0 (rolesRegs (sg.launch 2).roles) (sg.launch 2).task.mirr = true ∧ (sg.launch 2).task.det = false ∧
     (sg.launch 2).task.records = false ∧ (sg.launch 2).task.cls ≠ .a ∧ sg.coreOpen 0 0 0 = true) := by
  decide +kernel

/-- An operation of the pack of `hs`. -/
def hd1 : OpHead := { core := 0, slot := 0, uid := pk.id.uid, ctx := 0, seq := 77 }

/-- Its pack, with operations outstanding. -/
def pq : Pack := { pk with cnt := { cp := 1, gt := 1, cl := 1, mx := 1, sc := 1 }, issued := { cp := 77, gt := 77, cl := 77, mx := 77, sc := 77 } }

/-- Its state: core 1 has a window too. -/
def se : State := { (hs.setPack 0 0 pq).setCore 1 { wins := [(0, { base := 0, size := 4096 })] } with cur := none }

/-- The pack runs in every state with the packs and the frames of `se`. -/
theorem se_runs (t : State) (hp : t.packs = se.packs) (hf : t.frames = se.frames) : Runs t hd1 pq := by
  refine ⟨by decide +kernel, by decide +kernel, ?_, by decide +kernel, ?_, ?_, by decide +kernel⟩
  · show Table.get? t.packs (0, 0) = some pq
    rw [hp]
    decide +kernel
  · rw [hp]
    decide +kernel
  · rw [hf]
    decide +kernel

/-- A copy of 4 bytes, from memory at 0x10008 to the scratchpad at 0x10. -/
def cpy1 : CopyOp :=
  { head := hd1, form := 0, s := 8, d := 16, p1 := 4, p2 := 0, p3 := 0, src := BitVec.ofNat 512 (bufRec 0x10000 0x1000 false false)
    dst := BitVec.ofNat 512 (bufRec 0 0x1000 true false), cores := none }

/-- CopiesAndCollectives: a copy, a multicast to two cores, a copy that fails. -/
theorem wit_copies :
    let hs1 := parseHnd cpy1.src.toNat
    let hd := parseHnd cpy1.dst.toNat
    let W := engineW se hd1
    let m : CopyOp := { cpy1 with cores := some 3 }
    let s := se.setCluster 0 { se.cluster 0 with cpq := [cpy1] }
    let plan := (match copyChecks cpy1 hs1 hd W with | .ok p _ => p | _ => [])
    Memory.wf s.mem = true ∧ s.Calm ∧ s.packs = se.packs ∧ s.frames = se.frames ∧ (s.cluster 0).cpq = [cpy1] ∧ (match copyChecks cpy1 hs1 hd W with | .ok p w => decide (p.length = 4 ∧ w = W) | _ => false) = true ∧
    (match copyChecks m hs1 hd W with | .ok p w => decide (p.length = 4 ∧ w = W) | _ => false) = true ∧
    (plan.all fun x => gives (engKey hd id .wr x.dst) W (2 ^ 52 + x.dst) && hd.space) = true ∧
    (plan.all fun x => match x.src with | some a => gives (engKey hs1 id .rd a) W (0x10000 + a) && (consumes se (0x10000 + a) 1).isNone && (plan.all fun y => decide (0x10000 + a < 2 ^ 52 + y.dst)) | none => true) = true ∧
    (plan.all fun x => plan.all fun y => hd.addr x.dst / 2 ^ 20 = hd.addr y.dst / 2 ^ 20) = true ∧ namedCores 3 = [0, 1] ∧
    (plan.all fun x => (namedCores 3).all fun j => scratchAt se hd1.who (onCore j (hd.addr x.dst)) 1 == some (2 ^ 52 + j * 2 ^ 20 + x.dst)) = true ∧
    (match copyChecks { cpy1 with src := 0 } (parseHnd 0) hd W with | .error (.code c) _ => c == 1 | _ => false) = true := by
  unfold State.Calm
  decide +kernel

/-- R232: two bytes that move one place up, where the second one's source is the first one's place: read as it was, or as written. -/
theorem test_copy_overlap :
    let ks : List (Option Nat × List Nat) := [(some 10, [11]), (some 11, [12])]
    let xs : List (Nat × Byte × Bool) := [(1, 0xA, false), (2, 0xB, false)]
    movedIn ks xs [false, false] = xs ∧ movedIn ks xs [true, true] = [(1, 0xA, false), (2, 0xA, false)] := by decide

/-- The same for gathers: no destination, a read-only one, indices out of bounds, and a row that is moved. -/
theorem wit_gathers :
    let g : GatherOp := { head := hd1, k := 2, s := 0, idx := [(0, 3)], src := cpy1.src, dst := cpy1.dst }
    let hs1 := parseHnd g.src.toNat
    let hd := parseHnd g.dst.toNat
    let far : GatherOp := { g with idx := [(0, 0x2000)] }
    let W := engineW se hd1
    let plan := gatherPlan g hs1.stride
    let far' := gatherPlan { far with s := 0x2000 } hs1.stride
    (hs1.valid && hd.valid && hd.space) = true ∧ hd.ro = false ∧ (hs1.valid && hs1.valid && hs1.space) = false ∧
    (let r := parseHnd (bufRec 0 0x1000 true true); r.valid && r.space && r.ro) = true ∧ plan ≠ [] ∧
    (plan.all fun x => hd.inBounds x.dst 1 && x.src.all (hs1.inBounds · 1)) = true ∧
    (far'.all fun x => hd.inBounds x.dst 1 && x.src.all (hs1.inBounds · 1)) = false ∧
    (plan.all fun x => gives (engKey hd id .wr x.dst) W (2 ^ 52 + x.dst) && match x.src with
      | some a => gives (engKey hs1 id .rd a) W (0x10000 + a) && (consumes se (0x10000 + a) 1).isNone
      | none => true) = true := by
  decide +kernel

/-- The same for collectives: a group of this device and one other, which agrees, or does not. -/
theorem wit_collectives :
    let me := se.dev.domain * 256 + se.dev.index
    let s := put se 0x10C00 (leBytes 24 (2 + 5 * 2 ^ 96 + me * 2 ^ 128 + (me + 1) * 2 ^ 160))
    let c : CollOp := { head := hd1, kind := 0, op := 0, ty := 0, rm := 0, count := 1, src := BitVec.ofNat 512 (bufRec 0x10000 16 false false)
                        dst := BitVec.ofNat 512 (bufRec 0x10400 16 false false), grp := BitVec.ofNat 512 (bufRec 0x10C00 256 false false)
                        tag := some 5, nth := 1 }
    let hs1 := parseHnd c.src.toNat
    let hd := parseHnd c.dst.toNat
    let W := engineW s hd1
    let g : Group := { tag := 5, size := 2, rank := 0, root := 0, devs := [me, me + 1] }
    let e := typeBits c.ty / 8
    let peer : PeerRank := { rank := 1, src := leBytes 4 9, tag := 5, nth := 1, kind := 0, op := 0, ty := 0, count := 1, root := 0, devices := [me, me + 1] }
    let agree (x : PeerRank) : Bool :=
      x.kind == c.kind && x.op == c.op && x.ty == c.ty && x.count == c.count && x.root == g.root && x.devices == g.devs
    Memory.wf s.mem = true ∧ s.packs = se.packs ∧ s.frames = se.frames ∧ hs1.valid = true ∧ hd.valid = true ∧
    (match readGroup c W with
     | .ok h w => decide (h.tag = g.tag ∧ h.size = g.size ∧ h.rank = g.rank ∧ h.root = g.root ∧ h.devs = g.devs ∧ w = W)
     | _ => false) = true ∧
    hd.ro = false ∧ hs1.inBounds 0 (e * collSrcCount c g) = true ∧ hd.inBounds 0 (e * collDstCount c 2) = true ∧
    c.tag = some peer.tag ∧ peer.nth = c.nth ∧ peer.rank = 1 ∧ agree peer = true ∧ agree { peer with root := 1 } = false ∧
    (g.devs.all fun w => w / 256 == s.dev.domain && !s.dev.cutOff (w % 256)) = true ∧
    (match engLoad hs1 0 (e * collSrcCount c g) W with | .ok (_, bad) w => !bad && decide (w = W) | _ => false) = true ∧
    ((List.range (e * collDstCount c 2)).all fun i => gives (engKey hd id .wr i) W (0x10400 + i) && !inSlot0 (s.ctx 0) (hd.addr i)) = true ∧
    (match readGroup { c with tag := none } W with | .ok h w => decide (h.tag = 5 ∧ w = W) | _ => false) = true ∧ ([c].eraseIdx 0).all (fun d => d.tag.isSome || d.head.result.isSome) = true ∧
    hd1.wrote.all (fun e => !e.2) = true ∧ ({ hd1 with wrote := [(16, false)] } : OpHead).wrote.all (fun e => !e.2) = true ∧
    (c.head.result.isSome = false ∧ ({ hd1 with heldOn := none, asked := [] } : OpHead) = hd1) := by
  decide +kernel
/-- A tensor record in the scratchpad (R181): 128 by 128 elements of format 10, at `base`. -/
def tensor (base : Nat) : Nat := base + 2 ^ 59 + 2 * 2 ^ 60 + 0x8000 * 2 ^ 64 + 10 * 2 ^ 128 + 2 ^ 133 + 128 * 2 ^ 192 + 128 * 2 ^ 216 + 2 ^ 240 + 2 ^ 264 + 256 * 2 ^ 288

/-- A matrix operation on row 1 of tile 1, ready to start. -/
def mop (kind : MxKind) (rec_ : Nat) : MxOp :=
  { head := hd1, kind, tile := 1, rows := [(1, 0)], ix := [], anchors := [], k0 := 0, sync := 0, after := false, arrive := false
    ha := BitVec.ofNat 512 rec_, hb := BitVec.ofNat 512 (tensor 0), sa := 0, sb := 0, stream := 0, c1 := false, ready := true }

/-- `se` with a large window and that operation. -/
def sx (m : MxOp) : State :=
  se.setCore 0 { se.core 0 with mxq := [m], tiles := [{}, { owner := some 0 }], wins := [(0, { base := 0, size := 2 ^ 20 })] }

/-- MatrixAtWork: the object of .after absent, waiting, reached; moves of both kinds; a batch to retire. -/
theorem wit_matrix_work :
    let m : MxOp := { mop .manc 0 with after := true, ready := false, sync := 0x40 }
    let who : Who := { ctx := 0, core := 0, slot := 0, uid := pk.id.uid, direct := true }
    let b (t : State) : BarObj := parseBar (leNat ((List.range 16).map fun j => Memory.read t.mem (2 ^ 52 + 0x40 + j)))
    let set_ (ph : Bool) : State := put (sx m) (2 ^ 52 + 0x40) ({ expect := 2, arrived := 0, phase := ph, ovr := false, reserved := false } : BarObj).bytes
    let raw := bufRec 0x400 0x1000 true false
    let W (m : MxOp) : W := engineW (sx m) m.head
    let e := mop (.mld false) (tensor 0)
    let d := mop .manc 0
    let x := (sx m).setCore 0 { (sx m).core 0 with mxq := [{ d with head := { hd1 with result := some 0 } }] }
    m.ready = false ∧ barKey (sx m) who m.afterAddr = some (2 ^ 52 + 0x40) ∧ barKey (sx m) who ({ m with sync := 0x41 } : MxOp).afterAddr = none ∧
    (b (sx m)).expect = 0 ∧ (b (set_ false)).expect = 2 ∧ (b (set_ true)).phase ≠ m.afterParity ∧ (b (set_ false)).phase = m.afterParity ∧
    ((sx d).core 0).mxq = [d] ∧ d.ready = true ∧ (d.rows.map (·.1)).Nodup ∧
    ((sx d).core 0).tiles = [{}, { owner := some 0 }] ∧
    (match moveChecks (mop (.mld true) raw) true false (W (mop (.mld true) raw)) with | .ok _ w => decide (w = W (mop (.mld true) raw)) | _ => false) = true ∧
    (match moveChecks (mop (.mst true 0) raw) true true (W (mop (.mst true 0) raw)) with | .ok _ w => decide (w = W (mop (.mst true 0) raw)) | _ => false) = true ∧
    (match moveChecks e false false (W e) with | .ok _ w => decide (w = W e) | _ => false) = true ∧
    (match operandRow (parseHnd (tensor 0)) (tensor 0) 0 0 0 128 (W e) with | .ok (vs, bad) w => !bad && vs.length == 128 && decide (w = W e) | _ => false) = true ∧
    (match engLoad (parseHnd raw) 0 1315 (W (mop (.mld true) raw)) with | .ok (_, bad) _ => !bad | _ => false) = true ∧
    x.pack? 0 0 = some pq ∧ pq.cnt.mx ≠ 0 ∧ pq.issued.mx + 1 - pq.cnt.mx = 77 ∧ x.packs = se.packs ∧ x.frames = se.frames := by
  decide +kernel

/-- The same for what MST writes: every byte of the image has its key. -/
theorem wit_matrix_store :
    let raw := bufRec 0x400 0x1000 true false
    let m := mop (.mst true 0) raw
    let W := engineW (sx m) hd1
    (match mstBytes m true 0 (getAt {} ((sx m).core 0).tiles 1) 1 0 W with
      | .ok (ps, bad) w => !bad && decide (w = W) && ps.map (·.1) == [0] && ps.map (·.2.length) == [1344]
      | _ => false) = true ∧ Memory.wf (sx m).mem = true ∧
    ((List.range 1344).all fun i => gives (engKey (parseHnd raw) id .wr i) W (2 ^ 52 + 0x400 + i)) = true := by
  decide +kernel

/-- The same for MMAS: two tensors of 16-bit elements, every row of both that it reads. -/
theorem wit_matrix_multiply :
    let m : MxOp := { mop (.mmas false) (tensor 0) with ix := [(1, 0)] }
    let W := engineW (sx m) hd1
    let r := tensor 0
    let pos (j : Nat) : Nat := 4 * (j / 2) + (Table.getD m.ix 1 0).toNat / 4 ^ j % 4
    let used := ((List.range 32).map pos).dedup
    used = (List.range 16).map (4 * ·) ∧ m.k0.toNat % 4 = 0 ∧ m.hb.toNat = r ∧ m.ha.toNat = r ∧ mxK (tensorFmt r) = some 32 ∧ mxPair 10 10 = true ∧ isGroupFmt 10 = false ∧ 0 < tensorRows r ∧
    32 ≤ (tensorSizes r).getD 0 0 ∧ 128 ≤ (tensorSizes r).getD 0 0 ∧ (used.all fun k => k < tensorRows r) = true ∧
    (match mxHandle r false W with | .ok _ w => decide (w = W) | _ => false) = true ∧
    (match operandRow (parseHnd r) r 0 0 0 32 W with | .ok (_, bad) w => !bad && decide (w = W) | _ => false) = true ∧
    (used.all fun k => match operandRow (parseHnd r) r 0 k 0 128 W with
      | .ok (_, bad) w => !bad && decide (w = W)
      | _ => false) = true := by
  decide +kernel


/-- ScentAtWork: a query of a sequence of 9 tokens that is performed, and an operation on one that does not exist. -/
theorem wit_scent_work :
    let x : ScSeq := { ctx := 0, pfx := false, cap := 64, base := 0x10400, extent := 256, n := 9, wstart := 0, tokens := [1, 2, 0, 1, 2, 0, 1, 2, 0], sealed := false }
    let op (kind : ScKind) (a : Word) : ScOp :=
      { head := hd1, kind, a, b := 0, hrec := 0, vd := 5, d := 4, toks := [], width := 32 }
    let s (o : ScOp) : State := se.setDie 0 { se.die 0 with scq := [o], seqs := [(3, x)] }
    let q := op .qry 3
    let e := op .free 4
    (s q).packs = se.packs ∧ (s q).frames = se.frames ∧ ((s q).die 0).scq = [q] ∧ ((s q).dies.map (·.1)).Nodup ∧
    (scFind (s q) 0 (q.a.toNat % 2 ^ 32)).isSome = true ∧ scFind (s e) 0 (e.a.toNat % 2 ^ 32) = none ∧
    (match scPerform q (engineW (s q) hd1) with | .ok r w => decide (w = engineW (s q) hd1) && (r.found == ((x.query 4).1)) | _ => false) = true ∧
    (match scPerform e (engineW (s e) hd1) with | .error (.code c) _ => c == 10 | _ => false) = true := by
  decide +kernel

/-- A pack of `se` that waits. -/
def waits (why : Wait) (i : Instr) : State := se.setPack 0 0 { pq with cnt := {}, prog := { wait := some { why, instr := i } } }

/-- A second pack. -/
def p2 (p : Pack) (uid : Nat) : Pack := { p with id := { p.id with uid, age := uid } }

/-- WaitsEnd: waits that are over, of each kind, whose instruction answers a next state; a value on its way; a held store; a core on which all
wait for registers; a saved pack; a repacking window with no pack, one and two; a walk and a miss. -/
theorem wit_waits :
    let isOver (why : Wait) (i : Instr) (s : State) : Bool :=
      match s.pack? 0 0, exec i { s with cur := some (0, 0) } with
      | some p, .next _ => p.mayIssue && waitOver s 0 0 p why && p.prog.wait == some { why, instr := i }
      | _, _ => false
    let b : BarObj := { expect := 2, arrived := 0, phase := false, ovr := false, reserved := false }
    let obj (why : Wait) (i : Instr) : State := put (waits why i) (2 ^ 52 + 0x40) b.bytes
    let bw : Instr := .barw { a := 0, ext := some { imm16 := 4 } }
    let lds : Instr := .lds { a := 0, b := 63, d := 2, ext := some { c := 1 } }
    let amo : Instr := .amo { f := 1, a := 0, b := 5, d := 6, ext := some {} }
    isOver (.barrier (2 ^ 52 + 0x40) false) bw (obj (.barrier (2 ^ 52 + 0x40) false) bw) = true ∧
    isOver (.granules [0]) lds (waits (.granules [0]) lds) = true ∧
    isOver (.count .cp 0) (.wait { b := 63 }) (waits (.count .cp 0) (.wait { b := 63 })) = true ∧
    isOver (.leash 0) amo (waits (.leash 0) amo) = true := by
  decide +kernel

/-- The same of the pack and the operands: a barrier whose phase has come, with no other path and with one that has come too; granules that
are full; a count that is reached, with and without an error; a run of the Leash that is this pack's. -/
theorem wit_releases :
    let why (w : Wait) (i : Instr) (p : Pack) : Pack := { p with prog := { wait := some { why := w, instr := i } } }
    let p0 : Pack := { pq with cnt := {} }
    let st (p : Pack) : State := se.setPack 0 0 p
    let w (s : State) (p : Pack) (i : Instr) : W := startW { s with cur := some (0, 0) } (issuer (0, 0) p) i
    let o : Opnd := { a := 0, ext := some { imm16 := 4 } }
    let b (ph : Bool) : BarObj := { expect := 2, arrived := 0, phase := ph, ovr := false, reserved := false }
    let obj (s : State) (k : Nat) : BarObj := parseBar (leNat ((List.range 16).map fun j => Memory.read s.mem (k + j)))
    let pb := why (.barrier (2 ^ 52 + 0x40) false) (.barw o) p0
    let e : Entry := { kind := .pending, pc := 0x10000, mask := 1, ra := 0, bar := some (2 ^ 52 + 0x60, false) }
    let s1 := put (put (st pb) (2 ^ 52 + 0x40) (b false).bytes) (2 ^ 52 + 0x60) (b false).bytes
    let l : Opnd := { a := 0, b := 63, d := 2, ext := some { c := 1 } }
    let pl := why (.granules [0, 1, 2, 3, 4, 5, 6, 7]) (.lds l) { p0 with lanes := List.replicate 32 {} }
    let wt : Opnd := { b := 63 }
    let pw := why (.count .cp 0) (.wait wt) p0
    (pb.mayIssue = true ∧ pb.owed = 0) ∧ pb.part o ≠ 0 ∧
    barKey s1 (issuer (0, 0) pb) (pb.readG 0 + o.x.imm16.signExtend 64 * 16).toNat = some (2 ^ 52 + 0x40) ∧ (pb.readG 0).getLsbD 0 = false ∧
    obj s1 (2 ^ 52 + 0x40) = b false ∧ obj s1 (2 ^ 52 + 0x60) = b false ∧ pb.stack.head? = none ∧ e.bar = some (2 ^ 52 + 0x60, false) ∧
    e.mask &&& pb.occ ≠ 0 ∧ ({ pb with stack := [e] } : Pack).stack = e :: [] ∧
    operandCheck (.lds l) pl = .go ∧ se.granEmpty = [] ∧
    (match scratchAccess 4 ((pl.partList l).map fun n => (n, (pl.readG 0 + vectorOffset l (pl.lane n) + l.x.imm16.signExtend 64 * 4).toNat)) (w (st pl) pl (.lds l)) with
     | .ok accs v => decide (v = w (st pl) pl (.lds l)) && accs.all (fun a => (granulesOf a.key 4).all fun g => decide (g ≤ 7))
     | _ => false) = true ∧
    engOf wt.f.toNat = .cp ∧ pw.cnt.of .cp ≤ (pw.opB wt).toNat ∧ pw.sys.asyncerr.getLsbD (engCode .cp) = false ∧
    ({ pw with sys := { pw.sys with asyncerr := 1 } } : Pack).sys.asyncerr.getLsbD (engCode .cp) = true ∧ pw.priv = 0 ∧
    (se.ctx 0).tvec &&& 0xFFFFFFFFFFFFFFFC ≠ 0 := by
  decide +kernel

/-- A recorded pack of `hs`, of MODE `m`, and site 0 at 0x10000: its entries at 0x10800, of which the first is a run of pack `lp`. -/
def sr (m lp : Nat) (p : Pack) : State :=
  let d : Site := { addr := 0x10000, area := 0x10800, cap := 4, used := if m = 1 then 1 else 0, left := 2 }
  put ((hs.setCtx 0 { hs.ctx 0 with trlbase := 0x10200, trail := { mode := m, sites := [(0, d)] } }).setPack 0 0 p) 0x10800
    (leBytes 4 (lp * 65536 + 2))

/-- Its pack. -/
def pr : Pack := { pk with id := { pk.id with records := true }, lanes := List.replicate 32 {} }

/-- The words of the Trail of a state that maps them. -/
def mapsWord (s : State) (a : Nat) : Bool :=
  (List.range 4).all fun i => (tlbFind (s.core 0).tlb 0 (a + i)).map (fun e => canonPa s.dev (e.pa (a + i))) == some (a + i)

/-- ScalarMemory, LaneAtomics, WaitsEnd: atomics on a site of a recorded launch, in recording and in replay, held back and not. -/
theorem wit_sites :
    let o : Opnd := { f := 1, a := 1, d := 5, b := 63, ext := some {} }
    let v : Opnd := { f := 1, a := 1, b := 1, d := 2, ext := some { pe := true, pg := 1 } }
    let x (s : State) : Ctx := s.ctx 0
    let word (s : State) (a : Nat) : Nat := leNat ((List.range 4).map fun i => Memory.read s.mem (a + i))
    let held (s : State) : Bool := let d := (x s).site 0
      (x s).trail.mode == 2 && decide (d.used < d.cap) && (word s (d.area + 4 * d.used) / 65536 != pr.id.lpid.toNat || d.left == 0)
    let s1 := sr 1 0 pr
    let s2 := sr 2 0 pr
    let s3 := sr 2 7 pr
    let one : Pack := { pr with lanes := [{ p := 2 }] }
    let q : Pack := { pr with prog := { wait := some { why := .leash 0, instr := .amo o } } }
    let t : State := { sr 2 0 q with cur := none }
    let d (s : State) : Site := (x s).site 0
    s1.records pr = true ∧ s2.records pr = true ∧ s1.Calm ∧ s2.Calm ∧ t.Calm ∧ Memory.wf s1.mem = true ∧ Memory.wf s2.mem = true ∧ Memory.wf t.mem = true ∧ pr.sys.rgnpc = 0 ∧ o.x.ty2.toNat < 4 ∧
    ([s1, s2, s3].all fun s => gives (scalarAccess .rmw 1 (scalarOffset pr o 4) 4) (startW s (issuer (0, 0) pr) (.amo o)) (true, 0x10000, 0x10000) &&
      (consumes s 0x10000 4).isNone && siteOf (x s).trail 0x10000 4 == some 0 &&
      (match entryOf (startW s (issuer (0, 0) pr) (.amo o)) 0x10000 with | some e => !haRefuses e (isAtomicOp 1 0) | none => false) &&
      [(d s).area + 4 * ((d s).used - 1), (d s).area + 4 * (d s).used, (d s).area + 4 * ((d s).used + 1), 0x10214, 0x10218].all (mapsWord s)) = true ∧
    held s1 = false ∧ held s2 = false ∧ held s3 = true ∧ (x s1).trail.mode = 1 ∧ (x s2).trail.mode = 2 ∧
    operandCheck (.vatom v) one = .go ∧ (one.partList v) = [0] ∧ one.prog.first = none ∧
    (match laneAccess .rmw (isAtomicOp 1 0) 1 4 (one.part v) [(0, 0)] (startW (sr 2 0 one) (issuer (0, 0) one) (.vatom v)) with
     | .ok ts w => ts.unfinished == [] && ts.virtual && ts.accs.map (fun a => (a.va, a.key)) == [(0x10000, 0x10000)] &&
         decide (w = startW (sr 2 0 one) (issuer (0, 0) one) (.vatom v))
     | _ => false) = true ∧
    t.pack? 0 0 = some q ∧ q.mayIssue = true ∧ held t = false ∧
    gives (scalarAccess .rmw 1 (scalarOffset q o 4) 4) (startW { t with cur := some (0, 0) } (issuer (0, 0) q) (.amo o)) (true, 0x10000, 0x10000) = true := by
  unfold State.Calm
  decide +kernel

/-- The same for what arrives, and for held stores. -/
theorem wit_arrivals :
    let f : Fill := { op := 4, lane := 1, reg := 2, vals := [5, 6] }
    let p : Pack := { pq with fills := [f] }
    let e : HeelEntry := { ctx := 0, uid := 1, item := 1, stamp := 1, label := 9, arr := 0, launch := 1, scratch := false, addr := 0x10100, bytes := [1, 2, 3, 4], full := false, spilled := false, region := 0 }
    let h := (se.setCore 0 { se.core 0 with heel := [e] }).setCtx 0 { se.ctx 0 with flows := [(9, { cls := .o })] }
    let who : Who := { ctx := 0, core := 0, slot := 0, uid := 0, direct := true, served := [] }
    (se.setPack 0 0 p).pack? 0 0 = some p ∧ p.status ≠ .ended ∧ (p.fills.map (·.lane)).Nodup ∧ f.bad = none ∧
    Memory.wf h.mem = true ∧ h.Calm ∧ (h.core 0).heel = [e] ∧ h.releasable 0 0 = true ∧ (h.cores.map (·.1)).Nodup ∧
    gives (translate .wr 0x10100) { startW h noWho (.nop {}) with who } 0x10100 = true ∧
    scratchAt h who 0x100 4 = some (2 ^ 52 + 0x100) := by
  unfold State.Calm
  decide +kernel

/-- The same for GROW, repacking, walks and misses. -/
theorem wit_cores :
    let grows (p : Pack) : Pack := { p with cnt := {}, prog := { wait := some { why := .grow 250, instr := .grow {} } } }
    let g := (((se.setPack 0 0 (grows pq)).setPack 0 3 (grows (p2 pq 51))).setCore 0 { se.core 0 with growing := [(0, 250), (3, 250)] })
    let g1 (n : Nat) := (se.setPack 0 0 { grows pq with width := 1024 }).setCore 0 { se.core 0 with growing := [(0, n)] }
    let d : Opnd := { f := 1, d := 3, ext := some { imm16 := 10, pe := true, pg := 1 } }
    let v (p : Pack) : Pack := { p with prog := { wait := some { why := .repack, instr := .vbrd d } } }
    let two := ((se.setPack 0 0 (v pq)).setPack 0 3 (v (p2 pq 51))).setCore 0
      { se.core 0 with repacks := [{ pc := 0x10000, first := 0, members := [(0, .vbrd d), (3, .vbrd d)] }] }
    let w : Repack := { pc := 0x10000, first := 0, members := [(0, .vbrd d), (3, .vbrd d)] }
    let saved := se.setCore 0 { se.core 0 with saved := [p2 pq 90] }
    let m : Miss := { ctx := 0, page := 88, kind := 1, slot := 0, uid := 50, packid := 3 }
    let wk : Walk := { core := 0, slot := 0, uid := pk.id.uid, ctx := 0, page := 16, batch := 1 }
    let walks (p : Pack) := (se.setPack 0 0 p).setCluster 0 { se.cluster 0 with walks := [wk] }
    let wp : Pack := { pq with prog := { wait := some { why := .walk [16], instr := .nop {} } } }
    let walker : Pack := { pk with id := { pk.id with walker := some 88 }, status := .stopped 8 0 none none }
    (g.packsOf 0).length = 2 ∧ (g.packsOf 0).all (fun e => ((g.core 0).growing.map (·.1)).contains e.1) = true ∧
    (byAge true (g.packsOf 0)).map (·.1) = some 3 ∧ (g.pack? 0 3).isSome = true ∧
    ((g1 250).packsOf 0).length = 1 ∧ (g1 250).growable 0 = false ∧ (byAge true ((g1 250).packsOf 0)).map (·.1) = some 0 ∧ (grows pq).fills = [] ∧
    (byAge false ((saved.core 0).saved.map fun p => (0, p))) = some (0, p2 pq 90) ∧ (saved.core 0).growing = [] ∧ (saved.ctx 0).pre = .none ∧
    saved.slotOk 0 5 0 = true ∧ saved.roomFor 0 0 (pk.width * pk.allot) pk.id.mirr = true ∧
    (two.core 0).repacks = [w] ∧ (participants two 0 w).map (·.slot) = [0, 3] ∧ (regroup (participants two 0 w)).isSome = true ∧
    (participants (two.dropPack 0 3) 0 w).map (·.slot) = [0] ∧ participants ((two.dropPack 0 3).dropPack 0 0) 0 w = [] ∧
    ((participants (two.dropPack 0 3) 0 w).all fun x => (x.pack.vbr (opndOf x.instr)).isSome) = true ∧
    (match perform (.vbrd d) (vbrBody d) { (two.dropPack 0 3).setCore 0 { two.core 0 with repacks := [] } with cur := some (0, 0) } with
      | .next _ => true
      | _ => false) = true ∧
    ((walks wp).cluster 0).walks = [wk] ∧ 16 ∈ wp.waitPages ∧ (walks wp).pack? 0 0 = some wp ∧ ((walks wp).dropPack 0 0).pack? 0 0 = none ∧
    ((se.setCore 0 { se.core 0 with misses := [m] }).core 0).misses = m :: [] ∧ se.pack? 0 47 = none ∧
    (se.setPack 0 47 walker).pack? 0 47 = some walker ∧ walker.id.walker.isSome = true := by
  decide +kernel
/-- `hs` after the pack's turn, with memory of the context resident, a quiet bound and spare frames. -/
def sf2 (p : Pack) : State :=
  let s := hs.setPack 0 0 p
  let s := s.setCtx 0 { s.ctx 0 with quiet := 5, spill := 0x10000, spillSz := 2 ^ 20 }
  { s with cur := none, dev := { s.dev with service := .full, ports := [0, 1] } }

/-- FaultsAndPreemption: records that wait; parked packs of both answers; a quiet pack; a region that is due to a running pack and to a parked
one; a trap that is due; pre-emption with a batch open and without, of a pack that runs and of one that has stopped; completion. -/
theorem wit_faults :
    let x := (sf2 pk).ctx 0
    let w := (sf2 pk).setCtx 0 { x with fqWaiting := [7] }
    let W (s : State) : W := startW s noWho (.nop {})
    let none_ := ((sf2 pk).dropPack 0 0).setCtx 0 { x with pre := .requested 77 }
    let img : Pack := { pk with sys := { pk.sys with fltmaskp := 0x10100 }, status := .parked 5 (some true) false 0x99 }
    let un : Pack := { pk with status := .parked 5 (some false) true 0x99 }
    let qt : Pack := { pk with prog := { wait := some { why := .bank 0 0 0 1 false, instr := .nop {} } } }
    let sq := (sf2 qt).setCore 0 { (sf2 qt).core 0 with cycle := 9 }
    let rg : Pack := { pk with restart := some 3, rgnMask := 1, sys := { pk.sys with rgnpc := 0x10040 } }
    let pt : Pack := { pk with pendingTrap := some (0x12, 9) }
    let pe : Pack := { pk with preReq := some 6 }
    let ps : Pack := { pe with status := .stopped 5 9 none none }
    (w.ctx 0).fqWaiting = 7 :: [] ∧ (w.ctx 0).fqPosted < (w.ctx 0).fqFreed + (w.ctx 0).fqSize ∧ (w.ctxs.any fun e => e.1 == 0) = true ∧
    w.Calm ∧ (Memory.wf w.mem && Memory.wf none_.mem) = true ∧ (none_.ctx 0).pre = .requested 77 ∧ none_.packs.all (fun e => e.2.id.ctx != 0) = true ∧
    none_.cores.all (fun c => c.2.heel == []) = true ∧ (none_.ctx 0).fqWaiting = [] ∧
    (sf2 img).pack? 0 0 = some img ∧ img.restart = none ∧ img.pendingTrap = none ∧ img.takesPre = false ∧
    (got (loadResident 0 0 0x10100 128) (W (sf2 img))).isSome = true ∧
    (sf2 un).pack? 0 0 = some un ∧ un.takesPre = false ∧ un.priv = 0 ∧ (got (lenAt 0 un) (W (sf2 un))).isSome = true ∧
    sq.quietTooLong 0 qt = true ∧ (qt.prog.left, qt.prog.replay) = (none, none) ∧ (got (lenAt 0 qt) (W sq)).isSome = true ∧
    (sf2 rg).pack? 0 0 = some rg ∧ rg.restart = some 3 ∧ rg.status = .running ∧ rg.priv = 0 ∧ (rg.owed, pt.owed, pt.prog) = (0, 0, {}) ∧
    ({ rg with status := .parked 5 (some true) false 0 } : Pack).restart = some 3 ∧
    pt.restart = none ∧ pt.pendingTrap = some (0x12, 9) ∧ pt.status = .running ∧ (got (lenAt 0 pt) (W (sf2 pt))).isSome = true ∧
    pe.takesPre = true ∧ pe.openOps = 0 ∧ pe.drained = true ∧ pe.preReq = some 6 ∧ (got (lenAt 0 pe) (W (sf2 pe))).isSome = true ∧
    pe.pre = none ∧ pe.lag = none ∧ pe.status = .running ∧ ps.takesPre = true ∧ ps.drained = true ∧ ps.preReq = some 6 ∧ ps.id.walker = none ∧
    (got (lenAt 0 ps) (W (sf2 ps))).isSome = true ∧ ((sf2 pk).ctx 0).tvec &&& 0xFFFFFFFFFFFFFFFC ≠ 0 ∧
    ({ pe with openOps := 1 } : Pack).takesPre = true ∧ pe.cnt.mx < 255 := by
  unfold State.Calm
  decide +kernel

/-- The same for frames, strikes and losses. -/
theorem wit_frames :
    let f (self : Bool) (p : Pack) : Frame := { ctx := 0, pack := p, image := 0xFF, selfSaved := self, stopped := false, parked := false, issv := false, seq := 5, tl := 1 }
    let s0 := (sf2 pk).dropPack 0 0
    let s (self : Bool) (p : Pack) : State := ({ s0 with frames := [((0, 0x10400), f self p)] } : State).setCore 0 { s0.core 0 with waiting := [{ ctx := 0, frame := 0x10400 }] }
    let stp : Pack := { pk with status := .stopped 8 9 (some 0x99) none }
    let old : Arch := { mem := [], hbmPoison := [], hbmUe := [], granEmpty := [], granPoison := [], granUe := [], packs := [], cores := []
                        clusters := [], dies := [], ctxs := [], launches := [], resumes := [], frames := [], guardQ := [], colls := []
                        dev := (sf2 pk).dev }
    let k : Checkpoint := { last := 0, core := (sf2 pk).core 0, packs := [((0, 0), pk)], scratch := [(2 ^ 52 + 8, 3)], empty := [1], poison := [], ue := [], out := false, whole := none }
    let l : List Checkpoint := [k, { k with last := 1 }]
    ((s true pk).core 0).waiting = [{ ctx := 0, frame := 0x10400 }] ∧ Table.get? (s false pk).frames (0, 0x10400) = some (f false pk) ∧
    ((s true pk).ctx 0).pre = .none ∧ (s true pk).slotOk 0 5 0 = true ∧ (s true pk).roomFor 0 0 (pk.width * pk.allot) pk.id.mirr = true ∧
    pk.id.ctx = 0 ∧ pk.status = .running ∧ pk.priv = 0 ∧ ((s false pk).ctx 0).tvec &&& 0xFFFFFFFFFFFFFFFC ≠ 0 ∧
    stp.status = .stopped 8 9 (some 0x99) none ∧ Table.get? (s true stp).frames (0, 0x10400) = some (f true stp) ∧
    rollPoint 0 (Table.getD (sf2 pk).journals 0 []) = [] ∧
    rollPoint (max ((sf2 pk).core 0).cycle ((sf2 pk).core 0).left) (Table.getD ({ sf2 pk with journals := [(0, l)] } : State).journals 0 []) = l ∧
    k.packs.all (fun e => e.1.1 == 0) = true ∧ Memory.wf k.scratch = true ∧ k.scratch.all (fun e => ofCore 0 e.1) = true ∧
    k.empty.all (fun g => g / 65536 == 0) = true ∧ l.all (fun e => e.whole.isNone) = true ∧ [k, { k with whole := some old }].findSome? (·.whole) = some old ∧ Memory.wf old.mem = true ∧
    Memory.wf (sf2 pk).mem = true ∧
    32 * 5 < Config.hbmSize ∧ 7 < Config.numCores * 65536 ∧ 5 ∉ (sf2 pk).dev.lostPlanes ∧ 1 ∈ (sf2 pk).dev.ports ∧
    Table.getD (sf2 pk).dev.retries 5 0 < 16 ∧ 16 ≤ Table.getD ({ (sf2 pk).dev with retries := [(5, 16)] } : Device).retries 5 0 := by
  decide +kernel

/-- SnapshotsAndService: a snapshot that is being staged, swept and complete; triggers to latch, with room and without. -/
theorem wit_snapshots :
    let d := (sf2 pk).dev
    let n : Snapshot := { seq := 4, cut := [0, 1, 2, 3], staged := [], streamed := [], next := 0, failed := false }
    let t (l : List Nat) : Trigger := { seq := 4, tag := 9, mem := 1, source := 1, issuer := 0, latched := l }
    let at_ (x : Device) : State := { sf2 pk with dev := x }
    let log : Device := { d with logBase := 2 ^ 50 + 2 ^ 30, logSize := 4736, triggers := [t [0]] }
    let old : Memory := (put { sf2 pk with mem := [] } 5 [7]).mem
    let st2 : Snapshot := { n with staged := [((0, 0), blockPart old 0 0)] }
    d.tripped = false ∧ d.service = .full ∧ Memory.wf (sf2 pk).mem = true ∧ (sf2 pk).acts ≤ ((sf2 pk).die 1).counted ∧ 1 ≠ 0 ∧ (at_ log).dev.triggers = t [0] :: [] ∧ 1 ∉ (t [0]).latched ∧
    log.logPosted - log.logFreed + 2368 ≤ log.logSize ∧ ¬ ({ log with logPosted := 4736 } : Device).logPosted - log.logFreed + 2368 ≤ log.logSize ∧
    ({ d with snapshot := some n } : Device).snapshot = some n ∧ 5 < numBlocks ∧ n.staged = [] ∧ n.next ≤ 0 ∧ 0 ∉ n.streamed ∧
    st2.staged = [(0, 0)].map (fun k => (k, blockPart old k.1 k.2)) ∧ Memory.wf old = true ∧
    tierKey { d with tier0 := 0, tier1 := 0, ports := [] } 0 = none ∧ tierKey { d with tier0 := 2 ^ 50, tier1 := 2 ^ 50 + 2 ^ 49 } 0 = some (2 ^ 50) ∧
    ({ n with next := numBlocks } : Snapshot).next = numBlocks ∧ d.snapDone = 0 ∧
    (let e := 2 ^ 50 + 0x700; e % 16 = 0 ∧ frameValid d e = true ∧ canonPa d e = e) ∧ 0x5000 % 8 = 0 ∧ 0x5000 + 8 ≤ Config.hbmMappable ∧
    ({ pk with prog := { wait := some { why := .latch 9 0, instr := .snapt {} } } } : Pack).raised = some 9 ∧ pk.raised = none := by
  decide +kernel

/-- ManagementCommands: commands that are turned away and that are not; contexts that are known and not; faults to answer. -/
theorem wit_commands :
    let s := sf2 pk
    let c (n a b : Nat) : Command := { ctx := BitVec.ofNat 6 n, op1 := BitVec.ofNat 64 a, op2 := BitVec.ofNat 64 b, op3 := 0 }
    let low : State := { s with dev := { s.dev with service := .reduced } }
    let desc : Nat := 4096 + 0x20000 * 2 ^ 128 + 24 * 2 ^ 416 + 2 ^ 50 * 2 ^ 320 + 5 * 2 ^ 384 + 2 ^ 704
    let sc := put s (2 ^ 50 + 0x8000) (leBytes 128 desc)
    let f (src : FaultSource) : State := s.setCtx 0 { s.ctx 0 with faults := [(8, { src })] }
    Memory.wf s.mem = true ∧ s.dev.triggers.head? = none ∧ s.dev.snapshot = none ∧ s.scHeldOn 3 = false ∧
    s.launches.all (fun e => e.2.node.isNone) = true ∧ (turnedAway (c 9 0 0) s false true).isSome = true ∧ (turnedAway (c 0 0 0) low false true).isSome = true ∧
    turnedAway (c 0 0 0) s false true = none ∧ turnedAway (c 0 0 0) s true false = none ∧ s.dev.service = .full ∧ (c 0 0 0).done = 0 ∧
    (c 0 0 0).reserved = false ∧ (let e := 2 ^ 50 + 0x700; frameValid s.dev e = true ∧ canonPa s.dev e = e) ∧
    ¬ 2 ^ 49 < 384 * 2 ^ 30 ∧ 2 ^ 49 < 2 ^ 49 + 384 * 2 ^ 30 ∧
    (s.ctxs.any fun e => e.1 == 9) = false ∧ (2 ^ 50 + 0x8000) % 128 = 0 ∧ frameValid s.dev (2 ^ 50 + 0x8000) = true ∧
    descOk sc (leNat ((List.range 128).map fun j => Memory.read sc.mem (canonPa s.dev (2 ^ 50 + 0x8000) + j))) = true ∧
    descOk s 1 = false ∧ (s.ctxs.any fun e => e.1 == 0) = true ∧ s.launches.all (fun e => e.2.task.done == 0) = true ∧
    s.dies.all (fun e => e.2.graphs == []) = true ∧
    placeError s 0 1 { base := 4096, size := 4096 } [] none = none ∧ (placeError s 0 1000 { base := 0, size := 0 } [] none).isSome = true ∧
    (s.ctx 0).pre = .none ∧ scFind s 0 3 = none ∧
    (((f (.pack 0 0 1)).ctx 0).faults.find? fun g => g.1 % 2 ^ 32 == 8 && g.2.answer.isNone) = some (8, { src := .pack 0 0 1 }) ∧
    (((f (.heel 0 8 77)).ctx 0).faults.find? fun g => g.1 % 2 ^ 32 == 8 && g.2.answer.isNone) = some (8, { src := .heel 0 8 77 }) ∧
    (let h := (f (.heel 0 8 77)).setCore 0 { s.core 0 with heelStop := [(0, some 8)] }
     Table.get? (h.core 0).heelStop 0 = some (some 8) ∧ Table.get? (s.core 0).heelStop 0 = none ∧ (h.ctx 0).fqWaiting = [] ∧
     (h.ctx 0).fqPosted < (h.ctx 0).fqFreed + (h.ctx 0).fqSize) ∧
    (let m : CopyOp := { cpy1 with head := { hd1 with heldOn := some 8 } }
     (heldOp CopyOp.head 0 8 [m]).map (·.1) = some 0) := by
  decide +kernel

/-- TrapReturns: the return of a pre-emption entry, and of a restore entry with its frame, by both instructions. -/
theorem wit_returns :
    let p (restore : Bool) : Pack :=
      { pk with priv := 1, sys := { pk.sys with fltmaskp := 0x10100 }, pre := some { frame := 0x10400, restore, seq := 5 } }
    let f : Frame := { ctx := 0, pack := pk, image := 0, selfSaved := false, stopped := false, parked := false, issv := false, seq := 5 }
    let s : State := { hm (p true) with frames := [((0, 0x10400), f)] }
    let q : Pack := { p true with pre := none }
    let rest (t : State) : State := { t with frames := Table.del s.frames (0, 0x10400) }
    let w1 : W := { startW s (issuer (0, 0) (p true)) (.fresume {}) with st := rest (s.setCurPack q) }
    (hm (p false)).curPack? = some (p false) ∧ ((hm (p false)).ctx 0).pre = .none ∧ s.curPack? = some (p true) ∧
    Table.get? s.frames (0, 0x10400) = some f ∧ gives (scalarAccess .rd 0 q.sys.fltmaskp 128) w1 (true, 0x10100, 0x10100) = true ∧
    consumes s 0x10100 128 = none := by
  decide +kernel

/-- LaneChecks: what holds of an instruction in general: registers above the allotment, an entry that is not returned from, an empty source
that traps and one that waits, a destination with a value due, and none of these. -/
theorem wit_operand_checks :
    let o : Opnd := { a := 1, b := 2, d := 3, ext := some { ea := true } }
    let p (v : List VReg) : Pack := { pk with lanes := [{}, { v }] }
    let due := p [{}, {}, {}, { full := true, due := true }]
    (formOf (.vadd o)).map (fun fm => ((sources fm o).map (fun x => (x.which, x.base, x.count, x.trap)), destRegs fm o)) =
      some ([(0, 1, 1, true), (1, 2, 1, false)], [3]) ∧ ({ pk with allot := 3 } : Pack).allot < 3 + 1 ∧
    ({ pk with pre := some { frame := 0, restore := false, seq := 1 } } : Pack).pre.isSome = true ∧ 4 ≤ pk.allot ∧
    takes (p []) o 1 = true ∧ (((p [{}, { full := false }]).lane 1).reg 1).full = false ∧ (((p [{}, {}, { full := false }]).lane 1).reg 2).full = false ∧
    due.mustSettle 1 3 = true ∧ operandCheck (.vadd o) (p []) = .go := by
  decide +kernel

/-- LaneLoads, BindingsAndRegisters, Translations, SubmissionInstructions: a granule that is empty, and one with the marker; a binding that
joins the same addresses by another record, a full table; a count above 256; a Scent operation whose destination goes; a malformed leaf,
held stores; a flow without room. -/
theorem wit_more :
    let s (e q : List Nat) : State := { sh with granEmpty := e, granPoison := q }
    let sw (n : Nat) : Binding := { base := 0x10000, start := 0, len := 256, swb := n, swl := 5, sws := 6, space := false, guard := 0x10000 }
    let op : ScOp := { head := { core := 0, slot := 0, uid := pk.id.uid, ctx := 0, seq := 1 }, kind := .qry, a := 0, b := 0, hrec := 0, vd := 12, d := 4, toks := [], width := 32 }
    let leaf : Nat := 0x10000 + 0b11101
    let e : HeelEntry := { ctx := 0, uid := pk.id.uid, item := 0, stamp := 0, label := 7, arr := 0, launch := 0, scratch := false, addr := 0, bytes := [], full := false, spilled := false, region := 0 }
    let fl : Flow := { cls := .o, incomplete := [(0, 2 ^ 31 - 1)], nextArr := 2 ^ 31 - 1 }
    ((1 ∈ (s [1] []).granEmpty ∧ 1 ∉ (s [1] []).granPoison) ∧ 1 ∈ (s [1] [1]).granEmpty ∧ 1 ∈ (s [1] [1]).granPoison) ∧
    ({ a := 1, d := 2, ext := some { c := 2 } } : Opnd).rc = 2 ∧
    (sw 0).same (sw 1) = true ∧ (sw 0).base < 2 ^ 57 ∧ (sw 1).swl + (sw 1).swb ≤ (sw 1).sws ∧
    256 ≤ (List.replicate 256 (sw 0)).length ∧ (List.replicate 256 { sw 0 with guard := 1 }).all (fun z => !(sw 0).same z) = true ∧
    (256 : Int) < (((pk.opB { lit := some 300 }).toInt + 7) / 8 * 8) ∧
    op.head.uid = pk.id.uid ∧ 8 ≤ op.vd ∧ (hs.setDie 0 { hs.die 0 with scq := [op] }).die 0 = { hs.die 0 with scq := [op] } ∧
    leaf.testBit 1 = false ∧ ((hs.setCore 3 { hs.core 3 with heel := [e] }).cores.any fun c => c.2.heel.any fun e => e.uid == pk.id.uid) = true ∧
    (hs.cores.any fun c => c.2.heel.any fun e => e.uid == pk.id.uid) = false ∧ fl.room 40 = false ∧
    ({ cls := .o } : Flow).room 40 = true := by
  decide +kernel

/-- LaneIssue: the lanes' own words, of two groups, with an illegal one; and a nested ISSV that every lane holds. -/
theorem wit_lane_words :
    let v : Half := (encode (.vadd { b := 1, a := 1, d := 2 })).headD 0
    let x : Half := (encode (.vxor { b := 1, a := 1, d := 2 })).headD 0
    let n : Half := (encode (.issv { a := 3 })).headD 0
    let lanes (w0 w1 w2 : Half) : List Lane := [w0, w1, w2].map fun w => { v := [{ val := w }, { val := 5 }, {}, { val := v }] }
    let p (w0 w1 w2 : Half) : Pack := { pk with lanes := lanes w0 w1 w2, mask := 7, occ := 7 }
    let o : Opnd := {}
    let q := p v x 0
    operandCheck (.issv o) q = .go ∧ (mk q).curPack? = some q ∧ (mk q).mismatches = [] ∧ q.prog = {} ∧ q.pre = none ∧ q.mask &&& ~~~q.occ = 0 ∧
    q.partList o = [0, 1, 2] ∧ laneInstr q v 1 = some (.vadd { b := 1, a := 1, d := 2 }) ∧
    laneInstr q x 1 = some (.vxor { b := 1, a := 1, d := 2 }) ∧ laneInstr q 0 1 = none ∧ laneInstr q v 2 = some (.vadd { b := 1, a := 1, d := 2 }) ∧
    laneInstr (p n n n) n 1 = some (.issv { a := 3 }) ∧ (p n n n).partList o ≠ [] ∧
    (((p n n n).partList o).all fun l => (((p n n n).lane l).reg 0).val == n && (((p n n n).lane l).reg 3).full &&
      (((p n n n).lane l).reg 3).bad.isNone) = true ∧
    (((q.lane 0).reg 1).full = true ∧ ((q.lane 0).reg 1).bad = none ∧ ((q.lane 0).reg 1).ue = false ∧ ((q.lane 0).reg 2).due = false) := by
  decide +kernel

/-- LaneConversions: values with a positive denominator, of a width and a mode. -/
theorem wit_blocks : 4 ≤ 4 ∧ 8 ≤ 8 ∧ 0 ≤ 4 ∧ (0 < 3) ∧ Machine.Num.fin true 5 3 ∈ [Machine.Num.fin true 5 3] ∧
    (encodeBX 4 0 [Machine.Num.fin true 5 3]).2.1 ≤ 254 ∧ (encodeBX 8 4 [Machine.Num.nan]).2.1 = 127 := by
  decide +kernel

/-- MatrixAtWork: the spans that a move and a multiplication read or write lie in the window, and no row of the tile is damaged; a query whose
destination is given up. -/
theorem wit_spans :
    let raw := bufRec 0x400 0x1000 true false
    let pass (m : MxOp) (k : M Unit) : Bool := match k (engineW (sx m) m.head) with | .ok () w => decide (w = engineW (sx m) m.head) | _ => false
    let e := mop (.mld false) (tensor 0)
    let r := mop (.mld true) raw
    let s := mop (.mst true 0) raw
    let m : MxOp := { mop (.mmas false) (tensor 0) with ix := [(1, 0)] }
    pass e (spanCheck (parseHnd (tensor 0)) (tensor 0) 0 0 0 128) = true ∧ pass r (engInside (parseHnd raw) 0 1315) = true ∧
    (match mstChecks s true (engineW (sx s) s.head) with | .ok _ w => decide (w = engineW (sx s) s.head) | _ => false) = true ∧
    pass m (spanCheck (parseHnd (tensor 0)) (tensor 0) 0 0 0 32) = true ∧ pass m (spanCheck (parseHnd (tensor 0)) (tensor 0) 0 4 0 128) = true ∧
    (getAt {} ((sx m).core 0).tiles 1).ue = [] ∧ (getAt {} ((sx m).core 0).tiles 1).owner = some 0 ∧
    m.head.hurt = false ∧ m.head.asked = [] ∧ m.misuse = false ∧ m.after = false ∧ m.arrive = false := by
  decide +kernel

/-- SnapshotsAndService: SNAPT with and without a trigger behind it; a port that is lost and one that is not; a peer's accesses. -/
theorem wit_peers :
    let s := sf2 pk
    let d := s.dev
    let h (p : Pack) : State := hm p
    let p : Pack := { pk with priv := 1 }
    let q : Pack := { p with prog := { wait := some { why := .latch 9 0, instr := .snapt {} } } }
    (h p).curPack? = some p ∧ p.priv ≠ 0 ∧ p.raised = none ∧ p.sys.rgnpc = 0 ∧ q.raised = some 9 ∧ d.service = .full ∧ s.Calm ∧
    7 ≠ d.index ∧ 0x5000 < Config.hbmMappable ∧ d.cutOff 7 = false ∧ ({ d with lostPlanes := List.range 36 } : Device).cutOff 7 = true ∧
    0x5000 % 16 = 0 ∧ ([1, 2] : List Byte) ≠ [] ∧ 0x5000 % 4096 + 2 ≤ 4096 ∧ Memory.wf s.mem = true ∧
    ({ d with service := .reduced } : Device).service = .reduced ∧ ({ d with service := .boot } : Device).service = .boot ∧
    leNat ((List.range 8).map fun j => Memory.read s.mem (0x5000 + j)) = 0 := by
  unfold State.Calm
  decide +kernel

/-- ManagementCommands: a budget of the firmware; a window that stays and one that moves; a pack that a pre-emption frees from its wait and one that
goes on; a complete snapshot in the tier, and none; a frame to restore; a Scent operation that is held. -/
theorem wit_placements :
    let s := sf2 pk
    let c (f : Bool) (b : Nat) : Command := { ctx := 0, op1 := 3, op2 := BitVec.ofNat 64 b, op3 := 0, firmware := f }
    let asked (why : Option Wait) : Pack := { pk with preReq := some 3, prog := { wait := why.map fun y => { why := y, instr := .nop {} } } }
    let w0 : Window := { base := 0, size := 4096 }
    let t := s.setCore 0 { s.core 0 with wins := [(0, w0)] }
    let f : Frame := { ctx := 0, pack := pk, image := 0, selfSaved := true, stopped := false, parked := false, issv := false, seq := 5 }
    let r : State := { t with frames := [((0, 0x10400), f)] }
    let sc : ScOp := { head := { hd1 with heldOn := some 8 }, kind := .free, a := 0, b := 0, hrec := 0, vd := 0, d := 0, toks := [], width := 32 }
    (c true (5 + 7 * 2 ^ 16)).firmware = true ∧ (c false (5 + 7 * 2 ^ 16)).firmware = false ∧
    t.occupies 0 0 = true ∧ t.samePlace 0 0 w0 = true ∧ placeError t 0 0 w0 [] none = none ∧ t.samePlace 0 0 { w0 with size := 8192 } = false ∧
    t.occupies 0 1 = false ∧ (asked (some .queries)).takesPre = true ∧ (asked none).takesPre = true ∧
    ({ asked none with priv := 1 } : Pack).takesPre = false ∧ (s.packs.map (·.1)).Nodup ∧ (s.ctx 0).pre = .none ∧
    ({ s.dev with tierWhole := some (2 ^ 50, 2 ^ 50 + 2 ^ 49) } : Device).tierWhole = some (2 ^ 50, 2 ^ 50 + 2 ^ 49) ∧ s.dev.tierWhole = none ∧
    ({ s with ctxs := [] } : State).ctxs = [] ∧ s.dev.snapshot = none ∧
    Table.get? r.frames (0, 0x10400) = some f ∧ (Table.get? (r.core 0).wins 0).isSome = true ∧ r.restoring 0 0x10400 = false ∧
    ((s.setDie 0 { s.die 0 with scq := [sc] }).dies.find? fun d => (heldOp ScOp.head 0 8 d.2.scq).isSome).map (·.1) = some 0 ∧
    (heldOp ScOp.head 0 8 [sc]).map (·.1) = some 0 ∧ s.scHeldOn 0 = false ∧ Memory.wf s.mem = true := by
  decide +kernel

/-- Turns: no run of incomplete numbers is empty or too long; a held store that can be released, and one that cannot, since the item's older store
stands in a flow that has not come to it; arrival numbers on either side of 2^32. -/
theorem wit_runs :
    let e (st label arr : Nat) : HeelEntry :=
      { ctx := 0, uid := 99, item := 5, stamp := st, label := BitVec.ofNat 32 label, arr, launch := 0, scratch := false, addr := 0, bytes := [1]
        full := false, spilled := false, region := 0 }
    let s := (sf.setCtx 0 { sf.ctx 0 with flows := [(7, { cls := .o, incomplete := [(0, 2)], nextArr := 2 }), (8, { cls := .o })] }).setCore 3
      { sf.core 3 with heel := [e 0 7 1, e 1 8 4] }
    (s.stuckHeld == [(3, e 0 7 1), (3, e 1 8 4)]) = true ∧ sf.stuckHeld = [] ∧ (s.ctxs.map (·.1)) = [0] ∧
    precedes (2 ^ 32 - 1) 0 = true ∧ precedes 0 (2 ^ 32 - 1) = false ∧
    ((s.ctx 0).flows.all fun f => f.2.incomplete.all fun r => decide (1 ≤ r.2 ∧ r.2 ≤ 2 ^ 31 - 1)) = true ∧ (s.ctx 1).flows = [] := by
  decide +kernel

/-- StepRunsDecoded, FetchChecks: an instruction of which a part has been done, and none. -/
theorem wit_begun :
    let i : Instr := .add { b := 7, a := 6, d := 5 }
    ({ pk with prog := { begun := some i } } : Pack).prog.begun = some i ∧ pk.prog.begun = none ∧ (sf2 pk).packs.all (fun e => e.2.prog.begun.isNone) = true := by
  decide +kernel

/-- Barriers, WaitsEnd: both phases have come, the pack's own first, and the other path's first; what an act leaves noted. -/
theorem wit_first_phase :
    let b : BarObj := { expect := 2, arrived := 0, phase := true, ovr := false, reserved := false }
    let e : Entry := { kind := .pending, pc := 0x10000, mask := 1, ra := 0, bar := some (2 ^ 52 + 0x60, true) }
    let i : Instr := .barw { a := 0, b := 5, ext := some { imm16 := 4 } }
    let q (own : Bool) : Pack := { pq with stack := [e], prog := { wait := some { why := .barrier (2 ^ 52 + 0x40) true, instr := i }, ownFirst := own } }
    let s (p : Pack) : State := put (put (se.setPack 0 0 p) (2 ^ 52 + 0x40) b.bytes) (2 ^ 52 + 0x60) b.bytes
    let obj (s : State) (k : Nat) : BarObj := parseBar (leNat ((List.range 16).map fun j => Memory.read s.mem (k + j)))
    (s (q true)).pack? 0 0 = some (q true) ∧ obj (s (q true)) (2 ^ 52 + 0x40) = b ∧ obj (s (q true)) (2 ^ 52 + 0x60) = b ∧ (q true).atBarrier = true ∧
    (q true).prog.wait = some { why := .barrier (2 ^ 52 + 0x40) true, instr := i } ∧ (q true).stack = e :: [] ∧ e.kind = .pending ∧
    ((s (q true)).noticed.pack? 0 0).map (·.prog.ownFirst) = some true ∧ ((s (q false)).noticed.pack? 0 0).map (·.prog.ownFirst) = some false ∧
    (let t := put (se.setPack 0 0 (q false)) (2 ^ 52 + 0x40) b.bytes
     (obj t (2 ^ 52 + 0x60)).phase ≠ true ∧ (t.noticed.pack? 0 0).map (·.prog.ownFirst) = some true) := by
  decide +kernel

/-- WaitsEnd: a held store of 32 bytes, of two parts, which can be released; room for a walker, and none. -/
theorem wit_parts :
    let e (a : Nat) : HeelEntry := { ctx := 0, uid := 1, item := 1, stamp := 1, label := 9, arr := 0, launch := 1, scratch := true, addr := BitVec.ofNat 64 a, bytes := List.replicate 16 7, full := true, spilled := false, region := 0 }
    let h := (se.setCore 0 { se.core 0 with heel := [e 0x100, e 0x110] }).setCtx 0 { se.ctx 0 with flows := [(9, { cls := .o })] }
    let who : Who := { ctx := 0, core := 0, slot := 0, uid := 0, direct := true }
    let full := se.setPack 0 1 { pk with width := 1024, allot := 128 }
    (h.core 0).heel[0]? = some (e 0x100) ∧ h.releasable 0 0 = true ∧ ((h.core 0).heel.filter fun f => f.ctx == 0 && f.item == 1 && f.stamp == 1) = [e 0x100, e 0x110] ∧
    scratchAt h who 0x100 16 = some (2 ^ 52 + 0x100) ∧ scratchAt h who 0x110 16 = some (2 ^ 52 + 0x110) ∧
    se.usedRegs 0 + 256 ≤ (if se.mirrored 0 = true then 65536 else 131072) ∧ ¬ full.usedRegs 0 + 256 ≤ (if full.mirrored 0 = true then 65536 else 131072) := by
  decide +kernel

/-- MatrixAtWork: operations with .after, observed, and .arrive: an object that takes the arrival, one that is full, one that is no barrier. -/
theorem wit_links :
    let m : MxOp := { mop .manc 0 with after := true, arrive := true, sync := 0x40 + 0x60 * 2 ^ 32 }
    let r : MxOp := { m with kind := .mst true 0, ha := BitVec.ofNat 512 (bufRec 0x400 0x1000 true false) }
    let b (n : Nat) : BarObj := { expect := 2, arrived := n, phase := false, ovr := false, reserved := false }
    let s (m : MxOp) (o : BarObj) : State := put (sx m) (2 ^ 52 + 0x60) o.bytes
    let obj (t : State) : BarObj := parseBar (leNat ((List.range 16).map fun j => Memory.read t.mem (2 ^ 52 + 0x60 + j)))
    m.ready = true ∧ m.misuse = false ∧ m.head.cover = [] ∧ ((s m (b 0)).core 0).mxq = [m] ∧ (barKey (s m (b 0)) m.head.who m.afterAddr).isSome = true ∧
    barKey (s m (b 0)) m.head.who m.arriveAddr = some (2 ^ 52 + 0x60) ∧ obj (s m (b 0)) = b 0 ∧ (b 0).arrived + 1 < (b 0).expect ∧
    (b 1).arrived + 1 = (b 1).expect ∧ (b 2).expect < (b 2).arrived + 1 ∧ obj (sx m) = { expect := 0, arrived := 0, phase := false, ovr := false, reserved := false } ∧
    Memory.wf (s r (b 0)).mem = true ∧ 2 ^ 52 + 0x60 + 16 ≤ 2 ^ 52 + 0x400 ∧
    (match mstChecks r true (engineW (s r (b 0)) r.head) with | .ok _ w => decide (w = engineW (s r (b 0)) r.head) | _ => false) = true := by
  decide +kernel

/-- CopiesAndCollectives: a gather inside the window and one that leaves it; a collective that times out behind one whose record cannot be read. -/
theorem wit_beyond :
    let g (d : Nat) : GatherOp := { head := hd1, k := 2, s := 0, idx := [(0, 3)], src := cpy1.src, dst := BitVec.ofNat 512 (bufRec d 0x1000 true false) }
    let hs1 := parseHnd (g 0).src.toNat
    let within (d : Nat) : Bool := (gatherPlan (g d) hs1.stride).all fun x =>
      (scratchAt se hd1.who ((parseHnd (g d).dst.toNat).addr x.dst) 1).isSome && (!hs1.space)
    let b : CollOp := { head := { hd1 with uid := 99 }, kind := 0, op := 0, ty := 0, rm := 0, count := 1, src := 0, dst := 0
                        grp := BitVec.ofNat 512 (bufRec 0x700000 256 false false) }
    let c : CollOp := { b with head := hd1, tag := some 5 }
    let s : State := { se with colls := [b, c] }
    let W := startW s noWho (.nop {})
    within 0 = true ∧ within 0x800000 = false ∧ (parseHnd (g 0x800000).dst.toNat).inBounds 0 12 = true ∧
    s.colls = [b, c] ∧ b.tag = none ∧ b.head.result = none ∧ (match collTag b W with | .ok none w => decide (w = W) | _ => false) = true ∧ c.tag = some 5 ∧ c.nth = 0 ∧
    ([c].all fun d => d.tag.isSome && d.nth != 0) = false ∧ ([{ c with nth := 2 }].all fun d => d.tag.isSome && d.nth != 0) = true := by
  decide +kernel

/-- ManagementCommands, SnapshotsAndService: a pre-emption record that waits for the ring, and another record; the two ports of one host address. -/
theorem wit_ring :
    let x := (sf2 pk).ctx 0
    let r (t : Nat) : BitVec 256 := BitVec.ofNat 256 (t * 2 ^ 192)
    let d := (sf2 pk).dev
    (({ x with fqWaiting := [r 2] } : Ctx).fqWaiting.any fun e => e.extractLsb' 192 4 == 2) = true ∧
    (({ x with fqWaiting := [r 1] } : Ctx).fqWaiting.any fun e => e.extractLsb' 192 4 == 2) = false ∧
    (sf2 pk).colls = [] ∧ canonPa d (2 ^ 50 + 2 ^ 49 + 0x700) = canonPa d (2 ^ 50 + 0x700) ∧ 2 ^ 50 ≤ canonPa d (2 ^ 50 + 2 ^ 49 + 0x700) ∧
    frameValid d (2 ^ 50 + 2 ^ 49 + 0x700) = true := by
  decide +kernel

/-- Of the states above no context but 0 has a flow. -/
theorem sf_runs : ∀ n, ∀ f ∈ (sf.ctx n).flows, ∀ e ∈ f.2.incomplete, 1 ≤ e.2 ∧ e.2 ≤ 2 ^ 31 - 1 := by
  intro n
  match n with
  | 0 => decide +kernel
  | n + 1 => exact fun f hf => absurd hf (by simp [show (sf.ctx (n + 1)).flows = [] from rfl])

end Sys2Proof.Tests
end

section
/-! Scalar instructions (spec/04_scalar_instructions.md R77 to R79): the bits of the values that they compute. -/

namespace Sys2Proof.Machine

/-! ### Counts and reversal over the low bits of a number (R78) -/

theorem leadingZeros_le (x n : Nat) : leadingZeros x n ≤ n := by
  induction n with
  | zero => exact le_rfl
  | succ n ih => rw [leadingZeros]; split <;> omega

/-- The bits that CLZ counts are zero. -/
theorem testBit_of_lt_leadingZeros (x n j : Nat) (h : j < leadingZeros x n) : x.testBit (n - 1 - j) = false := by
  induction n generalizing j with
  | zero => simp [leadingZeros] at h
  | succ n ih =>
    rw [leadingZeros] at h
    split at h
    case isTrue => omega
    case isFalse hn =>
      cases j with
      | zero => simpa using hn
      | succ j => simpa [Nat.sub_sub, Nat.add_comm 1 j] using ih j (by omega)

/-- The bit at which CLZ stops counting is one. -/
theorem testBit_leadingZeros (x n : Nat) (h : leadingZeros x n < n) : x.testBit (n - 1 - leadingZeros x n) = true := by
  induction n with
  | zero => omega
  | succ n ih =>
    rw [leadingZeros] at h ⊢
    split
    case isTrue hn => simpa using hn
    case isFalse hn =>
      rw [if_neg hn] at h
      simpa [Nat.sub_sub] using ih (by omega)

theorem trailingZeros_le (x n i : Nat) : trailingZeros x n i ≤ n := by
  induction n generalizing i with
  | zero => exact le_rfl
  | succ n ih =>
    have := ih (i + 1)
    rw [trailingZeros]; split <;> omega

/-- The bits that CTZ counts are zero. -/
theorem testBit_of_lt_trailingZeros (x n i j : Nat) (h : j < trailingZeros x n i) : x.testBit (i + j) = false := by
  induction n generalizing i j with
  | zero => simp [trailingZeros] at h
  | succ n ih =>
    rw [trailingZeros] at h
    split at h
    case isTrue => omega
    case isFalse hi =>
      cases j with
      | zero => simpa using hi
      | succ j => simpa [Nat.add_assoc, Nat.add_comm 1 j] using ih (i + 1) j (by omega)

/-- The bit at which CTZ stops counting is one. -/
theorem testBit_trailingZeros (x n i : Nat) (h : trailingZeros x n i < n) : x.testBit (i + trailingZeros x n i) = true := by
  induction n generalizing i with
  | zero => omega
  | succ n ih =>
    rw [trailingZeros] at h ⊢
    split
    case isTrue hi => exact hi
    case isFalse hi =>
      rw [if_neg hi] at h
      simpa [Nat.add_assoc] using ih (i + 1) (by omega)

theorem popCount_eq_length_filter (x n : Nat) : popCount x n = ((List.range n).filter fun j => x.testBit j).length := by
  induction n with
  | zero => rfl
  | succ n ih =>
    rw [popCount, ih, List.range_succ, List.filter_append, List.length_append, List.filter_singleton, Nat.add_comm]
    cases x.testBit n <;> rfl

theorem testBit_bitReverse (x n j : Nat) : (bitReverse x n).testBit j = (decide (j < n) && x.testBit (n - 1 - j)) := by
  induction n generalizing j with
  | zero => simp [bitReverse]
  | succ n ih =>
    have hbit : bitReverse x (n + 1) = Nat.bit (x.testBit n) (bitReverse x n) := by
      rw [bitReverse, Nat.bit_val]
      cases x.testBit n <;> simp [Nat.add_comm]
    rw [hbit]
    cases j with
    | zero => simp
    | succ j => simp [Nat.testBit_bit_succ, ih, Nat.sub_sub, Nat.add_comm 1 j]

/-! ### Bit fields (R79) -/

/-- BFX's value: the field's bits from bit 0 up, zeros above (R79, R128). -/
theorem testBit_bfxBits (n a ctl j : Nat) : (bfxBits n a ctl).testBit j =
    (decide (j < fieldLen n ctl) && (decide (ctl % 64 + j < n) && a.testBit (ctl % 64 + j))) := by
  rw [bfxBits, Nat.testBit_mod_two_pow, Nat.testBit_div_two_pow, Nat.testBit_mod_two_pow, Nat.add_comm j]

theorem testBit_bfiMask (n ctl j : Nat) :
    (bfiMask n ctl).testBit j = decide (j < n ∧ ctl % 64 ≤ j ∧ j < ctl % 64 + fieldLen n ctl) := by
  rw [bfiMask, Nat.testBit_mod_two_pow, Nat.testBit_mul_two_pow, Nat.testBit_two_pow_sub_one, ← Bool.decide_and,
    ← Bool.decide_and, decide_eq_decide]
  omega

/-- BFI's value: the field's bits are those of c from bit 0 up, the others those of a (R79, R128). -/
theorem testBit_bfiBits (n a ctl c j : Nat) (hj : j < n) : (bfiBits n a ctl c).testBit j =
    if ctl % 64 ≤ j ∧ j < ctl % 64 + fieldLen n ctl then c.testBit (j - ctl % 64) else a.testBit j := by
  rw [bfiBits, Nat.testBit_or, Nat.testBit_xor, Nat.testBit_and, Nat.testBit_and, testBit_bfiMask, Nat.testBit_mod_two_pow,
    Nat.testBit_mul_two_pow]
  by_cases h : ctl % 64 ≤ j ∧ j < ctl % 64 + fieldLen n ctl <;> simp [h, hj]

/-! ### The same of 64-bit words -/

theorem getLsbD_ofNat_of_lt {n j : Nat} (x : Nat) (h : j < n) : (BitVec.ofNat n x).getLsbD j = x.testBit j := by
  rw [BitVec.getLsbD_ofNat, decide_eq_true h, Bool.true_and]

theorem toNat_ofNat_of_le_64 {x : Nat} (h : x ≤ 64) : (BitVec.ofNat 64 x).toNat = x := by
  rw [BitVec.toNat_ofNat, Nat.mod_eq_of_lt (by omega)]

theorem getLsbD_brevWord (a : Word) {j : Nat} (hj : j < 64) : (brevWord a).getLsbD j = a.getLsbD (63 - j) := by
  rw [brevWord, getLsbD_ofNat_of_lt _ hj, testBit_bitReverse, decide_eq_true hj, Bool.true_and, BitVec.testBit_toNat]

theorem getLsbD_bfxBits (a : Word) (ctl : Nat) {j : Nat} (hj : j < 64) :
    (BitVec.ofNat 64 (bfxBits 64 a.toNat ctl)).getLsbD j = (decide (j < fieldLen 64 ctl) && a.getLsbD (ctl % 64 + j)) := by
  rw [getLsbD_ofNat_of_lt _ hj, testBit_bfxBits, BitVec.testBit_toNat]
  by_cases h : ctl % 64 + j < 64
  · rw [decide_eq_true h, Bool.true_and]
  · rw [BitVec.getLsbD_of_ge a _ (Nat.le_of_not_lt h), Bool.and_false]

theorem getLsbD_bfiBits (a c : Word) (ctl : Nat) {j : Nat} (hj : j < 64) :
    (BitVec.ofNat 64 (bfiBits 64 a.toNat ctl c.toNat)).getLsbD j =
      if ctl % 64 ≤ j ∧ j < ctl % 64 + fieldLen 64 ctl then c.getLsbD (j - ctl % 64) else a.getLsbD j := by
  rw [getLsbD_ofNat_of_lt _ hj, testBit_bfiBits _ _ _ _ _ hj, BitVec.testBit_toNat, BitVec.testBit_toNat]

theorem getLsbD_setWidth_setWidth (a : Word) (w : Nat) {j : Nat} (hj : j < 64) :
    ((a.setWidth w).setWidth 64).getLsbD j = (decide (j < w) && a.getLsbD j) := by
  simp [BitVec.getLsbD_setWidth, hj]

/-- The low `w` bits extended by their sign. -/
theorem getLsbD_signExtend_setWidth (a : Word) {w : Nat} (hw : 0 < w) {j : Nat} (hj : j < 64) :
    ((a.setWidth w).signExtend 64).getLsbD j = if j < w then a.getLsbD j else a.getLsbD (w - 1) := by
  rw [BitVec.getLsbD_signExtend, BitVec.msb_eq_getLsbD_last]
  simp only [hj, decide_true, Bool.true_and, BitVec.getLsbD_setWidth]
  by_cases h : j < w <;> simp [h, hw]

theorem extWidth_eq (f : BitVec 4) : extWidth f = if f = 0 then 8 else if f = 1 then 16 else 32 := by
  revert f; decide

/-- A left rotation by less than the width takes bit `j` from `k` places below, around the end. -/
theorem getLsbD_rotateLeft_of_lt (a : Word) {k j : Nat} (hk : k < 64) (hj : j < 64) :
    (a.rotateLeft k).getLsbD j = a.getLsbD ((j + (64 - k)) % 64) := by
  rw [BitVec.getLsbD_rotateLeft, Nat.mod_eq_of_lt hk]
  by_cases h : j < k
  · rw [decide_eq_true h, cond_true, Nat.mod_eq_of_lt (by omega), Nat.add_comm]
  · rw [decide_eq_false h, cond_false, decide_eq_true hj, Bool.true_and, show j + (64 - k) = j - k + 64 by omega,
      Nat.add_mod_right, Nat.mod_eq_of_lt (by omega)]

end Sys2Proof.Machine
end

section
/-! What a scalar instruction leaves of its pack and of the rest, from the form in which its meaning is written (R75, R83). -/

namespace Sys2Proof.Machine

section
variable {s : State} {p : Pack} {o : Opnd} {i : Instr}

/-- The register that a write changes; a write to g0 is discarded (R10). -/
theorem writesG_writeG (p : Pack) (d : Nat) (v : Word) : WritesG p (p.writeG d v) d v :=
  fun r => Pack.readG_writeG p d r v

theorem Pack.next_writeG (p : Pack) (o : Opnd) (d : Nat) (v : Word) :
    (p.writeG d v).next o = { p with g := (p.writeG d v).g, pc := p.pc + BitVec.ofNat 64 o.len, prog := {} } := by
  rw [Pack.writeG_eq]; rfl

theorem Pack.goto_writeG (p : Pack) (t : Word) (d : Nat) (v : Word) :
    (p.writeG d v).goto t = { p with g := (p.writeG d v).g, prog := {}, pc := t } := by
  rw [Pack.writeG_eq]; rfl

variable (hp : s.curPack? = some p)
include hp

/-- An instruction that writes a function of its pack to gD. -/
theorem writesD_of_onPack {g : Pack → Word} (he : exec i s = onPack s fun p => (p.writeG o.d.toNat (g p)).next o) :
    WritesD s p o i (g p) :=
  ⟨(p.writeG o.d.toNat (g p)).next o, he.trans (onPack_next _ hp), writesG_writeG p _ _, Pack.next_writeG p o _ _⟩

theorem writesD_scalarA {f : Word → Word} (he : exec i s = scalarA o f s) : WritesD s p o i (f (p.readG o.a.toNat)) :=
  writesD_of_onPack (g := fun p => f (p.readG o.a.toNat)) hp he

theorem writesD_scalarAB {f : Word → Word → Word} (he : exec i s = scalarAB o f s) :
    WritesD s p o i (f (p.readG o.a.toNat) (p.opB o)) :=
  writesD_of_onPack (g := fun p => f (p.readG o.a.toNat) (p.opB o)) hp he

theorem writesD_scalarABC {f : Word → Word → Word → Word} (he : exec i s = scalarABC o f s) :
    WritesD s p o i (f (p.readG o.a.toNat) (p.opB o) (p.readG o.rc)) :=
  writesD_of_onPack (g := fun p => f (p.readG o.a.toNat) (p.opB o) (p.readG o.rc)) hp he

/-- A control transfer that writes no register. -/
theorem goesTo_of_onPack {t : Pack → Word} (he : exec i s = onPack s fun p => p.goto (t p)) : GoesTo s p i (t p) :=
  he.trans (onPack_next _ hp)

/-- A call: the link is the address of the instruction that follows; link and target are functions of the pack before (R82). -/
theorem calls_of_onPack {t : Pack → Word} (he : exec i s = onPack s fun p => (p.writeG 62 (linkOf p o)).goto (t p)) :
    ∃ q, exec i s = .next (s.after q) ∧ WritesG p q 62 (p.pc + BitVec.ofNat 64 o.len) ∧
      q = { p with g := q.g, prog := {}, pc := t p } :=
  ⟨(p.writeG 62 (linkOf p o)).goto (t p), he.trans (onPack_next _ hp), writesG_writeG p _ _, Pack.goto_writeG p _ _ _⟩

end

/-- The target of a branch is R42's, by its length. -/
theorem branchTarget_eq_targetAt (pc : Word) (o : Opnd) : branchTarget pc o = targetAt pc o := by
  obtain ⟨f, b, a, d, ext, lit⟩ := o
  cases lit <;> cases ext <;> rfl

end Sys2Proof.Machine
end

section
/-! The checks of spec/02_encoding.md R45 read as conditions on an instruction's form and fields. -/

namespace Sys2Proof.Machine

/-- A word with operands `o` passes the checks of R45 for the form `fm`. -/
structure Passes (fm : Form) (o : Opnd) : Prop where
  length : fm.lens.getLsbD o.l.toNat = true
  literal : literalOk fm o = true
  function : fm.fOk = true
  register : (regOk fm.d o.d o.x.dh && regOk fm.a o.a o.x.ah && regOk (fm.bKind o) o.b o.x.bh && regOk fm.c o.x.c o.x.ch) = true
  width : (widthOk fm.d o.d o.x.wd && widthOk fm.a o.a o.x.wa && widthOk (fm.bKind o) o.b o.x.wb && widthOk fm.c o.x.c o.x.wc &&
    fm.shapes) = true
  extension : ((o.x.rm == 0 || fm.rm) && (!o.x.sat || fm.sat) && (!o.x.inv || fm.inv) && (!o.x.hld || fm.hld) &&
    (!o.x.pe || fm.guarded) && (o.x.imm16 == 0 || fm.imm) && (!o.x.ea || fm.a.isV) && (!o.x.eb || (fm.bKind o).isV) &&
    (!o.x.ec || fm.c.isV)) = true
  code : (decide (o.x.rm.toNat ≤ 4) && (o.ext.isNone || (fm.sc.getLsbD o.x.sc.toNat && fm.ord.getLsbD o.x.ord.toNat &&
    fm.ty2.getLsbD o.x.ty2.toNat))) = true
  guard : (!o.x.pe && (o.x.pg != 0 || o.x.pn)) = false

theorem check_eq_none_iff {c : Bool} {e : Illegal} {r : Option Illegal} :
    (if (!c) = true then some e else r) = none ↔ c = true ∧ r = none := by
  cases c <;> simp

/-- An instruction is well formed exactly when its operands pass the checks for its form. -/
theorem wellFormed_iff_passes {i : Instr} {fm : Form} (hf : formOf i = some fm) : i.WellFormed ↔ Passes fm (opndOf i) := by
  have hlast {c : Bool} : (if c = true then some Illegal.guard else none) = none ↔ c = false := by cases c <;> simp
  simp only [Instr.WellFormed, illegalCase, hf, check_eq_none_iff, hlast]
  constructor
  · rintro ⟨hlen, hlit, hfn, hreg, hwidth, hext, hcode, hguard⟩
    exact ⟨hlen, hlit, hfn, hreg, hwidth, hext, hcode, hguard⟩
  · rintro ⟨hlen, hlit, hfn, hreg, hwidth, hext, hcode, hguard⟩
    exact ⟨hlen, hlit, hfn, hreg, hwidth, hext, hcode, hguard⟩

/-! ### Lengths -/

theorem lit_eq_none_of_lens01 {o : Opnd} (h : lens01.getLsbD o.l.toNat = true) : o.lit = none := by
  obtain ⟨f, b, a, d, ext, lit⟩ := o
  cases lit with
  | none => rfl
  | some v => cases ext <;> exact absurd h (by simp [Opnd.l, lens01])

theorem ext_lit_eq_none_of_lens0 {o : Opnd} (h : lens0.getLsbD o.l.toNat = true) : o.ext = none ∧ o.lit = none := by
  obtain ⟨f, b, a, d, ext, lit⟩ := o
  have hl : ∀ l : BitVec 2, lens0.getLsbD l.toNat = true → l = 0 := by decide
  have h0 := hl _ h
  cases ext <;> cases lit <;> simp [Opnd.l] at h0 ⊢

/-! ### Forms of scalar instructions -/

/-- Without an extension, or with one that holds nothing but IMM16, no code is one that R45 refuses. -/
theorem code_of_ext_imm16 {fm : Form} {o : Opnd} (hx : o.ext = none ∨ ∃ n, o.ext = some { imm16 := n })
    (hsc : fm.sc = 1) (hord : fm.ord = 1) (hty : fm.ty2 = 1) :
    (decide (o.x.rm.toNat ≤ 4) && (o.ext.isNone || (fm.sc.getLsbD o.x.sc.toNat && fm.ord.getLsbD o.x.ord.toNat &&
      fm.ty2.getLsbD o.x.ty2.toNat))) = true := by
  obtain ⟨n, hn⟩ : ∃ n, o.x = { imm16 := n } := by
    rcases hx with h | ⟨n, h⟩ <;> rw [Opnd.x, h]
    · exact ⟨0, rfl⟩
    · exact ⟨n, rfl⟩
  rw [hn, hsc, hord, hty]
  simp

theorem lensAll_accepts (o : Opnd) : lensAll.getLsbD o.l.toNat = true := by
  have hall : ∀ l : BitVec 2, lensAll.getLsbD l.toNat = true := by decide
  exact hall o.l

theorem lens01_accepts {o : Opnd} (h : o.lit = none) : lens01.getLsbD o.l.toNat = true := by
  obtain ⟨f, b, a, d, ext, lit⟩ := o
  subst h
  cases ext <;> simp [Opnd.l, lens01]

/-- A word without an extension, or with one whose fields are all zero, with a register or a literal as operand B (R75). -/
theorem passes_formScalar (f : BitVec 4) (a b d : BitVec 6) (v : Word) {x : Option Ext} (hx : x = none ∨ x = some {}) :
    Passes (formScalar true) { f, a, b, d, ext := x } ∧ Passes (formScalar true) { f, a, d, ext := x, lit := some v } := by
  have hcode (o : Opnd) (ho : o.ext = x) :=
    code_of_ext_imm16 (fm := formScalar true) (o := o) (ho ▸ hx.imp_right fun h => ⟨0, h⟩) rfl rfl rfl
  rcases hx with rfl | rfl <;>
    exact ⟨⟨lensAll_accepts _, rfl, rfl, rfl, rfl, rfl, hcode _ rfl, rfl⟩,
      ⟨lensAll_accepts _, rfl, rfl, rfl, rfl, rfl, hcode _ rfl, rfl⟩⟩

/-- The same with operand A alone (R78). -/
theorem passes_formScalar1 (f : BitVec 4) (a d : BitVec 6) {x : Option Ext} (hx : x = none ∨ x = some {}) :
    Passes (formScalar1 true) { f, a, d, ext := x } := by
  have hcode := code_of_ext_imm16 (fm := formScalar1 true) (o := { f, a, d, ext := x })
    (hx.imp_right fun h => ⟨0, h⟩) rfl rfl rfl
  rcases hx with rfl | rfl <;> exact ⟨lens01_accepts rfl, rfl, rfl, rfl, rfl, rfl, hcode, rfl⟩

/-- A jump to the address in A, with no other operand (R82). -/
theorem passes_registerJump (a : BitVec 6) {x : Option Ext} (hx : x = none ∨ x = some {}) :
    Passes { lens := lens01, fOk := true, a := .g } { a, ext := x } := by
  have hcode := code_of_ext_imm16 (fm := { lens := lens01, fOk := true, a := .g }) (o := { a, ext := x })
    (hx.imp_right fun h => ⟨0, h⟩) rfl rfl rfl
  rcases hx with rfl | rfl <;> exact ⟨lens01_accepts rfl, rfl, rfl, rfl, rfl, rfl, hcode, rfl⟩

/-- CALL's three ways of giving the target (R42): B and D, IMM16, or a literal. -/
theorem passes_formBranch_short (b d : BitVec 6) : Passes (formBranch .unused { b, d }) { b, d } :=
  ⟨lensAll_accepts _, rfl, rfl, rfl, rfl, rfl, code_of_ext_imm16 (.inl rfl) rfl rfl rfl, rfl⟩

theorem passes_formBranch_imm (n : BitVec 16) :
    Passes (formBranch .unused { ext := some { imm16 := n } }) { ext := some { imm16 := n } } :=
  ⟨lensAll_accepts _, rfl, rfl, rfl, rfl, by simp [Opnd.x, formBranch], code_of_ext_imm16 (.inr ⟨n, rfl⟩) rfl rfl rfl, rfl⟩

theorem passes_formBranch_literal (v : Word) {x : Option Ext} (hx : x = none ∨ x = some {}) :
    Passes (formBranch .unused { ext := x, lit := some v }) { ext := x, lit := some v } := by
  have hcode := code_of_ext_imm16 (fm := formBranch .unused { ext := x, lit := some v }) (o := { ext := x, lit := some v })
    (hx.imp_right fun h => ⟨0, h⟩)
  rcases hx with rfl | rfl <;> exact ⟨lensAll_accepts _, rfl, rfl, rfl, rfl, rfl, hcode rfl rfl rfl, rfl⟩

/-! ### Unused operands are zero (R33) -/

theorem eq_zero_of_regOk_unused {n : BitVec 6} {hi : BitVec 2} (h : regOk .unused n hi = true) : n = 0 :=
  eq_of_beq (Bool.and_eq_true _ _ ▸ h).1

theorem Passes.registers {fm : Form} {o : Opnd} (h : Passes fm o) :
    regOk fm.d o.d o.x.dh = true ∧ regOk fm.a o.a o.x.ah = true ∧ regOk (fm.bKind o) o.b o.x.bh = true := by
  obtain ⟨⟨⟨hd, ha⟩, hb⟩, -⟩ : ((_ ∧ _) ∧ _) ∧ _ := by simpa only [Bool.and_eq_true] using h.register
  exact ⟨hd, ha, hb⟩

theorem d_eq_zero_of_passes_unused {fm : Form} {o : Opnd} (h : Passes fm o) (hd : fm.d = .unused) : o.d = 0 := by
  obtain ⟨hreg, -, -⟩ := h.registers
  exact eq_zero_of_regOk_unused (hd ▸ hreg)

theorem a_eq_zero_of_passes_unused {fm : Form} {o : Opnd} (h : Passes fm o) (ha : fm.a = .unused) : o.a = 0 := by
  obtain ⟨-, hreg, -⟩ := h.registers
  exact eq_zero_of_regOk_unused (ha ▸ hreg)

theorem b_eq_zero_of_passes_unused {fm : Form} {o : Opnd} (h : Passes fm o) (hb : fm.b = .unused) : o.b = 0 := by
  obtain ⟨-, -, hreg⟩ := h.registers
  rw [Form.bKind, hb, ite_self] at hreg
  exact eq_zero_of_regOk_unused hreg

/-! ### Which instruction has which form -/

/-- The logic, shift and rotate instructions (R77). -/
def logicInstrs : List (Opnd → Instr) := [Instr.and, .or, .xor, .andn, .shl, .shr, .sar, .rol]

/-- The one-operand instructions with the largest F that each takes (R78). -/
def oneOperandInstrs : List ((Opnd → Instr) × Nat) := [(Instr.clz, 0), (.ctz, 0), (.popc, 0), (.brev, 0), (.sext, 2), (.zext, 2)]

/-- The forms of the logic, shift and rotate instructions (R77). -/
theorem formOf_logic {f : Opnd → Instr} (hf : f ∈ logicInstrs) (o : Opnd) :
    formOf (f o) = some (formScalar (o.f == 0)) ∧ opndOf (f o) = o := by
  simp only [logicInstrs, List.mem_cons, List.not_mem_nil, or_false] at hf
  rcases hf with rfl | rfl | rfl | rfl | rfl | rfl | rfl | rfl <;> exact ⟨rfl, rfl⟩

/-- The forms of the one-operand instructions (R78): F is at most 2 on SEXT and ZEXT, 0 on the others. -/
theorem formOf_oneOperand {f : Opnd → Instr} {n : Nat} (hf : (f, n) ∈ oneOperandInstrs) (o : Opnd) :
    formOf (f o) = some (formScalar1 (decide (o.f.toNat ≤ n))) ∧ opndOf (f o) = o := by
  have hz : (o.f == 0) = decide (o.f.toNat ≤ 0) := by
    generalize o.f = v
    revert v; decide
  simp only [oneOperandInstrs, List.mem_cons, Prod.mk.injEq, List.not_mem_nil, or_false] at hf
  rcases hf with ⟨rfl, rfl⟩ | ⟨rfl, rfl⟩ | ⟨rfl, rfl⟩ | ⟨rfl, rfl⟩ | h
  iterate 4 exact ⟨congrArg (fun b => some (formScalar1 b)) hz, rfl⟩
  rcases h with ⟨rfl, rfl⟩ | ⟨rfl, rfl⟩ <;> exact ⟨rfl, rfl⟩

end Sys2Proof.Machine
end

section
/-! The statements of spec/04_scalar_instructions.md about R77 to R79 and R82. -/

namespace Sys2Proof.Machine

/-- The logic, shift and rotate instructions take F = 0 alone (R77). -/
theorem f_eq_zero_of_wellFormed_logic {f : Opnd → Instr} (hf : f ∈ logicInstrs) {o : Opnd} (h : (f o).WellFormed) : o.f = 0 := by
  obtain ⟨hform, -⟩ := formOf_logic hf o
  exact eq_of_beq ((wellFormed_iff_passes hform).mp h).function

/-- They are legal at all four lengths (R77). -/
theorem wellFormed_logic {f : Opnd → Instr} (hf : f ∈ logicInstrs) (a b d : BitVec 6) (v : Word)
    {x : Option Ext} (hx : x = none ∨ x = some {}) :
    (f { a, b, d, ext := x }).WellFormed ∧ (f { a, d, ext := x, lit := some v }).WellFormed := by
  obtain ⟨hreg, hlit⟩ := passes_formScalar 0 a b d v hx
  constructor
  · obtain ⟨hform, hop⟩ := formOf_logic hf { a, b, d, ext := x }
    rw [wellFormed_iff_passes hform, hop]; exact hreg
  · obtain ⟨hform, hop⟩ := formOf_logic hf { a, d, ext := x, lit := some v }
    rw [wellFormed_iff_passes hform, hop]; exact hlit

/-- Settles O2: each instruction writes one word to gD (`writesD_of_onPack`), whose bits the lemmas about its value give. -/
theorem scalarBits : Obligations.ScalarBits := by
  unfold Obligations.ScalarBits
  refine ⟨fun f hf => ⟨fun o => f_eq_zero_of_wellFormed_logic hf, fun a b d v x hx => wellFormed_logic hf a b d v hx⟩, ?_⟩
  intro s p o hp a b c k n bitwise
  have hk : k < 64 := Nat.mod_lt _ (by decide)
  refine ⟨?and, ?or, ?xor, ?andn, ?shl, ?shr, ?sar, ?rol, ?bfx, ?bfi⟩
  case and => exact ⟨_, writesD_scalarAB (f := fun a b => a &&& b) hp rfl, fun j _ => BitVec.getLsbD_and⟩
  case or => exact ⟨_, writesD_scalarAB (f := fun a b => a ||| b) hp rfl, fun j _ => BitVec.getLsbD_or⟩
  case xor => exact ⟨_, writesD_scalarAB (f := fun a b => a ^^^ b) hp rfl, fun j _ => BitVec.getLsbD_xor⟩
  case andn =>
    refine ⟨_, writesD_scalarAB (f := fun a b => a &&& ~~~b) hp rfl, fun j hj => ?_⟩
    rw [BitVec.getLsbD_and, BitVec.getLsbD_not, decide_eq_true hj, Bool.true_and]
  case shl =>
    refine ⟨_, writesD_scalarAB (f := fun a b => a <<< shiftCount b) hp rfl, fun j hj => ?_⟩
    rw [BitVec.getLsbD_shiftLeft, decide_eq_true hj, Bool.true_and, ← decide_not, decide_eq_decide.mpr Nat.not_lt]; rfl
  case shr =>
    refine ⟨_, writesD_scalarAB (f := fun a b => a >>> shiftCount b) hp rfl, fun j _ => ?_⟩
    rw [BitVec.getLsbD_ushiftRight, Nat.add_comm]; rfl
  case sar =>
    refine ⟨_, writesD_scalarAB (f := fun a b => a.sshiftRight (shiftCount b)) hp rfl, fun j hj => ?_⟩
    rw [BitVec.getLsbD_sshiftRight, decide_eq_false (Nat.not_le.mpr hj), Nat.add_comm, BitVec.msb_eq_getLsbD_last]; rfl
  case rol =>
    exact ⟨_, writesD_scalarAB (f := fun a b => a.rotateLeft (shiftCount b)) hp rfl, fun j hj => getLsbD_rotateLeft_of_lt a hk hj⟩
  case bfx =>
    refine ⟨_, writesD_scalarAB (f := fun a b => BitVec.ofNat 64 (bfxBits 64 a.toNat b.toNat)) hp rfl, ?_⟩
    exact fun j hj => getLsbD_bfxBits a _ hj
  case bfi =>
    refine ⟨_, writesD_scalarABC (f := fun a b c => BitVec.ofNat 64 (bfiBits 64 a.toNat b.toNat c.toNat)) hp rfl, ?_⟩
    exact fun j hj => getLsbD_bfiBits a c _ hj

/-- The one-operand instructions read A alone, take no literal, and F up to the bound of their row (R78). -/
theorem fields_of_wellFormed_oneOperand {f : Opnd → Instr} {n : Nat} (hf : (f, n) ∈ oneOperandInstrs) {o : Opnd}
    (h : (f o).WellFormed) : o.b = 0 ∧ o.lit = none ∧ o.f.toNat ≤ n := by
  obtain ⟨hform, hop⟩ := formOf_oneOperand hf o
  rw [wellFormed_iff_passes hform, hop] at h
  exact ⟨b_eq_zero_of_passes_unused h rfl, lit_eq_none_of_lens01 h.length, of_decide_eq_true h.function⟩

theorem wellFormed_oneOperand {f : Opnd → Instr} {n : Nat} (hf : (f, n) ∈ oneOperandInstrs) {v : BitVec 4} (a d : BitVec 6)
    {x : Option Ext} (hv : v.toNat ≤ n) (hx : x = none ∨ x = some {}) : (f { f := v, a, d, ext := x }).WellFormed := by
  obtain ⟨hform, hop⟩ := formOf_oneOperand hf { f := v, a, d, ext := x }
  rw [wellFormed_iff_passes hform, hop, decide_eq_true hv]
  exact passes_formScalar1 v a d hx

theorem extWidth_pos (f : BitVec 4) : 0 < extWidth f := by
  rw [extWidth_eq]; split_ifs <;> decide

/-- Settles O3: each instruction writes one word to gD (`writesD_scalarA`); the counts and the reversal are inductions over the bits. -/
theorem scalarOneOperand : Obligations.ScalarOneOperand := by
  unfold Obligations.ScalarOneOperand
  refine ⟨fun f n hf => ⟨fun o => fields_of_wellFormed_oneOperand hf, fun v a d x => wellFormed_oneOperand hf a d⟩, ?_⟩
  intro s p o hp a w
  have hw : extWidth o.f = w := extWidth_eq o.f
  have hlz := toNat_ofNat_of_le_64 (leadingZeros_le a.toNat 64)
  have htz := toNat_ofNat_of_le_64 (trailingZeros_le a.toNat 64 0)
  refine ⟨?clz, ?ctz, ?popc, ?brev, ?sext, ?zext⟩
  case clz =>
    refine ⟨_, writesD_scalarA (f := fun a => BitVec.ofNat 64 (leadingZeros a.toNat 64)) hp rfl, ?_⟩
    rw [hlz]
    exact ⟨leadingZeros_le _ _, testBit_of_lt_leadingZeros _ _, testBit_leadingZeros _ _⟩
  case ctz =>
    refine ⟨_, writesD_scalarA (f := fun a => BitVec.ofNat 64 (trailingZeros a.toNat 64 0)) hp rfl, ?_⟩
    rw [htz]
    refine ⟨trailingZeros_le _ _ _, fun j hj => ?_, fun h => ?_⟩
    · rw [← BitVec.testBit_toNat, ← Nat.zero_add j]
      exact testBit_of_lt_trailingZeros _ _ _ _ hj
    · rw [← BitVec.testBit_toNat, ← Nat.zero_add (trailingZeros _ _ _)]
      exact testBit_trailingZeros _ _ _ h
  case popc =>
    have h := writesD_scalarA (f := fun a => BitVec.ofNat 64 (popCount a.toNat 64)) (i := .popc o) (o := o) hp rfl
    simpa only [popCount_eq_length_filter, BitVec.testBit_toNat] using h
  case brev => exact ⟨_, writesD_scalarA (f := brevWord) hp rfl, fun j hj => getLsbD_brevWord a hj⟩
  case sext =>
    refine ⟨_, writesD_scalarA (f := fun a => (a.setWidth (extWidth o.f)).signExtend 64) hp rfl, fun j hj => ?_⟩
    rw [← hw]
    exact getLsbD_signExtend_setWidth a (extWidth_pos o.f) hj
  case zext =>
    refine ⟨_, writesD_scalarA (f := fun a => (a.setWidth (extWidth o.f)).setWidth 64) hp rfl, fun j hj => ?_⟩
    rw [← hw]
    exact getLsbD_setWidth_setWidth a _ hj

/-- CALL has no operand A (R82). -/
theorem fields_of_wellFormed_call {o : Opnd} (h : (Instr.call o).WellFormed) : o.f = 0 ∧ o.a = 0 := by
  have h : Passes (formBranch .unused o) o := (wellFormed_iff_passes rfl).mp h
  obtain ⟨hfn, ha⟩ : (formBranch .unused o).fOk = (o.f == 0) ∧ (formBranch .unused o).a = .unused := by
    unfold formBranch; split <;> exact ⟨rfl, rfl⟩
  exact ⟨eq_of_beq (hfn ▸ h.function), a_eq_zero_of_passes_unused h ha⟩

/-- CALLR and JMP have operand A alone, and no literal (R82). -/
theorem fields_of_wellFormed_callr_or_jmp {o : Opnd} (h : (Instr.callr o).WellFormed ∨ (Instr.jmp o).WellFormed) :
    o.f = 0 ∧ o.b = 0 ∧ o.d = 0 ∧ o.lit = none := by
  have h : Passes { lens := lens01, fOk := o.f == 0, a := .g } o :=
    h.elim (wellFormed_iff_passes rfl).mp (wellFormed_iff_passes rfl).mp
  exact ⟨eq_of_beq h.function, b_eq_zero_of_passes_unused h rfl, d_eq_zero_of_passes_unused h rfl, lit_eq_none_of_lens01 h.length⟩

/-- RET has no operand (R82). -/
theorem eq_of_wellFormed_ret {o : Opnd} (h : (Instr.ret o).WellFormed) : o = {} := by
  have h : Passes { lens := lens0, fOk := o.f == 0 } o := (wellFormed_iff_passes rfl).mp h
  obtain ⟨hext, hlit⟩ := ext_lit_eq_none_of_lens0 h.length
  have hf : o.f = 0 := eq_of_beq h.function
  have ha := a_eq_zero_of_passes_unused h rfl
  have hb := b_eq_zero_of_passes_unused h rfl
  have hd := d_eq_zero_of_passes_unused h rfl
  obtain ⟨f, b, a, d, ext, lit⟩ := o
  subst hext hlit hf ha hb hd
  rfl

/-- Settles O6: the link is written from the pack before the call, as the target is (`calls_of_onPack`). -/
theorem scalarCalls : Obligations.ScalarCalls := by
  unfold Obligations.ScalarCalls
  refine ⟨fun o => ⟨fields_of_wellFormed_call, fields_of_wellFormed_callr_or_jmp, eq_of_wellFormed_ret⟩, ?legal, ?meaning⟩
  case legal =>
    intro a b d n v x hx
    have hjump := passes_registerJump a hx
    exact ⟨(wellFormed_iff_passes rfl).mpr (passes_formBranch_short b d), (wellFormed_iff_passes rfl).mpr (passes_formBranch_imm n),
      (wellFormed_iff_passes rfl).mpr (passes_formBranch_literal v hx), (wellFormed_iff_passes rfl).mpr hjump,
      (wellFormed_iff_passes rfl).mpr hjump, rfl⟩
  case meaning =>
    intro s p o hp link target
    refine ⟨?call, ?callr, ?jmp, ?ret⟩
    case call =>
      have ht : target = branchTarget p.pc o := (branchTarget_eq_targetAt _ _).symm
      rw [ht]
      exact calls_of_onPack (t := fun p => branchTarget p.pc o) hp rfl
    case callr => exact calls_of_onPack (t := fun p => p.readG o.a.toNat) hp rfl
    case jmp => exact goesTo_of_onPack (t := fun p => p.readG o.a.toNat) hp rfl
    case ret => exact goesTo_of_onPack (t := fun p => p.readG 62) hp rfl

end Sys2Proof.Machine
end
